-- ==== Sys2Proof/Word.lean ====
section
/-! DEFINITION. The words of the part: payload bytes, 16-bit words and the 11-bit draw. -/

namespace Sys2Proof

/-- One payload byte (R187). -/
abbrev Byte := BitVec 8

/-- A two-byte payload field, and the 16-bit check of a frame or of the retained record (R187, R196). -/
abbrev Word16 := BitVec 16

/-- The 11-bit draw and the linear feedback shift register it is taken from (R31). -/
abbrev Draw := BitVec 11

/-- The low eight bits of a number as a byte. -/
def byteOf (n : Nat) : Byte := BitVec.ofNat 8 n

/-- A two-byte field, most significant byte first (R187). -/
def bytesOf16 (n : Nat) : List Byte := [byteOf (n / 256), byteOf n]

/-- A three-byte field, most significant byte first (R187, S in the WATER report of R196). -/
def bytesOf24 (n : Nat) : List Byte := [byteOf (n / 65536), byteOf (n / 256), byteOf n]

/-- The value of two payload bytes, the first the most significant (R187). -/
def natOf16 (hi lo : Byte) : Nat := hi.toNat * 256 + lo.toNat

/-- A flag's weight in a byte. -/
def bitIf (b : Bool) (weight : Nat) : Nat := if b then weight else 0

/-- An addition that holds at its maximum ("saturating", spec/00_scope.md, Arithmetic). -/
def satAdd (cap n k : Nat) : Nat := min cap (n + k)

/-- A value taken to the nearer end of a range ("clamped", spec/00_scope.md, Arithmetic). -/
def clampInt (lo hi x : Int) : Int := max lo (min hi x)

/-- A number taken to the nearer end of a range ("clamped", spec/00_scope.md, Arithmetic). -/
def clampNat (lo hi x : Nat) : Nat := max lo (min hi x)

end Sys2Proof
end

