-- ==== Sys2Proof/Config.lean ====
section
/-! DEFINITION. What the straps and the manual's tables fix (R1, R33, R97), and the free values of the model. -/

namespace Sys2Proof

/-- A mains frequency the part may fix at start-up (R198). -/
inductive Freq where
  | hz50
  | hz60
deriving DecidableEq, Repr

namespace Config

/-- The circuit limit L of a limit class, in units of 10 W; class 0 has none (R1). -/
def limitUnits (limitClass : Nat) : Option Nat :=
  match limitClass with
  | 1 => some 200
  | 2 => some 250
  | 3 => some 300
  | 4 => some 360
  | 5 => some 440
  | 6 => some 550
  | 7 => some 720
  | _ => none

/-- The reserve R, 15 units in every class (R1). -/
def reserve : Nat := 15

/-- The rating of TOP in watts, by variant (R33). -/
def topWatts (variant : Nat) : Nat :=
  match variant with
  | 0 => 1400
  | 1 => 1200
  | 2 => 1600
  | _ => 1400

/-- The rating of BOTTOM in watts, by variant (R33). -/
def bottomWatts (variant : Nat) : Nat :=
  match variant with
  | 0 => 1100
  | 1 => 1000
  | 2 => 1200
  | _ => 1100

/-- The rating of RING in watts, by variant (R33). -/
def ringWatts (variant : Nat) : Nat :=
  match variant with
  | 0 => 1900
  | 1 => 1600
  | 2 => 2100
  | _ => 1900

/-- The rating of BOILER in watts, by variant (R33). -/
def boilerWatts (variant : Nat) : Nat :=
  match variant with
  | 0 => 1800
  | 1 => 1500
  | 2 => 2000
  | _ => 2400

/-- The base load in watts, by variant (R33). -/
def baseWatts (variant : Nat) : Nat :=
  match variant with
  | 0 => 80
  | 1 => 70
  | _ => 90

/-- Watts rounded up to whole units of 10 W (R1, R37). -/
def unitsUp (watts : Nat) : Nat := (watts + 9) / 10

/-- The own maximum: the base load plus the four ratings, in units (R1). -/
def ownMaximum (variant : Nat) : Nat :=
  unitsUp (baseWatts variant + topWatts variant + bottomWatts variant + ringWatts variant + boilerWatts variant)

/-- The fallback cap: half of L, and in class 0 the own maximum (R1). -/
def fallbackCap (limitClass variant : Nat) : Nat :=
  match limitUnits limitClass with
  | some l => l / 2
  | none => ownMaximum variant

/-- Full-cycle crossings in a second: 50 or 60 (R120). -/
def cyclesPerSecond : Freq → Nat
  | .hz50 => 50
  | .hz60 => 60

/-- The evaporation threshold in watt-cycles (R97). -/
def evaporationThreshold : Freq → Nat
  | .hz50 => 130000
  | .hz60 => 156000

/-- The scale load at which the warning is set (R145, R148). -/
def warningLevel : Nat := 600000

/-- The scale load at which the lock is set (R145, R148). -/
def lockLevel : Nat := 900000

/-- The largest scale load (R145, R147). -/
def scaleMax : Nat := 1000000

/-- FREE VALUE (log 10): a byte of a report whose value the layouts of R196 do not give: a reading before its
first sample, the core reading of a probe that is not PRESENT, the header fields of an EMPTY slot.
It has no body, so no proof can rest on its value. -/
opaque freeByte : Nat → Byte

end Config
end Sys2Proof
end

