-- ==== Sys2Proof/Syntax.lean ====
section
/-! DEFINITION. The commands of the part: one constructor of Instr for each row of spec/opcode_table.json. -/

namespace Sys2Proof

/-- A door level: the debounced state, or what the raw door switch reads (R67). -/
inductive Door where
  | closed
  | opened
deriving DecidableEq, Repr

/-- The debounced state of a level probe (R80). -/
inductive Probe where
  | wet
  | dry
deriving DecidableEq, Repr

/-- The level of a tank that is PRESENT (R81). -/
inductive TankLevel where
  | empty
  | low
  | ok
deriving DecidableEq, Repr

/-- The tank: ABSENT, or PRESENT with its level (R81). -/
inductive Tank where
  | absent
  | present (level : TankLevel)
deriving DecidableEq, Repr

/-- What the core probe input reads at a sample (R58). -/
inductive CoreInput where
  | openCircuit
  | shorted
  | reading (tenths : Int)
deriving DecidableEq, Repr

/-- The levels at the input pins: what a sample finds of cavity temperature in tenths of °C (R57), humidity in whole
percent or no reading (R57), the core probe (R58) and boiler temperature in tenths of °C (R82), and the raw door switch
that crossings examine (R67). -/
structure Sample where
  cavity : Int
  humidity : Option Nat
  core : CoreInput
  boiler : Int
  door : Door
deriving DecidableEq, Repr

/-- The three sensors whose faults are decided from runs of samples (R165). -/
inductive SensorKind where
  | cavity
  | humidity
  | boiler
deriving DecidableEq, Repr

/-- An input whose state start-up establishes (R67, R80, R81, R198). -/
inductive EstablishedInput where
  | door (d : Door)
  | lowProbe (p : Probe)
  | highProbe (p : Probe)
  | tank (t : Tank)
deriving DecidableEq, Repr

/-- What a reset leaves of a retained write in progress (R200: it "may leave the record torn"): a torn record, the
record as it was, or the completed one (log 6). -/
inductive InterruptedWrite where
  | torn
  | previous
  | completed
deriving DecidableEq, Repr

/-- The over-temperature conditions that return at the instant of a CLEAR_FAULTS and are taken between its clearing and its
answer (R173: the two "fall together", "Clear first"). They are the latched conditions that a sample can bring back (R167);
DRAIN_TIMEOUT and RETAINED_RECORD are raised by no such event (R169). -/
structure Returning where
  cavityOverheat : Bool
  boilerDry : Bool
deriving DecidableEq, Repr

/-- No condition returns. -/
def Returning.nothing : Returning := ⟨false, false⟩

/-- What comes with a CLEAR_FAULTS: the payload bytes after the code, and the conditions that return with it (log 52). -/
structure ClearBody where
  bytes : List Byte
  returning : Returning
deriving DecidableEq, Repr

/-- A frame received with a good check: class and kind codes, source and destination station, payload (R187). -/
structure RxFrame where
  cls : Nat
  kind : Nat
  src : Nat
  dst : Nat
  payload : List Byte
deriving DecidableEq, Repr

/-- The commands. Each constructor is the row of spec/opcode_table.json named in its docstring. A request command
carries its source station and the payload bytes that follow the request code (R195). -/
inductive Instr where
  /-- RESET: the strap pins as sampled, and what is left of an interrupted retained write. -/
  | reset (station : Fin 32) (limitClass : Fin 8) (variant : Fin 4) (cut : InterruptedWrite)
  /-- MAINS_MEASUREMENT_END: whether the window had a gap of 100 ms between crossings. -/
  | mainsMeasurementEnd (gap : Bool)
  /-- ANNOUNCE_TICK. -/
  | announceTick
  /-- PEER_ENTRY_REMOVED: the tick at which this station's entry is removed. -/
  | peerEntryRemoved (station : Nat)
  /-- TABLE_FULL_CLEARED: the tick at which TABLE_FULL clears. -/
  | tableFullCleared
  /-- LISTEN_END: the tick that ends LISTEN. -/
  | listenEnd
  /-- QUIET_ENTRY: the tick that enters QUIET. -/
  | quietEntry
  /-- ZERO_CROSSING. -/
  | zeroCrossing
  /-- FRAME_BOUNDARY: the levels at the input pins, and the ended frame's length on the oscillator in ms. -/
  | frameBoundary (smp : Sample) (frameMs : Nat)
  /-- SAMPLE_TICK: the levels at the input pins. -/
  | sampleTick (smp : Sample)
  /-- SENSOR_FAULT_RAISED: the sample that raises this sensor's fault. -/
  | sensorFaultRaised (k : SensorKind) (smp : Sample)
  /-- SENSOR_FAULT_ENDED: the sample that ends this sensor's fault. -/
  | sensorFaultEnded (k : SensorKind) (smp : Sample)
  /-- SECOND: the crossing that completes a second of the sequencer. -/
  | second
  /-- STEP_COUNT_END: the crossing at which elapsed reaches the working duration. -/
  | stepCountEnd
  /-- PROMPT_TIMEOUT: the crossing at which the prompt timer reaches 3,600 s. -/
  | promptTimeout
  /-- INTERRUPTION_TIMEOUT: the crossing at which the interruption timer reaches 1,800 s. -/
  | interruptionTimeout
  /-- SOAK_COMPLETE: the crossing at which elapsed reaches the soak duration. -/
  | soakComplete
  /-- DOOR_OPEN_MINUTE: the crossing at which the door-open seconds reach 60. -/
  | doorOpenMinute
  /-- VENT_COMPLETE: the crossing at which the vent timer reaches 20 s. -/
  | ventComplete
  /-- DOOR_OPEN. -/
  | doorOpen
  /-- DOOR_CLOSE. -/
  | doorClose
  /-- LOW_DRY. -/
  | lowDry
  /-- LOW_WET. -/
  | lowWet
  /-- HIGH_WET. -/
  | highWet
  /-- HIGH_DRY. -/
  | highDry
  /-- STROKE_END: the crossing at which the pump stroke in progress ends. -/
  | strokeEnd
  /-- TANK_ARRIVES: the level read at the arrival. -/
  | tankArrives (level : TankLevel)
  /-- TANK_REMOVED. -/
  | tankRemoved
  /-- TANK_LEVEL_CHANGE: the new level. -/
  | tankLevelChange (level : TankLevel)
  /-- DRAIN_VALVE_OPENS: the sample whose boiler temperature lets a started drain open its valve. -/
  | drainValveOpens (smp : Sample)
  /-- COOL_WAIT_EXPIRED: the crossing at which the cool-wait timer reaches 600 s. -/
  | coolWaitExpired
  /-- DRAIN_COMPLETE: the crossing at which the run-on timer reaches 20 s. -/
  | drainComplete
  /-- DRAIN_TIMEOUT: the crossing at which the drain timer reaches 90 s with LOW wet. -/
  | drainTimeout
  /-- MAINS_LOSS. -/
  | mainsLoss
  /-- MAINS_RESTORED: the span of the 50 good cycles in ms. -/
  | mainsRestored (spanMs : Nat)
  /-- ROTATION_REPORT. -/
  | rotationReport
  /-- QUIET_GAP. -/
  | quietGap
  /-- FRAME_SENT. -/
  | frameSent
  /-- FRAME_LOST. -/
  | frameLost
  /-- FRAME_BROKEN. -/
  | frameBroken
  /-- ANNOUNCEMENT_RECEIVED: source station and payload of a broadcast ANNOUNCE frame. -/
  | announcementReceived (src : Nat) (payload : List Byte)
  /-- ANNOUNCEMENT_IGNORED: source station and payload of a broadcast ANNOUNCE frame. -/
  | announcementIgnored (src : Nat) (payload : List Byte)
  /-- BAD_FRAME. -/
  | badFrame
  /-- FRAME_ABANDONED. -/
  | frameAbandoned
  /-- FRAME_NOT_ACCEPTED: the frame. -/
  | frameNotAccepted (f : RxFrame)
  /-- FRAME_DROPPED: the frame. -/
  | frameDropped (f : RxFrame)
  /-- DUPLICATE_STATION: the rest of a frame that bears the part's own source. -/
  | duplicateStation (cls kind dst : Nat) (payload : List Byte)
  /-- REQUEST_UNKNOWN_CODE: source, the request code, the payload after it. -/
  | requestUnknownCode (src : Nat) (code : Byte) (body : List Byte)
  /-- LOAD_HEADER. -/
  | loadHeader (src : Nat) (body : List Byte)
  /-- STEP_PART_A. -/
  | stepPartA (src : Nat) (body : List Byte)
  /-- STEP_PART_B. -/
  | stepPartB (src : Nat) (body : List Byte)
  /-- START. -/
  | start (src : Nat) (body : List Byte)
  /-- PAUSE. -/
  | pause (src : Nat) (body : List Byte)
  /-- CONTINUE. -/
  | continue_ (src : Nat) (body : List Byte)
  /-- STOP. -/
  | stop (src : Nat) (body : List Byte)
  /-- SKIP. -/
  | skip (src : Nat) (body : List Byte)
  /-- ADJUST. -/
  | adjust (src : Nat) (body : List Byte)
  /-- CONFIRM. -/
  | confirm (src : Nat) (body : List Byte)
  /-- CLEAR. -/
  | clear (src : Nat) (body : List Byte)
  /-- DISCARD. -/
  | discard (src : Nat) (body : List Byte)
  /-- SET_HARDNESS. -/
  | setHardness (src : Nat) (body : List Byte)
  /-- START_DESCALE. -/
  | startDescale (src : Nat) (body : List Byte)
  /-- CLEAR_FAULTS, with the conditions that return at its instant and are taken after it. -/
  | clearFaults (src : Nat) (body : ClearBody)
  /-- QUERY. -/
  | query (src : Nat) (body : List Byte)
  /-- RETAINED_WRITE_COMPLETE: whether the read-back of the stored check matched. -/
  | retainedWriteComplete (readBackGood : Bool)
  /-- INPUT_STATE_ESTABLISHED: which input, and its state. -/
  | inputStateEstablished (i : EstablishedInput)
deriving DecidableEq, Repr

end Sys2Proof
end

