-- ==== Sys2Proof/Decode.lean ====
section
/-! DEFINITION. The command a word of the opcode table spells: the table gives no row any bits, so no word spells one.
(The byte layouts of requests and announcements, R194 and R195, are read by Machine/Operands.lean.) -/

namespace Sys2Proof

/-- spec/opcode_table.json gives none of its rows any bits: a word spells no command. -/
def decodeTableWord (_nbits _w : Nat) : Option Instr := none

end Sys2Proof
end

