-- ==== Sys2Proof/Machine/State.lean ====
section
/-! DEFINITION. The state of the part, block by block, and the state after reset. -/

namespace Sys2Proof.Machine

/-! ## Names -/

/-- The four heating loads (R33). -/
inductive Load where
  | top
  | bottom
  | ring
  | boiler
deriving DecidableEq, Repr

/-- One value for each of the four loads, in the order TOP, BOTTOM, RING, BOILER (R33). -/
structure PerLoad (α : Type) where
  top : α
  bottom : α
  ring : α
  boiler : α
deriving DecidableEq, Repr

/-- The modes of a step: ten cooking modes and four service modes (R53). -/
inductive Mode where
  | convection
  | topBottom
  | grill
  | bottomHeat
  | steam
  | combi
  | reheat
  | proof
  | keepWarm
  | wait
  | drain
  | fill
  | soak
  | rinse
deriving DecidableEq, Repr

/-- The share states (R12 to R22). -/
inductive ShareState where
  | listen
  | steady
  | asking
  | isolated
  | unshared
  | quiet
deriving DecidableEq, Repr

/-- The station kinds of an announcement (R6, R194). -/
inductive StationKind where
  | panel
  | cooktop
  | oven
  | hood
  | module
  | other
deriving DecidableEq, Repr

/-- The vent flap positions (R70). -/
inductive Flap where
  | opened
  | closed
deriving DecidableEq, Repr

/-- The core probe status, and the class of one sample of it (R58). -/
inductive CoreStatus where
  | present
  | absent
  | shorted
deriving DecidableEq, Repr

/-- The boiler states (R83). -/
inductive BoilerState where
  | empty
  | filling
  | heating
  | ready
  | steaming
  | draining
  | standing
  | off
deriving DecidableEq, Repr

/-- The boiler requests of the sequencer (R84). -/
inductive BoilerRequest where
  | none
  | steam
  | fill
  | soak
  | drain
  | rinse
deriving DecidableEq, Repr

/-- The causes of a tank wait (R89). -/
inductive TankWait where
  | absent
  | empty
  | budget
deriving DecidableEq, Repr

/-- The pump stroke of a fill: none, awaiting the crossing that begins it, or the cycles it has run (R88). -/
inductive Stroke where
  | idle
  | awaiting
  | running (cycles : Nat)
deriving DecidableEq, Repr

/-- Why a drain is owed (R94). -/
inductive OwedDrain where
  | endOfProgram
  | timedOut
  | waterFound
  | startUp
deriving DecidableEq, Repr

/-- A completion the steam generator hands the sequencer (R84). -/
inductive Handed where
  | fillComplete
  | drainComplete
  | rinseComplete
deriving DecidableEq, Repr

/-- The end kinds of a step (R103). -/
inductive EndKind where
  | timed
  | banded
  | core
  | promptOnly
deriving DecidableEq, Repr

/-- The kinds of a program (R99). -/
inductive ProgramKind where
  | recipe
  | service
deriving DecidableEq, Repr

/-- The causes of an abort that a slot may hold (R99). -/
inductive AbortCause where
  | stopped
  | fault
  | timeout
deriving DecidableEq, Repr

/-- The outcome of a program (R99). -/
inductive ProgramOutcome where
  | finished
  | aborted (cause : AbortCause)
deriving DecidableEq, Repr

/-- The outcome in the last-outcome record, which alone may be ABORTED(POWER_DOWN_NONE) (R116). -/
inductive LastOutcomeValue where
  | ended (o : ProgramOutcome)
  | powerDownNone
deriving DecidableEq, Repr

/-- The two slots (R99). -/
inductive SlotIx where
  | s0
  | s1
deriving DecidableEq, Repr

/-- The phases of a step (R118). -/
inductive Phase where
  | promptIn
  | prepare
  | preheat
  | count
  | promptOut
  | vent
deriving DecidableEq, Repr

/-- The run states of a program (R119). -/
inductive RunState where
  | running
  | held
  | paused
  | stopping
deriving DecidableEq, Repr

/-- The eleven fault kinds, in the order of the table at the head of spec/08. -/
inductive FaultKind where
  | cavitySensor
  | humiditySensor
  | boilerSensor
  | coreProbeShort
  | cavityOverheat
  | boilerDry
  | drainTimeout
  | mains
  | link
  | duplicateStation
  | retainedRecord
deriving DecidableEq, Repr

/-- The report kinds, in rotation order (R182, R187). -/
inductive ReportKind where
  | climate
  | program
  | water
  | share
  | fault
deriving DecidableEq, Repr

/-- The answer codes, in the order of the table of R178. -/
inductive AnswerCode where
  | ok
  | clamped
  | busy
  | notReady
  | notLoading
  | badMode
  | badField
  | badIndex
  | outOfOrder
  | notOriginator
  | notPermitted
  | unknownSource
  | scaleLock
  | rinseOwed
  | faultBlock
  | stalePrompt
  | noProgram
deriving DecidableEq, Repr

/-- The link states (R189). -/
inductive LinkState where
  | idle
  | sending
  | receiving
deriving DecidableEq, Repr

/-- The stages of start-up the part can be found in between two commands (R201): held in CONFIG_FAULT, in the mains
measurement, or past stage 6. -/
inductive Stage where
  | configFault
  | measuring
  | service
deriving DecidableEq, Repr

/-- A timer in full seconds of mains cycles from its own start: the seconds counted and the crossings of the second in
progress (R39, R73, R91, R92). -/
structure CycleTimer where
  seconds : Nat
  cycles : Nat
deriving DecidableEq, Repr

/-! ## Blocks -/

/-- What start-up holds: its stage, the straps, the frequency, and the crossings counted in the mains window
(R197, R198, R201). -/
structure Startup where
  stage : Stage
  station : Nat
  limitClass : Nat
  variant : Nat
  freq : Option Freq
  crossings : Nat
deriving DecidableEq, Repr

/-- An entry of the peer table (R6). -/
structure Peer where
  station : Nat
  kind : StationKind
  hold : Nat
  rank : Nat
  draw : Nat
  asking : Bool
  candidate : Nat
  repeats : Nat
  settled : Option Nat
  silent : Nat
deriving DecidableEq, Repr

/-- The share engine (R2, R6, R11, R31, R32). -/
structure Share where
  state : ShareState
  hold : Nat
  applied : Nat
  pendingCut : Nat
  ask : Nat
  draw : Draw
  lfsr : Draw
  ownCount : Nat
  denyCount : Nat
  starved : Bool
  coolDown : Nat
  listenCount : Nat
  quietCount : Nat
  peers : List Peer
  tableFull : Bool
  newcomer : Nat
deriving DecidableEq, Repr

/-- The last-frame record (R36). -/
structure LastFrame where
  taken : PerLoad Nat
  alloc : PerLoad Nat
  conducted : PerLoad Nat
  limited : Bool
deriving DecidableEq, Repr

/-- The load frame (R36), with the element gates (R48). -/
structure LoadFrame where
  running : Bool
  cycle : Nat
  taken : PerLoad Nat
  alloc : PerLoad Nat
  plan : PerLoad (List Nat)
  withdrawn : PerLoad Bool
  conducted : PerLoad Nat
  steamingCount : Nat
  limited : Bool
  last : LastFrame
  doorTimer : Option CycleTimer
  ceiling : Nat
  gates : PerLoad Bool
deriving DecidableEq, Repr

/-- The climate regulator (R54, R57, R58, R67, R79). -/
structure Climate where
  mode : Option Mode
  setpoint : Option Nat
  humidityTarget : Option Nat
  venting : Bool
  tempI : Int
  humI : Int
  degraded : Bool
  cavityReading : Option Int
  lastCavity : Option Int
  humidityReading : Option Nat
  lastHumidity : Option Nat
  coreStatus : CoreStatus
  coreReading : Option Int
  coreSeen : Option CoreStatus
  door : Option Door
  doorPending : Bool
  flapCommand : Flap
  flapDriven : Flap
  ventTimer : Option CycleTimer
  lastDemand : Nat
  lastBoilerDemand : Nat
  coolingFan : Bool
deriving DecidableEq, Repr

/-- The steam generator (R80 to R84, R88 to R92, R95, R97, R98). -/
structure Steam where
  boiler : BoilerState
  soakHeating : Bool
  low : Option Probe
  high : Option Probe
  tank : Option Tank
  boilerReading : Option Int
  lastBoiler : Option Int
  request : BoilerRequest
  used : Bool
  strokes : Nat
  stroke : Stroke
  fillWait : Option TankWait
  drainStarted : Bool
  drainServes : Bool
  owed : Option OwedDrain
  coolWait : Option CycleTimer
  drainTimer : Option CycleTimer
  runOn : Option CycleTimer
  rinsePass : Nat
  evaporation : Nat
  millilitres : Nat
  handed : Option Handed
deriving DecidableEq, Repr

/-- Scale accounting (R145). -/
structure Scale where
  hardness : Nat
  load : Nat
  rinseOwed : Bool
  soakCount : Nat
  drainOnStop : Bool
deriving DecidableEq, Repr

/-- A step record (R103); a service step has its mode, rank, and the fields R151 gives. An absent field is none. -/
structure StepRecord where
  mode : Mode
  setpoint : Option Nat
  humidity : Option Nat
  endKind : Option EndKind
  duration : Option Nat
  band : Option Nat
  coreTarget : Option Nat
  fallback : Option Nat
  preheat : Bool
  promptIn : Option Nat
  promptOut : Option Nat
  rank : Nat
deriving DecidableEq, Repr

/-- A header and its step records: place i holds the record of index i when that index is in the loaded-steps set (R99). -/
structure Program where
  kind : ProgramKind
  stepCount : Nat
  chain : Bool
  tag : Nat
  originator : Nat
  steps : List (Option StepRecord)
deriving DecidableEq, Repr

/-- A slot in one of its five states, with what it then holds (R99). -/
inductive Slot where
  | empty
  | loading (p : Program)
  | ready (p : Program)
  | active (p : Program)
  | done (p : Program) (o : ProgramOutcome)
deriving DecidableEq, Repr

/-- The fields of a first half as sent (R195), not yet checked (R111). -/
structure HalfA where
  modeCode : Nat
  endCode : Nat
  durationPresent : Bool
  setpoint : Nat
  humidity : Nat
  duration : Nat
deriving DecidableEq, Repr

/-- An entry of the staging table (R110). -/
structure Staged where
  src : Nat
  slot : Nat
  index : Nat
  half : HalfA
deriving DecidableEq, Repr

/-- The last-outcome record (R116). -/
structure LastOutcome where
  slot : Nat
  tag : Nat
  kind : ProgramKind
  value : LastOutcomeValue
deriving DecidableEq, Repr

/-- The program store (R99, R110, R116). -/
structure Store where
  slot0 : Slot
  slot1 : Slot
  staging : List Staged
  lastOutcome : LastOutcome
deriving DecidableEq, Repr

/-- The active slot, step index and phase, present together (R118). -/
structure Position where
  slot : SlotIx
  step : Nat
  phase : Phase
deriving DecidableEq, Repr

/-- The sequencer (R118). DOOR and TANK of the hold causes are views (Machine/Flags.lean); PROBE is stored. -/
structure Sequencer where
  run : Option Position
  pauseFlag : Bool
  stopFlag : Bool
  forcedCause : Option AbortCause
  probeHold : Bool
  workKind : Option EndKind
  workDuration : Option Nat
  elapsed : Nat
  prompt : Option Nat
  promptTimer : Option Nat
  interruption : Option Nat
  clock : Nat
deriving DecidableEq, Repr

/-- A fault record (R163). -/
structure FaultRecord where
  active : Bool
  latched : Bool
  count : Nat
deriving DecidableEq, Repr

/-- The bad-sample run and the good-sample run of a sensor kind (R163, R165). -/
structure SampleRun where
  bad : Nat
  good : Nat
deriving DecidableEq, Repr

/-- The fault set: the eleven records, and the runs of the three sensor kinds (R163). -/
structure FaultSet where
  cavitySensor : FaultRecord
  humiditySensor : FaultRecord
  boilerSensor : FaultRecord
  coreProbeShort : FaultRecord
  cavityOverheat : FaultRecord
  boilerDry : FaultRecord
  drainTimeout : FaultRecord
  mains : FaultRecord
  link : FaultRecord
  duplicateStation : FaultRecord
  retainedRecord : FaultRecord
  cavityRun : SampleRun
  humidityRun : SampleRun
  boilerRun : SampleRun
deriving DecidableEq, Repr

/-- What an entry of the transmit queue is (R190); an announcement keeps the ask and draw that R5 tests. -/
inductive EntryKind where
  | announce (ask : Nat) (draw : Draw)
  | answer (dst : Nat)
  | notice
  | report (k : ReportKind)
deriving DecidableEq, Repr

/-- An entry of the transmit queue: its kind, the payloads of the frames left, whether a frame of it is on the line,
and whether its first frame has been SENT (R190). -/
structure Entry where
  kind : EntryKind
  frames : List (List Byte)
  onLine : Bool
  started : Bool
deriving DecidableEq, Repr

/-- The bus link (R188 to R193). `awaitGap` tells the RECEIVING that lasts until a quiet gap, after a BROKEN outcome or an
abandoned frame, from that of a frame (R189). The queue is kept in sending order: by class, and by age within a class. -/
structure BusLink where
  link : LinkState
  awaitGap : Bool
  queue : List Entry
  broken : Nat
  badFrames : Nat
  dropped : Nat
deriving DecidableEq, Repr

/-- The request and report unit (R180, R182, R186). -/
structure ReportUnit where
  rotation : ReportKind
  rotating : Bool
  chainRefusal : Option AnswerCode
deriving DecidableEq, Repr

/-- The contents of the retained record (spec/11 section 11.3). -/
structure Contents where
  hardness : Nat
  load : Nat
  rinseOwed : Bool
  soakCount : Nat
deriving DecidableEq, Repr

/-- The non-volatile record: blank, or contents with their check (R199). -/
inductive StoredRecord where
  | blank
  | written (c : Contents) (check : Word16)
deriving DecidableEq, Repr

/-- The retained record and its write: WRITING exactly when a write in progress is present (R200). -/
structure Retained where
  stored : StoredRecord
  writing : Option Contents
  pendingWrite : Option Contents
deriving DecidableEq, Repr

/-- The state of the part. -/
structure State where
  /-- The commands that wait, first in first out (log 1). -/
  pending : List Instr
  startup : Startup
  share : Share
  load : LoadFrame
  climate : Climate
  steam : Steam
  scale : Scale
  store : Store
  seq : Sequencer
  faults : FaultSet
  bus : BusLink
  report : ReportUnit
  retained : Retained
  /-- The levels last presented at the input pins (log 5). -/
  inputs : Sample
  /-- THE MODEL'S OWN: the counter free values are drawn with (log 10). -/
  freeIndex : Nat
deriving DecidableEq, Repr

/-- No command of the part stops it with a fault: the part's own fault kinds are state (spec/08), and under
CONFIG_FAULT commands change nothing (R197). So the type has no constructor. -/
inductive Fault where
deriving DecidableEq, Repr

/-- Why a command has no meaning. -/
inductive Refusal where
  /-- Raised by exec alone, for a row of the table that has no meaning yet; safe. No arm raises it. -/
  | notModelled (mnemonic : String)
deriving DecidableEq, Repr

/-! ## Reset -/

/-- One value for all four loads. -/
def PerLoad.all {α : Type} (a : α) : PerLoad α := ⟨a, a, a, a⟩

/-- The seed of the LFSR: (station × 61 + 1) mod 2,048 (R31). -/
def seed (station : Nat) : Draw := BitVec.ofNat 11 (station * 61 + 1)

/-- The share engine after reset (R32). -/
def Share.reset (station : Nat) : Share where
  state := .listen
  hold := 0
  applied := 0
  pendingCut := 0
  ask := 0
  draw := seed station
  lfsr := seed station
  ownCount := 0
  denyCount := 0
  starved := false
  coolDown := 0
  listenCount := 0
  quietCount := 0
  peers := []
  tableFull := false
  newcomer := 7

/-- The load frame after reset (R36). -/
def LoadFrame.reset : LoadFrame where
  running := false
  cycle := 0
  taken := .all 0
  alloc := .all 0
  plan := .all []
  withdrawn := .all false
  conducted := .all 0
  steamingCount := 0
  limited := false
  last := ⟨.all 0, .all 0, .all 0, false⟩
  doorTimer := none
  ceiling := 0
  gates := .all false

/-- The climate regulator after reset (R79). DESIGN CHOICE (log 5): the flap is not driven open yet. -/
def Climate.reset : Climate where
  mode := none
  setpoint := none
  humidityTarget := none
  venting := false
  tempI := 0
  humI := 0
  degraded := false
  cavityReading := none
  lastCavity := none
  humidityReading := none
  lastHumidity := none
  coreStatus := .absent
  coreReading := none
  coreSeen := none
  door := none
  doorPending := false
  flapCommand := .opened
  flapDriven := .closed
  ventTimer := none
  lastDemand := 0
  lastBoilerDemand := 0
  coolingFan := false

/-- The steam generator after reset (R98). DESIGN CHOICE (log 5): EMPTY until the LOW probe is established. -/
def Steam.reset : Steam where
  boiler := .empty
  soakHeating := false
  low := none
  high := none
  tank := none
  boilerReading := none
  lastBoiler := none
  request := .none
  used := false
  strokes := 0
  stroke := .idle
  fillWait := none
  drainStarted := false
  drainServes := false
  owed := none
  coolWait := none
  drainTimer := none
  runOn := none
  rinsePass := 0
  evaporation := 0
  millilitres := 0
  handed := none

/-- Scale accounting after reset, before the record is loaded. DESIGN CHOICE (log 5): the blank record's values (R162). -/
def Scale.reset : Scale where
  hardness := 15
  load := 0
  rinseOwed := false
  soakCount := 0
  drainOnStop := false

/-- The program store after reset (R117). -/
def Store.reset : Store where
  slot0 := .empty
  slot1 := .empty
  staging := []
  lastOutcome := ⟨0, 0, .recipe, .powerDownNone⟩

/-- The sequencer after reset (R118). -/
def Sequencer.reset : Sequencer where
  run := none
  pauseFlag := false
  stopFlag := false
  forcedCause := none
  probeHold := false
  workKind := none
  workDuration := none
  elapsed := 0
  prompt := none
  promptTimer := none
  interruption := none
  clock := 0

/-- An inactive fault record (R163). -/
def FaultRecord.clear : FaultRecord := ⟨false, false, 0⟩

/-- The fault set after reset (R163). -/
def FaultSet.reset : FaultSet where
  cavitySensor := .clear
  humiditySensor := .clear
  boilerSensor := .clear
  coreProbeShort := .clear
  cavityOverheat := .clear
  boilerDry := .clear
  drainTimeout := .clear
  mains := .clear
  link := .clear
  duplicateStation := .clear
  retainedRecord := .clear
  cavityRun := ⟨0, 0⟩
  humidityRun := ⟨0, 0⟩
  boilerRun := ⟨0, 0⟩

/-- The bus link after reset (R193). -/
def BusLink.reset : BusLink where
  link := .idle
  awaitGap := false
  queue := []
  broken := 0
  badFrames := 0
  dropped := 0

/-- The request and report unit after reset (R186). -/
def ReportUnit.reset : ReportUnit where
  rotation := .climate
  rotating := false
  chainRefusal := none

/-- Start-up after strap sampling: CONFIG_FAULT for a station strap of 0 or 31, else the mains measurement
(R197, R201). -/
def Startup.sampled (station limitClass variant : Nat) : Startup where
  stage := if station = 0 ∨ station = 31 then .configFault else .measuring
  station := station
  limitClass := limitClass
  variant := variant
  freq := none
  crossings := 0

/-- The part after a reset that sampled these straps: every block at its reset values (R32, R36, R79, R98, R117, R118,
R162, R163, R186, R193), the retained record as given, no write in progress (R200). The waiting commands, the
sensor inputs and the free-value counter belong to the outside and are kept. -/
def State.afterReset (station limitClass variant : Nat) (stored : StoredRecord) (pending : List Instr)
    (inputs : Sample) (freeIndex : Nat) : State where
  pending := pending
  startup := .sampled station limitClass variant
  share := .reset station
  load := .reset
  climate := .reset
  steam := .reset
  scale := .reset
  store := .reset
  seq := .reset
  faults := .reset
  bus := .reset
  report := .reset
  retained := ⟨stored, none, none⟩
  inputs := inputs
  freeIndex := freeIndex

/-- The part right after reset, strapped as station 7, class 4, variant 0 (the part of the manual's worked cases), with
a blank retained record and an empty queue. DESIGN CHOICE (log 4, log 5): the straps, the record and the sensor
inputs are the outside's; the RESET command takes any straps. -/
def State.reset : State :=
  .afterReset 7 4 0 .blank [] ⟨250, some 50, .openCircuit, 250, .closed⟩ 0

end Sys2Proof.Machine
end

