-- ==== Sys2Proof/Machine/Ops.lean ====
section
/-! DEFINITION. The named operations over the blocks: block updates, per-load values, timers, slots, fault records, the
draw register, withdrawal, and the retained write. -/

namespace Sys2Proof.Machine

/-! ## Block updates -/

/-- Update of start-up's state. -/
def State.mapStartup (f : Startup → Startup) (s : State) : State := { s with startup := f s.startup }
/-- Update of the share engine. -/
def State.mapShare (f : Share → Share) (s : State) : State := { s with share := f s.share }
/-- Update of the load frame. -/
def State.mapLoad (f : LoadFrame → LoadFrame) (s : State) : State := { s with load := f s.load }
/-- Update of the climate regulator. -/
def State.mapClimate (f : Climate → Climate) (s : State) : State := { s with climate := f s.climate }
/-- Update of the steam generator. -/
def State.mapSteam (f : Steam → Steam) (s : State) : State := { s with steam := f s.steam }
/-- Update of scale accounting. -/
def State.mapScale (f : Scale → Scale) (s : State) : State := { s with scale := f s.scale }
/-- Update of the program store. -/
def State.mapStore (f : Store → Store) (s : State) : State := { s with store := f s.store }
/-- Update of the sequencer. -/
def State.mapSeq (f : Sequencer → Sequencer) (s : State) : State := { s with seq := f s.seq }
/-- Update of the fault set. -/
def State.mapFaults (f : FaultSet → FaultSet) (s : State) : State := { s with faults := f s.faults }
/-- Update of the bus link. -/
def State.mapBus (f : BusLink → BusLink) (s : State) : State := { s with bus := f s.bus }
/-- Update of the request and report unit. -/
def State.mapReport (f : ReportUnit → ReportUnit) (s : State) : State := { s with report := f s.report }
/-- Update of the retained record. -/
def State.mapRetained (f : Retained → Retained) (s : State) : State := { s with retained := f s.retained }
/-- The sensor inputs as newly presented. -/
def State.setInputs (i : Sample) (s : State) : State := { s with inputs := i }
/-- The queue of waiting commands replaced. -/
def State.setPending (q : List Instr) (s : State) : State := { s with pending := q }
/-- The free-value counter advanced by n draws (log 10). -/
def State.drawFree (n : Nat) (s : State) : State := { s with freeIndex := s.freeIndex + n }

/-! ## Values per load -/

namespace PerLoad

/-- The value of one load. -/
def get {α : Type} (p : PerLoad α) : Load → α
  | .top => p.top
  | .bottom => p.bottom
  | .ring => p.ring
  | .boiler => p.boiler

/-- The values of all four loads from a function of the load. -/
def make {α : Type} (f : Load → α) : PerLoad α := ⟨f .top, f .bottom, f .ring, f .boiler⟩

/-- The sum over the four loads. -/
def sum (p : PerLoad Nat) : Nat := p.top + p.bottom + p.ring + p.boiler

/-- The four values in the order TOP, BOTTOM, RING, BOILER (R196). -/
def toList {α : Type} (p : PerLoad α) : List α := [p.top, p.bottom, p.ring, p.boiler]

end PerLoad

/-- The fixed index of a load (R33). -/
def Load.index : Load → Nat
  | .top => 0
  | .bottom => 1
  | .ring => 2
  | .boiler => 3

/-- The rating of a load in watts, by variant (R33). -/
def Load.watts (variant : Nat) : Load → Nat
  | .top => Config.topWatts variant
  | .bottom => Config.bottomWatts variant
  | .ring => Config.ringWatts variant
  | .boiler => Config.boilerWatts variant

/-! ## Timers of mains cycles -/

namespace CycleTimer

/-- A timer at its start (R73). -/
def zero : CycleTimer := ⟨0, 0⟩

/-- One crossing counted: a full second is `perSecond` crossings, and the timer stands at `cap` seconds (R73). -/
def tick (perSecond cap : Nat) (t : CycleTimer) : CycleTimer :=
  if cap ≤ t.seconds then t
  else if perSecond ≤ t.cycles + 1 then ⟨t.seconds + 1, 0⟩
  else ⟨t.seconds, t.cycles + 1⟩

/-- The next crossing brings the timer to n seconds. -/
def reachesNext (perSecond n : Nat) (t : CycleTimer) : Bool :=
  decide (t.seconds + 1 = n) && decide (perSecond ≤ t.cycles + 1)

end CycleTimer

/-! ## Slots -/

/-- The number of a slot (R99). -/
def SlotIx.number : SlotIx → Nat
  | .s0 => 0
  | .s1 => 1

/-- The slot a number names, if it is 0 or 1 (R99). -/
def SlotIx.ofNumber : Nat → Option SlotIx
  | 0 => some .s0
  | 1 => some .s1
  | _ => none

/-- The other slot (R144). -/
def SlotIx.other : SlotIx → SlotIx
  | .s0 => .s1
  | .s1 => .s0

/-- One slot of the store. -/
def Store.slot (t : Store) : SlotIx → Slot
  | .s0 => t.slot0
  | .s1 => t.slot1

/-- One slot of the store replaced. -/
def Store.setSlot (ix : SlotIx) (v : Slot) (t : Store) : Store :=
  match ix with
  | .s0 => { t with slot0 := v }
  | .s1 => { t with slot1 := v }

/-- The program a slot holds (R99). -/
def Slot.program : Slot → Option Program
  | .empty => none
  | .loading p => some p
  | .ready p => some p
  | .active p => some p
  | .done p _ => some p

/-- The slot is free (R99). -/
def Slot.isEmpty : Slot → Bool
  | .empty => true
  | .loading _ => false
  | .ready _ => false
  | .active _ => false
  | .done _ _ => false

/-- The state of a slot as the PROGRAM report codes it: EMPTY 0 to DONE 4 (R196). -/
def Slot.code : Slot → Nat
  | .empty => 0
  | .loading _ => 1
  | .ready _ => 2
  | .active _ => 3
  | .done _ _ => 4

/-- The record at a step index, if that index is loaded (R99). -/
def Program.step (p : Program) (i : Nat) : Option StepRecord :=
  match p.steps[i]? with
  | some r => r
  | none => none

/-- The size of the loaded-steps set (R99). -/
def Program.loadedCount (p : Program) : Nat := (p.steps.filter Option.isSome).length

/-- The loaded-steps set holds every index (R108). -/
def Program.complete (p : Program) : Bool := p.steps.all Option.isSome

/-- The step records that are loaded, in order of index (R99). -/
def Program.records (p : Program) : List StepRecord := p.steps.filterMap id

/-- The lowest-numbered EMPTY slot (R100, R150). -/
def Store.lowestEmpty (t : Store) : Option SlotIx :=
  if t.slot0.isEmpty then some .s0 else if t.slot1.isEmpty then some .s1 else none

/-- The staging entries that name a slot are freed, when it leaves LOADING (R110). -/
def Store.freeStaging (ix : SlotIx) (t : Store) : Store :=
  { t with staging := t.staging.filter (fun e => decide (e.slot ≠ ix.number)) }

/-- A slot becomes EMPTY from LOADING, or by DISCARD, dropping its header, records and staging entries (R99, R110, R113). -/
def Store.emptySlot (ix : SlotIx) (t : Store) : Store := (t.setSlot ix .empty).freeStaging ix

/-- A DONE slot becomes EMPTY, dropping its header, records and outcome; staging entries that name it are kept (R99, R110,
R114, R115). -/
def Store.releaseSlot (ix : SlotIx) (t : Store) : Store := t.setSlot ix .empty

/-- A LOADING slot of one of the given stations returns to EMPTY (R102). -/
def Store.abandonSlot (gone : List Nat) (ix : SlotIx) (t : Store) : Store :=
  match t.slot ix with
  | .loading p => if gone.contains p.originator then t.emptySlot ix else t
  | .empty => t
  | .ready _ => t
  | .active _ => t
  | .done _ _ => t

/-- Every LOADING slot of the given stations returns to EMPTY (R102). -/
def Store.abandon (gone : List Nat) (t : Store) : Store := (t.abandonSlot gone .s0).abandonSlot gone .s1

/-! ## Fault records -/

/-- The record of a kind (R163). -/
def FaultSet.get (f : FaultSet) : FaultKind → FaultRecord
  | .cavitySensor => f.cavitySensor
  | .humiditySensor => f.humiditySensor
  | .boilerSensor => f.boilerSensor
  | .coreProbeShort => f.coreProbeShort
  | .cavityOverheat => f.cavityOverheat
  | .boilerDry => f.boilerDry
  | .drainTimeout => f.drainTimeout
  | .mains => f.mains
  | .link => f.link
  | .duplicateStation => f.duplicateStation
  | .retainedRecord => f.retainedRecord

/-- The record of a kind replaced. -/
def FaultSet.set (k : FaultKind) (r : FaultRecord) (f : FaultSet) : FaultSet :=
  match k with
  | .cavitySensor => { f with cavitySensor := r }
  | .humiditySensor => { f with humiditySensor := r }
  | .boilerSensor => { f with boilerSensor := r }
  | .coreProbeShort => { f with coreProbeShort := r }
  | .cavityOverheat => { f with cavityOverheat := r }
  | .boilerDry => { f with boilerDry := r }
  | .drainTimeout => { f with drainTimeout := r }
  | .mains => { f with mains := r }
  | .link => { f with link := r }
  | .duplicateStation => { f with duplicateStation := r }
  | .retainedRecord => { f with retainedRecord := r }

/-- The eleven kinds, in the order of the table at the head of spec/08. -/
def FaultKind.all : List FaultKind :=
  [.cavitySensor, .humiditySensor, .boilerSensor, .coreProbeShort, .cavityOverheat, .boilerDry, .drainTimeout,
    .mains, .link, .duplicateStation, .retainedRecord]

/-- The latching kinds (the table at the head of spec/08). -/
def FaultKind.latching : FaultKind → Bool
  | .cavityOverheat => true
  | .boilerDry => true
  | .drainTimeout => true
  | .retainedRecord => true
  | .cavitySensor => false
  | .humiditySensor => false
  | .boilerSensor => false
  | .coreProbeShort => false
  | .mains => false
  | .link => false
  | .duplicateStation => false

/-- The condition arises: an inactive record becomes active and counted, a latched one is no longer latched (R164). -/
def FaultRecord.arise (r : FaultRecord) : FaultRecord :=
  if r.active then { r with latched := false } else ⟨true, false, satAdd 255 r.count 1⟩

/-- The condition goes: a latching record becomes latched, another inactive; DUPLICATE_STATION stays (R164). -/
def FaultRecord.goes (k : FaultKind) (r : FaultRecord) : FaultRecord :=
  if r.active && !r.latched && decide (k ≠ .duplicateStation) then
    if k.latching then { r with latched := true } else { r with active := false }
  else r

/-- CLEAR_FAULTS on one record: a latched record becomes inactive (R164, R173). -/
def FaultRecord.cleared (r : FaultRecord) : FaultRecord :=
  if r.active && r.latched then { r with active := false, latched := false } else r

/-- The fault of this kind is in force (R163). -/
def State.faultActive (k : FaultKind) (s : State) : Bool := (s.faults.get k).active

/-- The record of one kind passed through a transition (R164). -/
def State.setFault (k : FaultKind) (f : FaultRecord → FaultRecord) (s : State) : State :=
  s.mapFaults (fun t => t.set k (f (t.get k)))

/-! ## The draw -/

/-- One advance of the LFSR: doubled within 11 bits, the new weight-1 part the exclusive-or of the old weight-1,024
and weight-256 parts (R31). -/
def lfsrNext (v : Draw) : Draw :=
  (v <<< 1) ||| (if xor (v.getLsbD 10) (v.getLsbD 8) then 1#11 else 0#11)

/-- The share engine's LFSR advances once (R31). -/
def State.advanceLfsr (s : State) : State := s.mapShare (fun h => { h with lfsr := lfsrNext h.lfsr })

/-! ## Withdrawal -/

/-- The loads' remaining planned cycles are taken out of the frame in progress; with no frame in progress there are
none (R49). -/
def LoadFrame.withdraw (which : Load → Bool) (l : LoadFrame) : LoadFrame :=
  if l.running then { l with withdrawn := PerLoad.make (fun i => l.withdrawn.get i || which i) } else l

/-- A withdrawal at the load frame (R49). -/
def State.withdraw (which : Load → Bool) (s : State) : State := s.mapLoad (LoadFrame.withdraw which)

/-- Withdrawal of all four loads (R49). -/
def State.withdrawAll (s : State) : State := s.withdraw (fun _ => true)

/-- Withdrawal of the boiler (R49). -/
def State.withdrawBoiler (s : State) : State := s.withdraw (fun i => decide (i = .boiler))

/-! ## The retained record -/

/-- A list of the low bits of a number, most significant first (R187). -/
def bitsOf (width n : Nat) : List Bool := (List.range width).map (fun i => n.testBit (width - 1 - i))

/-- One bit into the check: polynomial x¹⁶ + x¹² + x⁵ + 1 (R187). -/
def checkStep (r : Word16) (b : Bool) : Word16 :=
  if xor (r.getLsbD 15) b then (r <<< 1) ^^^ 0x1021#16 else r <<< 1

/-- The check of a bit sequence: it starts from all ones and is not inverted at the end (R187). -/
def checkOf (bits : List Bool) : Word16 := bits.foldl checkStep 0xFFFF#16

/-- The check over the four contents of the retained record (spec/11 section 11.3). PRESUMED (log 19): the contents in
the widths of the WATER report, most significant bit first; the manual gives no layout. -/
def Contents.check (c : Contents) : Word16 :=
  checkOf (bitsOf 8 c.hardness ++ bitsOf 24 c.load ++ bitsOf 8 (bitIf c.rinseOwed 1) ++ bitsOf 16 c.soakCount)

/-- The contents are within their ranges (spec/11 section 11.3). -/
def Contents.inRange (c : Contents) : Bool :=
  decide (c.hardness ≤ 30) && decide (c.load ≤ Config.scaleMax) && decide (c.soakCount ≤ 65535)

/-- A record holding these contents with a good check. -/
def StoredRecord.good (c : Contents) : StoredRecord := .written c c.check

/-- A torn record: its check does not match (R199, R200). -/
def StoredRecord.torn (c : Contents) : StoredRecord := .written c (~~~ c.check)

/-- Scale accounting's contents as a write request carries them (R149). -/
def Scale.contents (a : Scale) : Contents := ⟨a.hardness, a.load, a.rinseOwed, a.soakCount⟩

/-- A write request: it starts a write when IDLE, and becomes the pending write when WRITING (R200). -/
def Retained.request (c : Contents) (r : Retained) : Retained :=
  match r.writing with
  | none => { r with writing := some c }
  | some _ => { r with pendingWrite := some c }

/-- Scale accounting requests a retained write of its present contents (R149). -/
def State.requestWrite (s : State) : State := s.mapRetained (fun r => r.request s.scale.contents)

/-- A write ends with its read-back (R200). -/
def Retained.complete (readBackGood : Bool) (r : Retained) : Retained :=
  match r.writing with
  | none => r
  | some c =>
    if readBackGood then { stored := .good c, writing := r.pendingWrite, pendingWrite := none }
    else { stored := .torn c, writing := some (r.pendingWrite.getD c), pendingWrite := none }

/-- What a reset leaves in the store (R200, log 6). -/
def Retained.afterReset (cut : InterruptedWrite) (r : Retained) : StoredRecord :=
  match r.writing, cut with
  | none, _ => r.stored
  | some c, .torn => .torn c
  | some _, .previous => r.stored
  | some c, .completed => .good c

end Sys2Proof.Machine
end

