-- ==== Sys2Proof/Machine/Flags.lean ====
section
/-! DEFINITION. What follows from the state at every moment and is not stored apart: the active program and its run state,
hold causes, tank wait, scale warning and lock, mode properties, the ceiling, the rank, and the output pins. -/

namespace Sys2Proof.Machine

/-! ## Modes (R53) -/

/-- STEAM, COMBI, REHEAT and PROOF are the humid modes (R53). -/
def Mode.humid : Mode → Bool
  | .steam => true
  | .combi => true
  | .reheat => true
  | .proof => true
  | .convection => false
  | .topBottom => false
  | .grill => false
  | .bottomHeat => false
  | .keepWarm => false
  | .wait => false
  | .drain => false
  | .fill => false
  | .soak => false
  | .rinse => false

/-- The humidity-regulated modes (R53). -/
def Mode.humidityRegulated : Mode → Bool
  | .combi => true
  | .reheat => true
  | .proof => true
  | .steam => false
  | .convection => false
  | .topBottom => false
  | .grill => false
  | .bottomHeat => false
  | .keepWarm => false
  | .wait => false
  | .drain => false
  | .fill => false
  | .soak => false
  | .rinse => false

/-- DRAIN, FILL, SOAK and RINSE are the service modes (R53). -/
def Mode.service : Mode → Bool
  | .drain => true
  | .fill => true
  | .soak => true
  | .rinse => true
  | .steam => false
  | .combi => false
  | .reheat => false
  | .proof => false
  | .convection => false
  | .topBottom => false
  | .grill => false
  | .bottomHeat => false
  | .keepWarm => false
  | .wait => false

/-- A heating step's mode is any cooking mode other than WAIT (spec/06, before section 6.1). -/
def Mode.heats (m : Mode) : Bool := !m.service && decide (m ≠ .wait)

/-- The setpoint range of a mode in °C; none for WAIT and the service modes (R53). -/
def Mode.setpointRange : Mode → Option (Nat × Nat)
  | .convection => some (30, 230)
  | .topBottom => some (50, 230)
  | .grill => some (150, 230)
  | .bottomHeat => some (50, 200)
  | .steam => some (35, 100)
  | .combi => some (100, 230)
  | .reheat => some (100, 180)
  | .proof => some (30, 45)
  | .keepWarm => some (60, 90)
  | .wait => none
  | .drain => none
  | .fill => none
  | .soak => none
  | .rinse => none

/-- The humidity range of a mode that takes a humidity: COMBI and PROOF (R53, R105). -/
def Mode.humidityRange : Mode → Option (Nat × Nat)
  | .combi => some (20, 90)
  | .proof => some (60, 90)
  | .convection => none
  | .topBottom => none
  | .grill => none
  | .bottomHeat => none
  | .steam => none
  | .reheat => none
  | .keepWarm => none
  | .wait => none
  | .drain => none
  | .fill => none
  | .soak => none
  | .rinse => none

/-- The weight, out of 4, with which a mode's temperature demand drives a load; 0 where it does not (R53). -/
def Mode.weight (m : Mode) (i : Load) : Nat :=
  match m, i with
  | .convection, .ring => 4
  | .topBottom, .top => 4
  | .topBottom, .bottom => 3
  | .grill, .top => 4
  | .bottomHeat, .bottom => 4
  | .steam, .boiler => 4
  | .combi, .ring => 4
  | .reheat, .ring => 4
  | .proof, .bottom => 2
  | .keepWarm, .top => 2
  | .keepWarm, .bottom => 2
  | _, _ => 0

/-- The convection fan speed of a mode (R53). -/
def Mode.fanSpeed : Mode → Nat
  | .convection => 2
  | .topBottom => 0
  | .grill => 0
  | .bottomHeat => 0
  | .steam => 1
  | .combi => 2
  | .reheat => 2
  | .proof => 1
  | .keepWarm => 0
  | .wait => 0
  | .drain => 0
  | .fill => 0
  | .soak => 0
  | .rinse => 0

/-- The temperature load set of a mode: the loads its temperature demand drives, whatever their weights (R61). -/
def Mode.loadSet (m : Mode) : PerLoad Bool := PerLoad.make (fun i => decide (0 < m.weight i))

/-- The service modes' and WAIT's empty load set stands for no program too: NONE drives nothing (R61). -/
def loadSetOf : Option Mode → PerLoad Bool
  | some m => m.loadSet
  | none => .all false

/-! ## Start-up, faults and scale -/

/-- Start-up has reached its last stage (R201). -/
def State.inService (s : State) : Bool := decide (s.startup.stage = .service)

/-- The fault pin is driven under CONFIG_FAULT (R197). -/
def State.faultPin (s : State) : Bool := decide (s.startup.stage = .configFault)

/-- The MAINS fault is active (R168). -/
def State.mainsOut (s : State) : Bool := s.faultActive .mains

/-- The part's own station number (R3). -/
def State.station (s : State) : Nat := s.startup.station

/-- The circuit limit L (R1). -/
def State.limit (s : State) : Option Nat := Config.limitUnits s.startup.limitClass

/-- Limit class 0 has no limit (R1). -/
def State.noLimit (s : State) : Bool := s.limit.isNone

/-- Crossings in a second at the fixed frequency; 50 before one is fixed, when nothing counts seconds (R120). -/
def State.perSecond (s : State) : Nat := Config.cyclesPerSecond (s.startup.freq.getD .hz50)

/-- A fault that bars heating the boiler is active (R96). -/
def State.barsHeating (s : State) : Bool :=
  s.faultActive .cavityOverheat || s.faultActive .boilerSensor || s.faultActive .boilerDry

/-- A fault that bars filling the boiler is active (R96). -/
def State.barsFilling (s : State) : Bool := s.faultActive .boilerSensor || s.faultActive .boilerDry

/-- The scale warning: S at or above 600,000 (R145). -/
def State.scaleWarning (s : State) : Bool := decide (Config.warningLevel ≤ s.scale.load)

/-- The scale lock: S at or above 900,000 (R145). -/
def State.scaleLock (s : State) : Bool := decide (Config.lockLevel ≤ s.scale.load)

/-! ## The active program -/

/-- The slot's program if the slot is ACTIVE (R99). -/
def Slot.activeProgram : Slot → Option Program
  | .active p => some p
  | .empty => none
  | .loading _ => none
  | .ready _ => none
  | .done _ _ => none

/-- The position and program of the ACTIVE slot (R118). -/
def State.activeRun (s : State) : Option (Position × Program) :=
  match s.seq.run with
  | none => none
  | some at_ =>
    match (s.store.slot at_.slot).activeProgram with
    | some p => some (at_, p)
    | none => none

/-- A slot is ACTIVE (R118). -/
def State.hasActive (s : State) : Bool := s.activeRun.isSome

/-- The program of the ACTIVE slot. -/
def State.activeProgram (s : State) : Option Program := s.activeRun.map Prod.snd

/-- The record of the active step. -/
def State.activeStep (s : State) : Option StepRecord :=
  match s.activeRun with
  | some (at_, p) => p.step at_.step
  | none => none

/-- The phase of the active step. -/
def State.phase (s : State) : Option Phase := s.activeRun.map (fun r => r.1.phase)

/-- A SERVICE program is ACTIVE. -/
def State.serviceActive (s : State) : Bool :=
  match s.activeProgram with
  | some p => decide (p.kind = .service)
  | none => false

/-- The current step of the ACTIVE slot is humid (R75). -/
def State.stepHumid (s : State) : Bool :=
  match s.activeStep with
  | some r => r.mode.humid
  | none => false

/-- The debounced door is OPEN (R67). -/
def State.doorOpen (s : State) : Bool := decide (s.climate.door = some .opened)

/-- The LOW probe reads WET (R80). -/
def State.lowWet (s : State) : Bool := decide (s.steam.low = some .wet)

/-- The HIGH probe reads WET (R80). -/
def State.highWet (s : State) : Bool := decide (s.steam.high = some .wet)

/-- The tank is PRESENT (R81). -/
def State.tankPresent (s : State) : Bool :=
  match s.steam.tank with
  | some (.present _) => true
  | some .absent => false
  | none => false

/-- A drain has started and its valve is not closed for good: it waits to open, or it is DRAINING (R91, R92). -/
def State.drainInHand (s : State) : Bool := s.steam.drainStarted || decide (s.steam.boiler = .draining)

/-- The tank wait the steam generator hands: the cause of a waiting fill, or ABSENT of a drain in hand without its
tank (R84, R89, R91, R92). -/
def State.tankWait (s : State) : Option TankWait :=
  match s.steam.fillWait with
  | some c => some c
  | none => if s.drainInHand && !s.tankPresent then some .absent else none

/-- DOOR is in the hold causes (R132). -/
def State.doorHold (s : State) : Bool := s.hasActive && s.doorOpen

/-- TANK is in the hold causes (R133). -/
def State.tankHold (s : State) : Bool :=
  s.hasActive && decide (s.steam.request ≠ .none) && s.tankWait.isSome

/-- PROBE is in the hold causes (R129). -/
def State.probeHold (s : State) : Bool := s.hasActive && s.seq.probeHold

/-- The hold causes are not empty (R119). -/
def State.anyHold (s : State) : Bool := s.doorHold || s.tankHold || s.probeHold

/-- The run state: the first row of R119's table that applies. -/
def State.runState (s : State) : Option RunState :=
  if !s.hasActive then none
  else if s.seq.stopFlag then some .stopping
  else if s.seq.pauseFlag then some .paused
  else if s.anyHold then some .held
  else some .running

/-- The program is RUNNING (R119). -/
def State.isRunning (s : State) : Bool := decide (s.runState = some .running)

/-- The suspended flag: the program is PAUSED (R84, R119). -/
def State.suspended (s : State) : Bool := decide (s.runState = some .paused)

/-- The remaining time of a TIMED or BANDED step (R118). -/
def State.remaining (s : State) : Option Nat :=
  match s.seq.workKind with
  | some .timed => s.seq.workDuration.map (fun d => d - s.seq.elapsed)
  | some .banded => s.seq.workDuration.map (fun d => d - s.seq.elapsed)
  | some .core => none
  | some .promptOnly => none
  | none => none

/-! ## Sensors in use -/

/-- A boiler reading between −20.0 and 250.0 °C is valid (R82). -/
def validBoiler (t : Int) : Bool := decide (-200 ≤ t ∧ t ≤ 2500)

/-- A cavity reading between −20.0 and 320.0 °C is valid (R57). -/
def validCavity (t : Int) : Bool := decide (-200 ≤ t ∧ t ≤ 3200)

/-- A humidity reading from 0 to 100 is valid (R57). -/
def validHumidity (h : Option Nat) : Bool :=
  match h with
  | some v => decide (v ≤ 100)
  | none => false

/-- The valid boiler temperature in use: none before the first valid sample and while BOILER_SENSOR is active (R82). -/
def State.boilerInUse (s : State) : Option Int :=
  if s.faultActive .boilerSensor then none else s.steam.lastBoiler

/-- The boiler is at or above a temperature by a valid reading in use. -/
def State.boilerAtLeast (tenths : Int) (s : State) : Bool :=
  match s.boilerInUse with
  | some t => decide (tenths ≤ t)
  | none => false

/-- Boiler ready is handed: READY or STEAMING (R84). -/
def State.boilerReady (s : State) : Bool := decide (s.steam.boiler = .ready) || decide (s.steam.boiler = .steaming)

/-! ## The ceiling (R37, R38) -/

/-- The base load in units (R38). -/
def State.baseUnits (s : State) : Nat := Config.unitsUp (Config.baseWatts s.startup.variant)

/-- The boiler's cap: 20 cycles, 16 while the scale warning is set (R37). -/
def boilerCap (warning : Bool) : Nat := if warning then 16 else 20

/-- The cap of a load in a mode, in cycles per frame: 0 for a load the mode does not use (R37). -/
def capOf (warning : Bool) (m : Mode) (i : Load) : Nat :=
  match i with
  | .boiler =>
    if m.humid || decide (m = .fill) || decide (m = .soak) then boilerCap warning else 0
  | .top => 20 * m.weight .top / 4
  | .bottom => 20 * m.weight .bottom / 4
  | .ring => 20 * m.weight .ring / 4

/-- The ceiling of a step of a mode: base load plus rating × cap / 20 for each load with a cap, in units rounded up;
0 for WAIT, which uses no power of its own (R37). -/
def stepCeiling (variant : Nat) (warning : Bool) (m : Mode) : Nat :=
  if m = .wait then 0
  else
    Config.unitsUp (Config.baseWatts variant
      + Load.watts variant .top * capOf warning m .top / 20
      + Load.watts variant .bottom * capOf warning m .bottom / 20
      + Load.watts variant .ring * capOf warning m .ring / 20
      + Load.watts variant .boiler * capOf warning m .boiler / 20)

/-- The door-open seconds have reached 60 (R39). -/
def State.doorMinute (s : State) : Bool :=
  match s.load.doorTimer with
  | some t => decide (60 ≤ t.seconds)
  | none => false

/-- The ceiling the situation of the program gives: the first row of R38's table that applies. -/
def State.ceilingNow (s : State) : Nat :=
  match s.activeStep with
  | none => 0
  | some r =>
    if r.mode = .wait then 0
    else if s.suspended then s.baseUnits
    else if s.doorMinute then s.baseUnits
    else stepCeiling s.startup.variant s.scaleWarning r.mode

/-- The rank the part announces: the active step's in a RECIPE, 3 in a SERVICE program, 2 with no ACTIVE slot (R2). -/
def State.rank (s : State) : Nat :=
  match s.activeProgram with
  | none => 2
  | some p =>
    match p.kind with
    | .service => 3
    | .recipe =>
      match s.activeStep with
      | some r => r.rank
      | none => 2

/-! ## Peers -/

/-- A counted peer: silent count 2 or less (R6). -/
def Peer.counted (p : Peer) : Bool := decide (p.silent ≤ 2)

/-- A GONE entry: silent count 3 or more (R6). -/
def Peer.gone (p : Peer) : Bool := decide (3 ≤ p.silent)

/-- The counted peers, in table order (R6). -/
def State.countedPeers (s : State) : List Peer := s.share.peers.filter Peer.counted

/-- Hp: the sum of the holds of all counted peers (R25). -/
def State.peerSum (s : State) : Nat := (s.countedPeers.map Peer.hold).sum

/-- LINK or DUPLICATE_STATION is active (R17). -/
def State.cutOff (s : State) : Bool := s.faultActive .link || s.faultActive .duplicateStation

/-! ## Output pins -/

/-- The outputs other than the gates are powered: start-up is past CONFIG_FAULT and MAINS is not active (R71, R76 to R78,
R96, R197). -/
def State.outputsOn (s : State) : Bool := decide (s.startup.stage ≠ .configFault) && !s.mainsOut

/-- The flap drive is on once a frequency is fixed, while mains is present (R71). -/
def State.flapDriveOn (s : State) : Bool := s.inService && s.startup.freq.isSome && !s.mainsOut

/-- The convection fan speed: the first row of R76's table that applies. -/
def State.convectionFan (s : State) : Nat :=
  if !s.outputsOn then 0
  else if s.doorOpen then 0
  else if s.climate.venting then 2
  else if !s.hasActive then 0
  else if s.suspended then 0
  else
    match s.climate.mode with
    | some m => m.fanSpeed
    | none => 0

/-- The lamp: ON while a slot is ACTIVE or the door is OPEN, from the moment the door state is established (R78). -/
def State.lampOn (s : State) : Bool :=
  s.outputsOn && s.climate.door.isSome && (s.hasActive || s.doorOpen)

/-- The fill pump runs during a stroke (R88, R96). -/
def State.pumpOn (s : State) : Bool :=
  s.outputsOn && decide (s.steam.boiler = .filling)
    && (match s.steam.stroke with
        | .running _ => true
        | .awaiting => false
        | .idle => false)

/-- The drain valve: open while DRAINING, but for an absent tank and the MAINS fault (R92, R96). -/
def State.drainValveOpen (s : State) : Bool :=
  s.outputsOn && decide (s.steam.boiler = .draining) && s.tankPresent

end Sys2Proof.Machine
end

