-- ==== Sys2Proof/Machine/Operands.lean ====
section
/-! DEFINITION. The layouts on the bus: frames and their check (R187), announcements and notices (R194), requests (R195),
answers, report contents and pages (R196). -/

namespace Sys2Proof.Machine

/-! ## Frames (R187) -/

/-- The bits of a frame on the line: start, header, length, payload and check (R187). -/
def frameBits (cls kind src dst : Nat) (payload : List Byte) : List Bool :=
  let body := bitsOf 2 cls ++ bitsOf 3 kind ++ bitsOf 5 src ++ bitsOf 5 dst ++ bitsOf 4 payload.length
    ++ payload.flatMap (fun b => bitsOf 8 b.toNat)
  false :: (body ++ bitsOf 16 (checkOf body).toNat)

/-- The code of a report kind, in the order of R187. -/
def ReportKind.code : ReportKind → Nat
  | .climate => 0
  | .program => 1
  | .water => 2
  | .share => 3
  | .fault => 4

/-- The report kind of a code (R195, R187). -/
def ReportKind.ofCode : Nat → Option ReportKind
  | 0 => some .climate
  | 1 => some .program
  | 2 => some .water
  | 3 => some .share
  | 4 => some .fault
  | _ => none

/-- The next kind in rotation order, from FAULT back to CLIMATE (R182). -/
def ReportKind.next : ReportKind → ReportKind
  | .climate => .program
  | .program => .water
  | .water => .share
  | .share => .fault
  | .fault => .climate

/-- The frame class of an entry (R187). -/
def EntryKind.cls : EntryKind → Nat
  | .announce _ _ => 0
  | .answer _ => 1
  | .notice => 2
  | .report _ => 3

/-- The kind code of an entry's frames (R187). -/
def EntryKind.code : EntryKind → Nat
  | .announce _ _ => 0
  | .answer _ => 1
  | .notice => 0
  | .report k => k.code

/-- The destination of an entry's frames: an answer goes to its requester, every other frame to all stations (R187). -/
def EntryKind.dst : EntryKind → Nat
  | .answer d => d
  | .announce _ _ => 0
  | .notice => 0
  | .report _ => 0

/-- The bits the part drives while it sends: those of the frame on the line, with its own station as source (R187). -/
def State.frameOnLine (s : State) : Option (List Bool) :=
  match s.bus.queue.find? Entry.onLine with
  | some e =>
    match e.frames with
    | p :: _ => some (frameBits e.kind.cls e.kind.code s.station e.kind.dst p)
    | [] => none
  | none => none

/-! ## Announcements and notices (R194) -/

/-- The fields of an announcement that R3 and R7 use. -/
structure Announcement where
  station : Nat
  kind : StationKind
  hold : Nat
  ask : Nat
  rank : Nat
  draw : Nat
  asking : Bool
deriving DecidableEq, Repr

/-- The kind of a kind code; 6 and 7 are taken as OTHER (R194). -/
def StationKind.ofCode : Nat → StationKind
  | 0 => .panel
  | 1 => .cooktop
  | 2 => .oven
  | 3 => .hood
  | 4 => .module
  | _ => .other

/-- The bytes of the part's own announcement, kind OVEN, with its SHEDDING and ISOLATED flags (R3, R194). -/
def announcementBytes (station hold ask rank : Nat) (draw : Draw) (asking shedding isolated : Bool) : List Byte :=
  let n := ((((((station * 8 + 2) * 2048 + hold) * 2048 + ask) * 4 + rank) * 2048 + draw.toNat) * 8
    + bitIf asking 4 + bitIf shedding 2 + bitIf isolated 1) * 4
  [byteOf (n / 1099511627776), byteOf (n / 4294967296), byteOf (n / 16777216), byteOf (n / 65536), byteOf (n / 256),
    byteOf n]

/-- The value of a payload, its first byte the most significant. -/
def natOfBytes (payload : List Byte) : Nat := payload.foldl (fun n b => n * 256 + b.toNat) 0

/-- The field of a number with its lowest bit and width given. -/
def fieldOf (n low width : Nat) : Nat := n / 2 ^ low % 2 ^ width

/-- The announcement an ANNOUNCE payload of 6 bytes carries (R194). -/
def Announcement.ofPayload (payload : List Byte) : Announcement :=
  let n := natOfBytes payload
  { station := fieldOf n 43 5, kind := .ofCode (fieldOf n 40 3), hold := fieldOf n 29 11, ask := fieldOf n 18 11,
    rank := fieldOf n 16 2, draw := fieldOf n 5 11, asking := n.testBit 4 }

/-- The reasons of a VAPOUR notice (R75). -/
inductive VapourReason where
  | vent
  | door
deriving DecidableEq, Repr

/-- The three bytes of a VAPOUR notice: 20 s for VENT, 0 for DOOR (R75, R194). -/
def vapourBytes (humidity : Nat) (r : VapourReason) : List Byte :=
  match r with
  | .vent => [byteOf humidity, byteOf 20, byteOf 0]
  | .door => [byteOf humidity, byteOf 0, byteOf 1]

/-! ## Requests (R195) -/

/-- The payload length of a request code's layout, the code included; none for a code outside the catalogue (R195). -/
def requestLength : Nat → Option Nat
  | 1 => some 4
  | 2 => some 7
  | 3 => some 8
  | 4 => some 2
  | 5 => some 1
  | 6 => some 1
  | 7 => some 1
  | 8 => some 1
  | 9 => some 7
  | 10 => some 2
  | 11 => some 2
  | 12 => some 2
  | 13 => some 2
  | 14 => some 1
  | 15 => some 1
  | 16 => some 2
  | _ => none

/-- Payload byte n of a request whose bytes after the code are `body` (R195); the length has been checked before. -/
def byteAt (body : List Byte) (n : Nat) : Nat := (body.getD (n - 1) 0#8).toNat

/-- The two-byte field at payload byte n (R187, R195). -/
def wordAt (body : List Byte) (n : Nat) : Nat := byteAt body n * 256 + byteAt body (n + 1)

/-- A value that a code stands for as absent (R195). -/
def absentAt (absent n : Nat) : Option Nat := if n = absent then none else some n

/-- The mode of a mode code; codes 14 and 15 are unknown (R195). -/
def Mode.ofCode : Nat → Option Mode
  | 0 => some .convection
  | 1 => some .topBottom
  | 2 => some .grill
  | 3 => some .bottomHeat
  | 4 => some .steam
  | 5 => some .combi
  | 6 => some .reheat
  | 7 => some .proof
  | 8 => some .keepWarm
  | 9 => some .wait
  | 10 => some .drain
  | 11 => some .fill
  | 12 => some .soak
  | 13 => some .rinse
  | _ => none

/-- The code of a mode (R195). -/
def Mode.code : Mode → Nat
  | .convection => 0
  | .topBottom => 1
  | .grill => 2
  | .bottomHeat => 3
  | .steam => 4
  | .combi => 5
  | .reheat => 6
  | .proof => 7
  | .keepWarm => 8
  | .wait => 9
  | .drain => 10
  | .fill => 11
  | .soak => 12
  | .rinse => 13

/-- The end kind of an end kind code; codes 4 to 7 are refused (R195). -/
def EndKind.ofCode : Nat → Option EndKind
  | 0 => some .timed
  | 1 => some .banded
  | 2 => some .core
  | 3 => some .promptOnly
  | _ => none

/-- The code of an end kind (R195). -/
def EndKind.code : EndKind → Nat
  | .timed => 0
  | .banded => 1
  | .core => 2
  | .promptOnly => 3

/-- The fields of a STEP_PART_A payload (R195). -/
def HalfA.ofBody (body : List Byte) : HalfA :=
  { modeCode := byteAt body 2 / 16, endCode := byteAt body 2 / 2 % 8, durationPresent := (byteAt body 2).testBit 0,
    setpoint := byteAt body 3, humidity := byteAt body 4, duration := wordAt body 5 }

/-- The fields of a second half (R195); 0 stands for an absent core target, band or fallback, 255 for an absent prompt. -/
structure HalfB where
  preheat : Bool
  coreTarget : Option Nat
  rank : Nat
  band : Option Nat
  fallback : Option Nat
  promptIn : Option Nat
  promptOut : Option Nat
deriving DecidableEq, Repr

/-- The fields of a STEP_PART_B payload (R195). -/
def HalfB.ofBody (body : List Byte) : HalfB :=
  { preheat := (byteAt body 2).testBit 7, coreTarget := absentAt 0 (byteAt body 2 % 128), rank := byteAt body 3 / 32,
    band := absentAt 0 (byteAt body 3 % 32), fallback := absentAt 0 (wordAt body 4), promptIn := absentAt 255 (byteAt body 6),
    promptOut := absentAt 255 (byteAt body 7) }

/-- The fields of an ADJUST, each carried when its presence bit is set (R195). -/
structure Adjustment where
  setpoint : Option Nat
  humidity : Option Nat
  remaining : Option Nat
  coreTarget : Option Nat
deriving DecidableEq, Repr

/-- The fields of an ADJUST payload (R195). -/
def Adjustment.ofBody (body : List Byte) : Adjustment :=
  let present (bit : Nat) (v : Nat) : Option Nat := if (byteAt body 1).testBit bit then some v else none
  { setpoint := present 3 (byteAt body 2), humidity := present 2 (byteAt body 3), remaining := present 1 (wordAt body 4),
    coreTarget := present 0 (byteAt body 6) }

/-! ## Answers (R196) -/

/-- The number of an answer code, in the order of the table of R178 (R196). -/
def AnswerCode.number : AnswerCode → Nat
  | .ok => 0
  | .clamped => 1
  | .busy => 2
  | .notReady => 3
  | .notLoading => 4
  | .badMode => 5
  | .badField => 6
  | .badIndex => 7
  | .outOfOrder => 8
  | .notOriginator => 9
  | .notPermitted => 10
  | .unknownSource => 11
  | .scaleLock => 12
  | .rinseOwed => 13
  | .faultBlock => 14
  | .stalePrompt => 15
  | .noProgram => 16

/-- The payload of an answer of one frame (R196). -/
def answerBytes (code : Byte) (a : AnswerCode) (data : List Byte) : List Byte := code :: byteOf a.number :: data

/-- The two bytes of a CLEAR_FAULTS answer: the first kind of the table is bit 15 (R196). -/
def activeFaultBytes (f : FaultSet) : List Byte :=
  bytesOf16 ((FaultKind.all.foldl (fun n k => n * 2 + bitIf (f.get k).active 1) 0) * 32)

/-! ## Report contents (R196) -/

/-- A temperature in signed tenths, two bytes (R196). -/
def tenthsBytes (t : Int) : List Byte := bytesOf16 (BitVec.ofInt 16 t).toNat

/-- The n-th free byte of the contents being read (log 10). -/
def State.freeByte (s : State) (n : Nat) : Byte := Config.freeByte (s.freeIndex + n)

/-- A reading that may not be there: its bytes are then free values (log 10). -/
def State.readingBytes (s : State) (n : Nat) : Option Int → List Byte
  | some t => tenthsBytes t
  | none => [s.freeByte n, s.freeByte (n + 1)]

/-- An optional field of one byte, with the value that stands for absent (R196). -/
def optByte (absent : Nat) (v : Option Nat) : Byte := byteOf (v.getD absent)

/-- An optional field of two bytes, with the value that stands for absent (R196). -/
def optWord (absent : Nat) (v : Option Nat) : List Byte := bytesOf16 (v.getD absent)

/-- The run state's code: none 0, RUNNING 1, HELD 2, PAUSED 3, STOPPING 4 (R196). -/
def runStateCode : Option RunState → Nat
  | none => 0
  | some .running => 1
  | some .held => 2
  | some .paused => 3
  | some .stopping => 4

/-- The byte of run state, venting and causes: CLIMATE byte 9, PROGRAM byte 12 (R196). DESIGN CHOICE (log 49): PROGRAM byte 12
is CLIMATE byte 9 whole, its venting bit included. -/
def State.runByte (s : State) : Byte :=
  byteOf (runStateCode s.runState * 32 + bitIf s.climate.venting 16 + bitIf s.doorHold 4 + bitIf s.tankHold 2
    + bitIf s.probeHold 1)

/-- The code of the core probe status (R196). -/
def CoreStatus.code : CoreStatus → Nat
  | .absent => 0
  | .present => 1
  | .shorted => 2

/-- The four bytes of a per-load count (R196). -/
def perLoadBytes (p : PerLoad Nat) : List Byte := p.toList.map byteOf

/-- The 26 content bytes of CLIMATE (R180, R196). -/
def State.climateContents (s : State) : List Byte :=
  s.readingBytes 0 s.climate.cavityReading
  ++ [optByte 255 s.climate.humidityReading, byteOf s.climate.coreStatus.code]
  ++ s.readingBytes 2 s.climate.coreReading
  ++ [optByte 15 (s.climate.mode.map Mode.code), optByte 255 s.climate.setpoint, optByte 255 s.climate.humidityTarget,
      s.runByte,
      byteOf (bitIf s.doorOpen 128 + bitIf (decide (s.climate.flapCommand = .opened)) 64
        + bitIf (decide (s.climate.flapDriven = .opened)) 32 + bitIf s.climate.coolingFan 16 + bitIf s.lampOn 8
        + bitIf s.climate.degraded 4 + s.convectionFan),
      byteOf s.climate.lastDemand, byteOf s.climate.lastBoilerDemand]
  ++ perLoadBytes s.load.last.taken ++ perLoadBytes s.load.last.alloc ++ perLoadBytes s.load.last.conducted
  ++ [byteOf (bitIf s.load.last.limited 1)]

/-- The code of an abort cause (R196). -/
def AbortCause.code : AbortCause → Nat
  | .stopped => 0
  | .fault => 1
  | .timeout => 2

/-- The outcome byte of a slot (R196). -/
def ProgramOutcome.byte : ProgramOutcome → Nat
  | .finished => 16
  | .aborted c => 32 + c.code

/-- The outcome byte of the last-outcome record; POWER_DOWN_NONE is cause 3 (R196). -/
def LastOutcomeValue.byte : LastOutcomeValue → Nat
  | .ended o => o.byte
  | .powerDownNone => 35

/-- The code of a program kind: RECIPE 0, SERVICE 1 (R195). -/
def ProgramKind.code : ProgramKind → Nat
  | .recipe => 0
  | .service => 1

/-- The outcome a slot holds: a DONE slot alone has one (R99). -/
def Slot.outcomeByte : Slot → Nat
  | .done _ o => o.byte
  | .empty => 0
  | .loading _ => 0
  | .ready _ => 0
  | .active _ => 0

/-- The six content bytes of a slot (R196); the header fields of an EMPTY slot are free values, drawn from n on (log 10). -/
def State.slotBytes (s : State) (n : Nat) (v : Slot) : List Byte :=
  match v.program with
  | some p =>
    [byteOf (v.code * 32 + p.kind.code * 16 + bitIf p.chain 8), byteOf (p.stepCount * 16 + p.loadedCount)]
      ++ bytesOf16 p.tag ++ [byteOf p.originator, byteOf v.outcomeByte]
  | none => [s.freeByte n &&& 0x18#8, s.freeByte (n + 1), s.freeByte (n + 2), s.freeByte (n + 3), s.freeByte (n + 4),
      byteOf 0]

/-- The code of a phase: PROMPT_IN 0 to VENT 5 (R196). -/
def Phase.code : Phase → Nat
  | .promptIn => 0
  | .prepare => 1
  | .preheat => 2
  | .count => 3
  | .promptOut => 4
  | .vent => 5

/-- The 31 content bytes of PROGRAM (R180, R196, log 49). -/
def State.programContents (s : State) : List Byte :=
  let at_ := s.activeRun.map Prod.fst
  s.slotBytes 0 s.store.slot0 ++ s.slotBytes 5 s.store.slot1
  ++ [s.runByte, optByte 255 (at_.map (fun p => p.slot.number)), optByte 255 (at_.map Position.step),
      optByte 255 (at_.map (fun p => p.phase.code)),
      byteOf ((s.seq.workKind.map EndKind.code).getD 15 * 16 + bitIf s.scale.drainOnStop 1)]
  ++ bytesOf16 s.seq.elapsed ++ bytesOf16 (s.remaining.getD 0)
  ++ [optByte 255 s.seq.prompt] ++ optWord 65535 s.seq.promptTimer ++ optWord 65535 s.seq.interruption
  ++ [byteOf (s.store.lastOutcome.slot * 128 + s.store.lastOutcome.kind.code * 64),
      byteOf s.store.lastOutcome.value.byte]
  ++ bytesOf16 s.store.lastOutcome.tag
  ++ [optByte 255 (s.report.chainRefusal.map AnswerCode.number)]

/-- The code of a boiler state, in the order of R83 (R196). -/
def BoilerState.code : BoilerState → Nat
  | .empty => 0
  | .filling => 1
  | .heating => 2
  | .ready => 3
  | .steaming => 4
  | .draining => 5
  | .standing => 6
  | .off => 7

/-- The byte of tank presence, level and tank-wait cause (R196). -/
def tankByte (t : Option Tank) (w : Option TankWait) : Nat :=
  let presence := match t with
    | some (.present .empty) => 128
    | some (.present .low) => 128 + 32
    | some (.present .ok) => 128 + 64
    | some .absent => 96
    | none => 96
  let cause := match w with
    | none => 0
    | some .absent => 1
    | some .empty => 2
    | some .budget => 3
  presence + cause * 8

/-- The 17 content bytes of WATER (R180, R196). -/
def State.waterContents (s : State) : List Byte :=
  [byteOf (s.steam.boiler.code * 32 + bitIf s.steam.soakHeating 16 + bitIf s.lowWet 8 + bitIf s.highWet 4
      + bitIf s.steam.owed.isSome 2)]
  ++ s.readingBytes 0 s.steam.boilerReading
  ++ [byteOf (tankByte s.steam.tank s.tankWait), byteOf s.steam.strokes, byteOf s.steam.rinsePass,
      optByte 255 (s.steam.drainTimer.map CycleTimer.seconds), optByte 255 (s.steam.runOn.map CycleTimer.seconds)]
  ++ bytesOf16 s.steam.millilitres
  ++ [byteOf s.scale.hardness] ++ bytesOf24 s.scale.load
  ++ [byteOf (bitIf s.scaleWarning 4 + bitIf s.scaleLock 2 + bitIf s.scale.rinseOwed 1)]
  ++ bytesOf16 s.scale.soakCount

/-- The code of a share state: LISTEN 0 to QUIET 5 (R196). -/
def ShareState.code : ShareState → Nat
  | .listen => 0
  | .steady => 1
  | .asking => 2
  | .isolated => 3
  | .unshared => 4
  | .quiet => 5

/-- The 15 content bytes of SHARE (R180, R196). DESIGN CHOICE (log 40): outside ASKING the ask bytes are those of the ask kept
from the last round. -/
def State.shareContents (s : State) : List Byte :=
  [byteOf (s.share.state.code * 32 + s.startup.limitClass)]
  ++ bytesOf16 s.share.hold ++ bytesOf16 s.share.applied ++ bytesOf16 s.share.ask ++ bytesOf16 s.load.ceiling
  ++ [byteOf s.rank] ++ bytesOf16 s.share.draw.toNat
  ++ [byteOf s.share.denyCount,
      byteOf (bitIf s.share.starved 128 + bitIf s.share.tableFull 64 + s.share.coolDown),
      byteOf s.countedPeers.length]

/-- The two bytes of a fault record (R196). -/
def FaultRecord.bytes (r : FaultRecord) : List Byte :=
  [byteOf (bitIf r.active 128 + bitIf r.latched 64), byteOf r.count]

/-- The 25 content bytes of FAULT (R180, R196). -/
def State.faultContents (s : State) : List Byte :=
  FaultKind.all.flatMap (fun k => (s.faults.get k).bytes)
  ++ [byteOf s.bus.badFrames, byteOf s.bus.dropped, byteOf s.bus.broken]

/-- The contents of a report kind, read at this moment (R181). -/
def State.contents (s : State) : ReportKind → List Byte
  | .climate => s.climateContents
  | .program => s.programContents
  | .water => s.waterContents
  | .share => s.shareContents
  | .fault => s.faultContents

/-! ## Pages (R196) -/

/-- A list cut into pieces of one size, the last padded with 0; `fuel` bounds the number of pieces. -/
def chunks (size : Nat) : Nat → List Byte → List (List Byte)
  | 0, _ => []
  | fuel + 1, bytes =>
    if bytes.length ≤ size then [bytes ++ List.replicate (size - bytes.length) 0#8]
    else bytes.take size :: chunks size fuel (bytes.drop size)

/-- The payloads of the pages: the given leading bytes, the page byte, then the contents (R196). -/
def pages (lead : List Byte) (size : Nat) (bytes : List Byte) : List (List Byte) :=
  let cut := chunks size 16 bytes
  (List.range cut.length).zip cut |>.map (fun p => lead ++ byteOf (p.1 * 16 + cut.length) :: p.2)

/-- The frames of a report: pages of 7 content bytes (R196). -/
def reportFrames (bytes : List Byte) : List (List Byte) := pages [] 7 bytes

/-- The frames of a QUERY answer: pages of 5 content bytes after request code, answer code and page byte (R196). -/
def queryFrames (bytes : List Byte) : List (List Byte) := pages [byteOf 16, byteOf AnswerCode.ok.number] 5 bytes

end Sys2Proof.Machine
end

