-- ==== Sys2Proof/Machine/Queue.lean ====
section
/-! DEFINITION. The transmit queue (R190, R191), and what is handed to it: announcements (R3, R4), answers (R178),
VAPOUR notices (R185) and reports (R181). -/

namespace Sys2Proof.Machine

/-! ## Entries -/

/-- The most entries the queue holds (R190). -/
def queueCapacity : Nat := 8

/-- An entry waits while no frame of it is on the line and its first frame has not been SENT (R190). -/
def Entry.waiting (e : Entry) : Bool := !e.onLine && !e.started

/-- Two entries of which at most one waits: announcements, and reports of one kind (R190). -/
def EntryKind.sameKind : EntryKind → EntryKind → Bool
  | .announce _ _, .announce _ _ => true
  | .report j, .report k => decide (j = k)
  | _, _ => false

/-- The entry is a waiting report (R191). -/
def Entry.waitingReport (e : Entry) : Bool :=
  e.waiting && (match e.kind with
    | .report _ => true
    | .announce _ _ => false
    | .answer _ => false
    | .notice => false)

/-- The first entry that satisfies p replaced; none where no entry does. -/
def replaceFirst (p : Entry → Bool) (f : Entry → Entry) : List Entry → Option (List Entry)
  | [] => none
  | e :: q => if p e then some (f e :: q) else (replaceFirst p f q).map (fun r => e :: r)

/-- The first entry that satisfies p taken out; none where no entry does. -/
def removeFirst (p : Entry → Bool) : List Entry → Option (List Entry)
  | [] => none
  | e :: q => if p e then some q else (removeFirst p q).map (fun r => e :: r)

/-- A new entry joins behind every entry of its class or a lower one (R190). -/
def insertByClass (e : Entry) : List Entry → List Entry
  | [] => [e]
  | x :: q => if e.kind.cls < x.kind.cls then e :: x :: q else x :: insertByClass e q

/-! ## Hand-over -/

/-- A new entry joins; a full queue drops its oldest waiting report for it, or else the new entry (R191). -/
def BusLink.join (e : Entry) (b : BusLink) : BusLink :=
  if b.queue.length < queueCapacity then { b with queue := insertByClass e b.queue }
  else
    match removeFirst Entry.waitingReport b.queue with
    | some q => { b with queue := insertByClass e q, dropped := satAdd 255 b.dropped 1 }
    | none => { b with dropped := satAdd 255 b.dropped 1 }

/-- An entry handed to the queue: it replaces in place the waiting entry of its kind where there is one and at most one
may wait, and joins otherwise (R190, R191). -/
def BusLink.hand (k : EntryKind) (frames : List (List Byte)) (b : BusLink) : BusLink :=
  match replaceFirst (fun e => e.waiting && e.kind.sameKind k) (fun e => { e with kind := k, frames := frames }) b.queue with
  | some q => { b with queue := q }
  | none => b.join ⟨k, frames, false, false⟩

/-- SHEDDING is set while a reduction is pending or the cool-down runs (R3, R30). -/
def Share.shedding (h : Share) : Bool := decide (0 < h.pendingCut) || decide (0 < h.coolDown)

/-- The ask an announcement carries: the latched ask in ASKING, the ceiling in every other state (R3). -/
def State.announcedAsk (s : State) : Nat :=
  if s.share.state = .asking then s.share.ask else s.load.ceiling

/-- The ASKING flag an announcement carries (R3). -/
def State.announcedAsking (s : State) : Bool :=
  decide (s.share.state = .asking) || (decide (s.share.state = .listen) && decide (0 < s.load.ceiling))

/-- The part's own announcement as R3 fills it. -/
def State.ownAnnouncement (s : State) : List Byte :=
  announcementBytes s.station s.share.hold s.announcedAsk s.rank s.share.draw s.announcedAsking s.share.shedding
    (decide (s.share.state = .isolated))

/-- The share engine queues an announcement; in QUIET it queues none (R4). -/
def State.announce (s : State) : State :=
  if s.share.state = .quiet then s
  else s.mapBus (BusLink.hand (.announce s.announcedAsk s.share.draw) [s.ownAnnouncement])

/-- An announcement is queued if the condition holds. -/
def State.announceIf (c : Bool) (s : State) : State := if c then s.announce else s

/-- An answer of one frame is handed to the queue (R178). -/
def State.answer (dst : Nat) (code : Byte) (a : AnswerCode) (data : List Byte) (s : State) : State :=
  s.mapBus (BusLink.hand (.answer dst) [answerBytes code a data])

/-- The contents of a report are read: their free bytes are drawn (log 10). -/
def freeDraws : Nat := 16

/-- The OK answer to a QUERY, with the contents of the kind in pages (R184). -/
def State.answerQuery (dst : Nat) (k : ReportKind) (s : State) : State :=
  (s.mapBus (BusLink.hand (.answer dst) (queryFrames (s.contents k)))).drawFree freeDraws

/-- A report is handed to the queue with the contents of this moment; none before start-up reaches LISTEN
(R181, R186). -/
def State.handReport (k : ReportKind) (s : State) : State :=
  if s.inService then (s.mapBus (BusLink.hand (.report k) (reportFrames (s.contents k)))).drawFree freeDraws else s

/-- A report is handed if the condition holds. -/
def State.handReportIf (c : Bool) (k : ReportKind) (s : State) : State := if c then s.handReport k else s

/-- The humidity a notice carries: the last valid H, or 100 while HUMIDITY_SENSOR is active or there is none (R75). -/
def State.noticeHumidity (s : State) : Nat :=
  if s.faultActive .humiditySensor then 100 else s.climate.lastHumidity.getD 100

/-- A VAPOUR notice is built and handed; none before start-up reaches LISTEN (R75, R185, R186). -/
def State.handNotice (r : VapourReason) (s : State) : State :=
  if s.inService then s.mapBus (BusLink.hand .notice [vapourBytes s.noticeHumidity r]) else s

/-! ## Outcomes of the frame on the line (R188, R190) -/

/-- The head entry's next frame goes on the line (R188). -/
def startHead : List Entry → List Entry
  | [] => []
  | e :: q => { e with onLine := true } :: q

/-- SENT: the frame is done, and an entry with no frame left leaves the queue (R188, R190). -/
def sentOn : List Entry → List Entry
  | [] => []
  | e :: q =>
    if e.onLine then
      match e.frames with
      | _ :: p :: rest => { e with frames := p :: rest, onLine := false, started := true } :: q
      | _ => q
    else e :: sentOn q

/-- LOST: the entry keeps its place. If its first frame was lost and a newer waiting entry of its kind has joined behind
it, that entry takes its place and the LOST one is discarded (R190). -/
def lostOn : List Entry → List Entry
  | [] => []
  | e :: q =>
    if e.onLine then
      if e.started then { e with onLine := false } :: q
      else
        match q.find? (fun x => x.waiting && x.kind.sameKind e.kind) with
        | some x => x :: (removeFirst (fun y => y.waiting && y.kind.sameKind e.kind) q).getD q
        | none => { e with onLine := false } :: q
    else e :: lostOn q

/-- BROKEN: the entry is discarded with any frames left in it (R188). -/
def brokenOn (q : List Entry) : List Entry := (removeFirst Entry.onLine q).getD q

/-- The kind of the entry whose frame is on the line. -/
def BusLink.sending (b : BusLink) : Option EntryKind := (b.queue.find? Entry.onLine).map Entry.kind

end Sys2Proof.Machine
end

