-- ==== Sys2Proof/Machine/Sharing.lean ====
section
/-! DEFINITION. The share engine: the peer table (R7 to R11), ask rounds and states (R12 to R22), frame boundaries (R23,
R24), and the announce tick with its walks (R25 to R30). -/

namespace Sys2Proof.Machine

/-! ## Sorting -/

/-- An element put before the first one it precedes. -/
def insertBy {α : Type} (before : α → α → Bool) (x : α) : List α → List α
  | [] => [x]
  | y :: q => if before x y then x :: y :: q else y :: insertBy before x q

/-- A list put in order. -/
def sortBy {α : Type} (before : α → α → Bool) : List α → List α
  | [] => []
  | x :: q => insertBy before x (sortBy before q)

/-! ## Ask rounds and states -/

/-- An ask round starts (R13): the deny count is kept across a restart and is 0 on entry from any other state. -/
def State.startRound (s : State) : State :=
  (s.mapShare (fun h =>
    { h with
      state := .asking, ask := s.load.ceiling, draw := h.lfsr, ownCount := 0
      denyCount := if h.state = .asking then h.denyCount else 0
      starved := if h.state = .asking then h.starved else false })).announce

/-- An ask round starts if the state is STEADY and the ceiling above the hold (R13). -/
def State.askIfShort (s : State) : State :=
  if s.share.state = .steady ∧ s.share.hold < s.load.ceiling then s.startRound else s

/-- The state outside LISTEN, ISOLATED and QUIET: UNSHARED in class 0, else STEADY (R20). -/
def State.restState (s : State) : ShareState := if s.noLimit then .unshared else .steady

/-- The ISOLATED target: min(ceiling, fallback cap), and in class 0 the ceiling (R18). -/
def State.isolatedTarget (s : State) : Nat :=
  if s.noLimit then s.load.ceiling
  else min s.load.ceiling (Config.fallbackCap s.startup.limitClass s.startup.variant)

/-- The entry to ISOLATED (R17, items 1 to 3). -/
def Share.isolate (h : Share) : Share :=
  { h with state := .isolated, ownCount := 0, listenCount := 0, quietCount := 0, denyCount := 0, starved := false }

/-- LINK or DUPLICATE_STATION is active and the state is not ISOLATED (R17). -/
def State.isolationDue (s : State) : Bool := s.cutOff && decide (s.share.state ≠ .isolated)

/-- The state becomes ISOLATED if that is due (R17). -/
def State.isolateIfDue (s : State) : State := if s.isolationDue then s.mapShare Share.isolate else s

/-- The hold and the applied budget set together, nothing being pending any more (R23). -/
def Share.settleHold (hold : Nat) (h : Share) : Share := { h with hold := hold, applied := hold, pendingCut := 0 }

/-- The hold after a boundary in STEADY or ASKING (R23, items 1 and 2). -/
def State.reducedHold (s : State) : Nat :=
  let cut := s.share.hold - s.share.pendingCut
  if s.share.state = .steady then min cut s.load.ceiling else cut

/-- The hold after a boundary in ISOLATED (R18). -/
def State.isolatedHold (s : State) : Nat :=
  if 0 < s.share.pendingCut then min s.isolatedTarget (s.share.hold - s.share.pendingCut)
  else if 0 < s.share.coolDown then min s.isolatedTarget s.share.hold
  else s.isolatedTarget

/-- The hold a boundary sets, by the share state; in LISTEN and QUIET it is not changed (R18, R20, R23). -/
def State.boundaryHold (s : State) : Nat :=
  match s.share.state with
  | .steady => s.reducedHold
  | .asking => s.reducedHold
  | .isolated => s.isolatedHold
  | .unshared => s.load.ceiling
  | .listen => s.share.hold
  | .quiet => s.share.hold

/-- In LISTEN and QUIET a boundary leaves hold and applied budget as they are (R23). -/
def ShareState.settles : ShareState → Bool
  | .steady => true
  | .asking => true
  | .isolated => true
  | .unshared => true
  | .listen => false
  | .quiet => false

/-- Hold and applied budget set at a boundary, an announcement queued if the hold fell (R4, R18, R20, R23). -/
def State.settleShare (s : State) : State :=
  if s.share.state.settles then
    (s.mapShare (Share.settleHold s.boundaryHold)).announceIf (decide (s.boundaryHold < s.share.hold))
  else s

/-- The share engine at a frame boundary (R17, R18, R20, R23). -/
def State.shareBoundary (s : State) : State := s.isolateIfDue.settleShare.askIfShort

/-- The hold that applies at once while MAINS is active: what a boundary would lower, never a raise (R24). -/
def State.mainsHold (s : State) : Nat :=
  match s.share.state with
  | .steady => s.reducedHold
  | .asking => s.reducedHold
  | .isolated => min s.isolatedTarget (s.share.hold - s.share.pendingCut)
  | .unshared => min s.load.ceiling s.share.hold
  | .listen => s.share.hold
  | .quiet => s.share.hold

/-- While MAINS is active, decreases and an isolation entry apply at once, with the applied budget set to the new hold
and an announcement queued (R24). -/
def State.mainsApply (s : State) : State :=
  if s.mainsOut then
    let t := s.isolateIfDue
    if s.isolationDue || decide (t.mainsHold < t.share.hold) then
      (t.mapShare (Share.settleHold t.mainsHold)).announce
    else t
  else s

/-- A ceiling change event at the share engine (R13, R15); while MAINS is active a fall acts at once (R24). -/
def State.ceilingEvent (s : State) : State :=
  let t :=
    if s.share.state = .asking then
      if s.load.ceiling ≤ s.share.hold then
        s.mapShare (fun h => { h with state := .steady, denyCount := 0, starved := false })
      else if s.load.ceiling = s.share.ask then s
      else s.startRound
    else s.askIfShort
  t.mainsApply

/-- The share engine leaves QUIET (R22). -/
def State.leaveQuiet (s : State) : State :=
  if s.share.state = .quiet then
    (s.mapShare (fun h => { h with state := s.restState, quietCount := 0 })).askIfShort
  else s

/-- The share engine leaves ISOLATED when LINK has cleared without DUPLICATE_STATION (R19). -/
def State.leaveIsolated (s : State) : State :=
  if s.share.state = .isolated ∧ s.cutOff = false then
    (s.mapShare (fun h => { h with state := s.restState })).askIfShort.mainsApply
  else s

/-! ## The peer table -/

/-- The most entries the table holds (R6). -/
def peerCapacity : Nat := 15

/-- A new entry from an announcement (R8). -/
def Peer.ofAnnouncement (a : Announcement) : Peer where
  station := a.station
  kind := a.kind
  hold := a.hold
  rank := a.rank
  draw := a.draw
  asking := a.asking
  candidate := a.ask
  repeats := 1
  settled := none
  silent := 0

/-- The repeat count after an announced ask (R7, item 4). -/
def Peer.repeatsAfter (ask : Nat) (p : Peer) : Nat := if ask = p.candidate then satAdd 3 p.repeats 1 else 1

/-- An entry updated by an announcement of its station (R7). -/
def Peer.hear (a : Announcement) (p : Peer) : Peer :=
  { p with
    kind := a.kind, hold := a.hold, rank := a.rank, draw := a.draw, silent := 0, asking := a.asking
    candidate := a.ask
    repeats := p.repeatsAfter a.ask
    settled := if p.repeatsAfter a.ask = 3 then some a.ask else p.settled }

/-- The highest silent count in the table. -/
def highestSilent (peers : List Peer) : Nat := peers.foldl (fun n p => max n p.silent) 0

/-- The entry that a full table gives up: the earliest GONE entry of the highest silent count (R9). -/
def evicted (peers : List Peer) : Option Peer :=
  peers.find? (fun p => p.gone && decide (p.silent = highestSilent peers))

/-- The announcement is one the share engine uses: its station field is 1 to 30, agrees with the frame's source, and is
not the part's own (R10). -/
def State.usesAnnouncement (src : Nat) (a : Announcement) (s : State) : Bool :=
  decide (1 ≤ a.station ∧ a.station ≤ 30) && decide (a.station = src) && decide (a.station ≠ s.station)

/-- Entries replaced in the table. -/
def State.setPeers (peers : List Peer) (s : State) : State := s.mapShare (fun h => { h with peers := peers })

/-- An announcement the share engine uses: its station's entry is updated or added, a full table gives up a GONE entry
(whose LOADING slots return to EMPTY, R102), or TABLE_FULL is set (R7 to R9). -/
def State.recordPeer (a : Announcement) (s : State) : State :=
  if s.share.peers.any (fun p => decide (p.station = a.station)) then
    s.setPeers (s.share.peers.map (fun p => if p.station = a.station then p.hear a else p))
  else if s.share.peers.length < peerCapacity then
    s.setPeers (s.share.peers ++ [.ofAnnouncement a])
  else
    match evicted s.share.peers with
    | some g =>
      (s.setPeers (s.share.peers.filter (fun p => decide (p.station ≠ g.station)) ++ [.ofAnnouncement a])).mapStore
        (Store.abandon [g.station])
    | none => s.mapShare (fun h => { h with tableFull := true, newcomer := 0 })

/-- The table with every silent count incremented (R11, item 1). -/
def agedPeers (peers : List Peer) : List Peer := peers.map (fun p => { p with silent := satAdd 7 p.silent 1 })

/-- The stations whose entries this ageing removes (R11, item 2). -/
def removedStations (peers : List Peer) : List Nat :=
  ((agedPeers peers).filter (fun p => decide (p.silent = 7))).map Peer.station

/-- TABLE_FULL after ageing (R11, item 4). -/
def Share.tableFullAfter (peers : List Peer) (newcomer : Nat) (h : Share) : Bool :=
  h.tableFull && !((decide (peers.length < peerCapacity) || peers.any Peer.gone) && decide (newcomer = 7))

/-- Ageing of the table and of TABLE_FULL; the LOADING slots of removed stations return to EMPTY (R11, R102). -/
def State.ageTable (s : State) : State :=
  let kept := (agedPeers s.share.peers).filter (fun p => decide (p.silent ≠ 7))
  (s.mapShare (fun h =>
    { h with
      peers := kept, newcomer := satAdd 7 h.newcomer 1
      tableFull := h.tableFullAfter kept (satAdd 7 h.newcomer 1) })).mapStore
    (Store.abandon (removedStations s.share.peers))

/-! ## The walks -/

/-- An asker of the walk (R26). -/
structure Asker where
  station : Nat
  rank : Nat
  draw : Nat
  need : Nat
  own : Bool
deriving DecidableEq, Repr

/-- The order of the askers: rank ascending, draw descending, station ascending (R26). -/
def Asker.before (a b : Asker) : Bool :=
  decide (a.rank < b.rank)
    || (decide (a.rank = b.rank)
      && (decide (b.draw < a.draw) || (decide (a.draw = b.draw) && decide (a.station < b.station))))

/-- A counted peer as an asker: asking, with a settled ask above its hold (R26). -/
def Peer.asker (p : Peer) : Option Asker :=
  match p.settled with
  | some ask =>
    if p.asking = true ∧ p.hold < ask then some ⟨p.station, p.rank, p.draw, ask - p.hold, false⟩ else none
  | none => none

/-- The part's need: ask − hold (R26). -/
def State.need (s : State) : Nat := s.share.ask - s.share.hold

/-- The askers in order, the part among them while it is ASKING (R26). -/
def State.askers (s : State) : List Asker :=
  let own := if s.share.state = .asking then
      [(⟨s.station, s.rank, s.share.draw.toNat, s.need, true⟩ : Asker)] else []
  sortBy Asker.before (own ++ s.countedPeers.filterMap Peer.asker)

/-- The free margin F = L − R − Hp − hold (R26). -/
def State.freeMargin (limit : Nat) (s : State) : Int :=
  (limit : Int) - Config.reserve - s.peerSum - s.share.hold

/-- The give of an asker that finds this margin (R26). -/
def give (need : Nat) (margin : Int) : Nat := min need margin.toNat

/-- The gives down the order, the margin reduced by each (R26). -/
def gives : List Asker → Int → List (Asker × Nat)
  | [], _ => []
  | a :: q, margin => (a, give a.need margin) :: gives q (margin - give a.need margin)

/-- The part's own give g (R26). -/
def ownGive (given : List (Asker × Nat)) : Nat :=
  match given.find? (fun p => p.1.own) with
  | some p => p.2
  | none => 0

/-- The urgent unmet need U: that of the askers of a rank below the part's own (R28). -/
def urgentUnmet (rank : Nat) (given : List (Asker × Nat)) : Nat :=
  ((given.filter (fun p => decide (p.1.rank < rank))).map (fun p => p.1.need - p.2)).sum

/-- A holder of the yield or shed walk (R28, R29). -/
structure Holder where
  station : Nat
  rank : Nat
  draw : Nat
  hold : Nat
  own : Bool
deriving DecidableEq, Repr

/-- The order of the holders, worst first: rank descending, draw ascending, station descending (R28). -/
def Holder.before (a b : Holder) : Bool :=
  decide (b.rank < a.rank)
    || (decide (a.rank = b.rank)
      && (decide (a.draw < b.draw) || (decide (a.draw = b.draw) && decide (b.station < a.station))))

/-- A peer as a holder. -/
def Peer.holder (p : Peer) : Holder := ⟨p.station, p.rank, p.draw, p.hold, false⟩

/-- The holders in order: the counted peers with a hold above 0 and a rank of at least `minRank`, and the part with the
hold given, if that is above 0 (R28, R29). -/
def State.holders (minRank ownHold : Nat) (s : State) : List Holder :=
  let own := if 0 < ownHold then [(⟨s.station, s.rank, s.share.draw.toNat, ownHold, true⟩ : Holder)] else []
  sortBy Holder.before
    (own ++ (s.countedPeers.filter (fun p => decide (0 < p.hold) && decide (minRank ≤ p.rank))).map Peer.holder)

/-- The part's own portion of an amount that the holders cover in order, each up to its hold (R28, R29). -/
def ownPortion : List Holder → Nat → Nat
  | [], _ => 0
  | h :: q, amount => if h.own then min h.hold amount else ownPortion q (amount - min h.hold amount)

/-- A portion of the part: added to the pending reduction, with the cool-down set to 6 if it is above 0 (R28 to R30). -/
def Share.giveWay (portion : Nat) (h : Share) : Share :=
  if 0 < portion then { h with pendingCut := satAdd 2047 h.pendingCut portion, coolDown := 6 } else h

/-! ## The announce tick (R25) -/

/-- The grant at a tick where it is permitted (R27). -/
def Share.grant (g need : Nat) (h : Share) : Share :=
  if 0 < g then
    { h with
      hold := h.hold + g, denyCount := 0, starved := false
      state := if g = need then .steady else h.state }
  else
    { h with
      denyCount := satAdd 255 h.denyCount 1
      starved := h.starved || decide (16 ≤ satAdd 255 h.denyCount 1) }

/-- A grant is permitted: ASKING, three own announcements SENT, not barred, TABLE_FULL clear (R27). -/
def Share.grantPermitted (barred : Bool) (h : Share) : Bool :=
  decide (h.state = .asking) && decide (h.ownCount = 3) && !barred && !h.tableFull

/-- Item 3: the asker walk's grant (R26, R27). -/
def State.tickGrant (barred : Bool) (given : List (Asker × Nat)) (s : State) : State :=
  if s.share.grantPermitted barred then s.mapShare (Share.grant (ownGive given) s.need) else s

/-- The part's portion y of the urgent unmet need (R28). -/
def State.yieldPortion (given : List (Asker × Nat)) (s : State) : Nat :=
  ownPortion (s.holders s.rank s.share.hold) (urgentUnmet s.rank given)

/-- The part's portion x of the excess over L, with y of this tick already taken off (R29). -/
def State.shedPortion (limit y : Nat) (s : State) : Nat :=
  ownPortion (s.holders 0 (s.share.hold - y)) (s.share.hold - y + s.peerSum - limit)

/-- The yield and shed walks run in STEADY and ASKING; the shed in ISOLATED too (R25). -/
def ShareState.walks : ShareState → Bool
  | .steady => true
  | .asking => true
  | .isolated => false
  | .unshared => false
  | .listen => false
  | .quiet => false

/-- Items 3 to 5 of the tick under a limit L (R25 to R29). -/
def State.tickWalks (barred : Bool) (limit : Nat) (s : State) : State :=
  if s.share.state.walks then
    let given := gives s.askers (s.freeMargin limit)
    let t := s.tickGrant barred given
    let y := t.yieldPortion given
    let u := t.mapShare (Share.giveWay y)
    u.mapShare (Share.giveWay (u.shedPortion limit y))
  else if s.share.state = .isolated then
    s.mapShare (Share.giveWay (s.shedPortion limit 0))
  else s

/-- The walks, which run in no circuit without a limit (R1, R29). -/
def State.tickShare (barred : Bool) (s : State) : State :=
  match s.limit with
  | some l => s.tickWalks barred l
  | none => s

/-- Item 8 in LISTEN: the listen count, and the end of LISTEN at 3 (R12). -/
def State.tickListen (s : State) : State :=
  let t := s.mapShare (fun h => { h with listenCount := satAdd 3 h.listenCount 1 })
  if t.share.listenCount = 3 then
    if t.noLimit then t.mapShare (fun h => { h with state := .unshared })
    else if 0 < t.load.ceiling then t.startRound
    else t.mapShare (fun h => { h with state := .steady })
  else t

/-- The condition under which the quiet count grows (R21). -/
def State.atRest (s : State) : Bool :=
  !s.hasActive && decide (s.share.hold = 0) && decide (s.load.ceiling = 0) && decide (s.share.pendingCut = 0)

/-- Item 8 in STEADY and UNSHARED: the quiet count, and QUIET at 120 (R21). -/
def State.tickQuiet (s : State) : State :=
  if s.atRest then
    s.mapShare (fun h =>
      { h with
        quietCount := satAdd 120 h.quietCount 1
        state := if satAdd 120 h.quietCount 1 = 120 then .quiet else h.state })
  else s.mapShare (fun h => { h with quietCount := 0 })

/-- Item 8: the counters and the state changes they cause (R12, R21). -/
def State.tickCounters (s : State) : State :=
  match s.share.state with
  | .listen => s.tickListen
  | .steady => s.tickQuiet
  | .unshared => s.tickQuiet
  | .asking => s
  | .isolated => s
  | .quiet => s

/-- The own announce tick (R25). In QUIET items 7 and 8 alone act. Under MAINS what the walks decide applies at once
(R24), before the tick's announcement is built. -/
def State.shareTick (s : State) : State :=
  let worked :=
    if s.share.state = .quiet then s
    else
      let barred := decide (0 < s.share.coolDown)
      ((s.mapShare (fun h => { h with coolDown := h.coolDown - 1 })).tickShare barred).mainsApply.announce
  worked.ageTable.tickCounters

end Sys2Proof.Machine
end

