-- ==== Sys2Proof/Machine/Frame.lean ====
section
/-! DEFINITION. The load frame: the ceiling (R40), forced demands (R42), allocation (R43, R44), placement (R47), gates
(R48), the end of a frame (R52), and the evaporation and scale that follow from it (R97, R147, R148). -/

namespace Sys2Proof.Machine

/-! ## The ceiling -/

/-- The ceiling recomputed; a value different from the previous one is a ceiling change event (R40). -/
def State.updateCeiling (s : State) : State :=
  if s.ceilingNow = s.load.ceiling then s
  else (s.mapLoad (fun l => { l with ceiling := s.ceilingNow })).ceilingEvent

/-! ## Demands -/

/-- The loads an active fault of a kind cuts (the table of R42). -/
def FaultKind.cuts (k : FaultKind) (i : Load) : Bool :=
  match k with
  | .cavitySensor => decide (i ≠ .boiler)
  | .cavityOverheat => true
  | .boilerSensor => decide (i = .boiler)
  | .boilerDry => decide (i = .boiler)
  | .mains => true
  | .humiditySensor => false
  | .coreProbeShort => false
  | .drainTimeout => false
  | .link => false
  | .duplicateStation => false
  | .retainedRecord => false

/-- An active fault cuts the load (R42, item 3). -/
def State.loadCut (i : Load) (s : State) : Bool :=
  FaultKind.all.any (fun k => s.faultActive k && k.cuts i)

/-- The boiler may conduct in this state: HEATING, READY, STEAMING or soak heating (R42, item 2). -/
def Steam.mayHeat (w : Steam) : Bool :=
  decide (w.boiler = .heating) || decide (w.boiler = .ready) || decide (w.boiler = .steaming) || w.soakHeating

/-- The level, state or scale limit on a boiler demand (R42, items 2 and 4). -/
def State.limitBoiler (d : Nat) (s : State) : Nat :=
  if !s.lowWet || !s.steam.mayHeat then 0
  else if s.scaleWarning then min d 16
  else d

/-- The taken demand of a load: the demand handed over, forced as R42 gives. -/
def State.takenDemand (d : PerLoad Nat) (s : State) (i : Load) : Nat :=
  if s.doorOpen || s.loadCut i then 0
  else if i = .boiler then s.limitBoiler d.boiler
  else d.get i

/-- The taken demands of the new frame (R42). -/
def State.takenDemands (d : PerLoad Nat) (s : State) : PerLoad Nat := PerLoad.make (s.takenDemand d)

/-! ## Allocation -/

/-- The ratings of a variant, per load (R33). -/
def ratings (variant : Nat) : PerLoad Nat := PerLoad.make (Load.watts variant)

/-- The requested energy E = Σ P × d, in watt-cycles (R43); also the energy of an allocation. -/
def energy (p d : PerLoad Nat) : Nat := p.top * d.top + p.bottom * d.bottom + p.ring * d.ring + p.boiler * d.boiler

/-- The frame budget Bf = max(0, G − base) × 20, the base counting while a slot is ACTIVE (R43). -/
def State.frameBudget (s : State) : Nat :=
  (s.share.applied * 10 - (if s.hasActive then Config.baseWatts s.startup.variant else 0)) * 20

/-- The floor share of a load (R44). -/
def floorShare (budget requested d : Nat) : Nat := d * budget / requested

/-- The cycles the top-up pass adds at one load: as many as the remainder pays for, up to the demand (R44). -/
def topUp (rating demand share remainder : Nat) : Nat := min (remainder / rating) (demand - share)

/-- The scaled allocation: floor shares, then one pass over BOILER, RING, TOP, BOTTOM (R44). -/
def scaled (p d : PerLoad Nat) (budget : Nat) : PerLoad Nat :=
  let e := energy p d
  let n : PerLoad Nat := PerLoad.make (fun i => floorShare budget e (d.get i))
  let r0 := budget - energy p n
  let kBoiler := topUp p.boiler d.boiler n.boiler r0
  let r1 := r0 - p.boiler * kBoiler
  let kRing := topUp p.ring d.ring n.ring r1
  let r2 := r1 - p.ring * kRing
  let kTop := topUp p.top d.top n.top r2
  let r3 := r2 - p.top * kTop
  let kBottom := topUp p.bottom d.bottom n.bottom r3
  { top := n.top + kTop, bottom := n.bottom + kBottom, ring := n.ring + kRing, boiler := n.boiler + kBoiler }

/-- The allocation: the demands whole where they fit, scaled otherwise (R43). -/
def allocate (p d : PerLoad Nat) (budget : Nat) : PerLoad Nat :=
  if energy p d ≤ budget then d else scaled p d budget

/-! ## Placement -/

/-- Load j with n on-cycles conducts in cycle k (R47). -/
def marks (j n k : Nat) : Bool := decide (((k + 5 * j) % 20 + 1) * n / 20 > (k + 5 * j) % 20 * n / 20)

/-- The cycles a load's allocation is spread over (R47). -/
def placed (j n : Nat) : List Nat := (List.range 20).filter (marks j n)

/-- The new frame, allocated from the demands handed over (R41, R43, R47). -/
def State.beginFrame (d : PerLoad Nat) (s : State) : State :=
  let taken := s.takenDemands d
  let n := allocate (ratings s.startup.variant) taken s.frameBudget
  s.mapLoad (fun l =>
    { l with
      running := true, cycle := 0, taken := taken, alloc := n
      plan := PerLoad.make (fun i => placed i.index (n.get i))
      limited := decide (s.frameBudget < energy (ratings s.startup.variant) taken) })

/-! ## Cycles -/

/-- The gate of a load in the cycle that begins (R48). -/
def State.gateOn (s : State) (i : Load) : Bool :=
  (s.load.plan.get i).contains s.load.cycle && !s.load.withdrawn.get i && (decide (i ≠ .boiler) || s.lowWet)

/-- A count of 1 for a gate that is on. -/
def countIf (b : Bool) (n : Nat) : Nat := if b then n + 1 else n

/-- The crossing that begins the present cycle switches the gates and counts what conducts (R48, R51). -/
def State.switchGates (s : State) : State :=
  s.mapLoad (fun l =>
    { l with
      gates := PerLoad.make s.gateOn
      conducted := PerLoad.make (fun i => countIf (s.gateOn i) (l.conducted.get i))
      steamingCount := countIf (s.gateOn .boiler && decide (s.steam.boiler = .steaming)) l.steamingCount })

/-! ## Evaporation and scale -/

/-- One millilitre's addition to S (R147). -/
def Scale.addMillilitre (a : Scale) : Scale := { a with load := min Config.scaleMax (a.load + a.hardness) }

/-- S has risen across the level of the warning or of the lock (R148). -/
def crossed (before after : Nat) : Bool :=
  (decide (before < Config.warningLevel) && decide (Config.warningLevel ≤ after))
    || (decide (before < Config.lockLevel) && decide (Config.lockLevel ≤ after))

/-- One millilitre handed to scale accounting; a crossing requests a retained write (R147 to R149). -/
def State.addMillilitre (s : State) : State :=
  let t := s.mapScale Scale.addMillilitre
  if crossed s.scale.load t.scale.load then t.requestWrite else t

/-- n millilitres handed one after the other. -/
def State.addMillilitres : Nat → State → State
  | 0, s => s
  | n + 1, s => (State.addMillilitre s).addMillilitres n

/-- The evaporation threshold at the frequency fixed (R97). -/
def State.threshold (s : State) : Nat := Config.evaporationThreshold (s.startup.freq.getD .hz50)

/-- Steaming energy handed to the steam generator: whole millilitres are converted and handed on (R97). -/
def State.evaporate (wattCycles : Nat) (s : State) : State :=
  let total := s.steam.evaporation + wattCycles
  (s.mapSteam (fun w =>
    { w with evaporation := total % s.threshold, millilitres := satAdd 65535 w.millilitres (total / s.threshold) })).addMillilitres
    (total / s.threshold)

/-! ## The end of a frame -/

/-- The last-frame record takes the frame, and its counts and withdrawals are cleared (R52). -/
def LoadFrame.close (l : LoadFrame) : LoadFrame :=
  { l with
    running := false
    last := ⟨l.taken, l.alloc, l.conducted, l.limited⟩
    conducted := .all 0, steamingCount := 0, withdrawn := .all false }

/-- The frame in progress ends: the steaming energy is handed over, and the warning's crossing is a ceiling input
(R40, R52, R148). -/
def State.endFrame (s : State) : State :=
  if s.load.running then
    ((s.mapLoad LoadFrame.close).evaporate
      (Load.watts s.startup.variant .boiler * s.load.steamingCount)).updateCeiling
  else s

/-- Every gate turned off at once (R35). -/
def State.gatesOff (s : State) : State := s.mapLoad (fun l => { l with gates := .all false })

end Sys2Proof.Machine
end

