-- ==== Sys2Proof/Machine/Climate.lean ====
section
/-! DEFINITION. The climate regulator: samples (R56 to R58), the regulators (R55, R59 to R66), the vent flap (R70, R71), the
VENT phase (R72 to R74), the climate record (R54) and the cooling fan (R77). -/

namespace Sys2Proof.Machine

/-! ## Samples -/

/-- The class of a core probe input (R58). -/
def coreClass : CoreInput → CoreStatus
  | .openCircuit => .absent
  | .shorted => .shorted
  | .reading _ => .present

/-- The reading of a core probe input, if it has one (R58). -/
def coreTenths : CoreInput → Option Int
  | .reading t => some t
  | .openCircuit => none
  | .shorted => none

/-- The core probe status after a sample: it changes when two consecutive samples agree on another class (R58). -/
def Climate.coreAfter (c : Climate) (seen : CoreStatus) : CoreStatus :=
  if c.coreSeen = some seen then seen else c.coreStatus

/-- The core probe reading after a sample: it follows every PRESENT sample while the status is PRESENT (R58). DESIGN CHOICE
(log 45): an open or shorted sample that leaves the status PRESENT leaves the reading as it was. -/
def Climate.coreReadingAfter (c : Climate) (input : CoreInput) : Option Int :=
  if c.coreAfter (coreClass input) = .present then
    match coreTenths input with
    | some t => some t
    | none => c.coreReading
  else none

/-- The readings of a sample; an invalid one leaves the last valid reading in use (R56 to R58). -/
def Climate.sample (smp : Sample) (c : Climate) : Climate :=
  { c with
    cavityReading := some smp.cavity
    lastCavity := if validCavity smp.cavity then some smp.cavity else c.lastCavity
    humidityReading := smp.humidity
    lastHumidity := if validHumidity smp.humidity then smp.humidity else c.lastHumidity
    coreStatus := c.coreAfter (coreClass smp.core)
    coreReading := c.coreReadingAfter smp.core
    coreSeen := some (coreClass smp.core) }

/-- The cavity is above 70.0 °C by the reading in use, or there is none (R77). -/
def Climate.hotOrUnknown (c : Climate) : Bool :=
  match c.lastCavity with
  | some t => decide (700 < t)
  | none => true

/-- The cooling fan as a sample decides it (R77). DESIGN CHOICE (log 46): it is decided after that sample's faults, so a program
that they end no longer counts. -/
def State.coolAtSample (s : State) : State :=
  s.mapClimate (fun c =>
    { c with coolingFan := !s.mainsOut && (s.hasActive || c.hotOrUnknown || s.faultActive .cavitySensor) })

/-- The cooling fan turns ON when a slot becomes ACTIVE; under MAINS it stays OFF (R77). -/
def State.coolOn (s : State) : State := s.mapClimate (fun c => { c with coolingFan := c.coolingFan || !s.mainsOut })

/-! ## The situation at a boundary (R55) -/

/-- What R55's table gives the regulators. -/
inductive Regulation where
  /-- Mode NONE, WAIT or a service mode. -/
  | unused
  /-- Door open, venting, or PAUSED: demands of 0. -/
  | zero
  /-- Computed, with the integrators held. -/
  | held
  /-- Computed, with the integrators updated. -/
  | updated
deriving DecidableEq, Repr

/-- The situation of a heating mode at a boundary (R55). -/
def State.regulation (s : State) : Regulation :=
  match s.climate.mode with
  | none => .unused
  | some m =>
    if !m.heats then .unused
    else if s.doorOpen || s.climate.venting || s.suspended then .zero
    else if s.isRunning then .updated
    else .held

/-! ## The temperature regulator (R59, R60) -/

/-- The temperature error e in tenths (R59, item 1); 0 before any valid reading (R57). -/
def Climate.tempError (c : Climate) : Int :=
  match c.setpoint, c.lastCavity with
  | some sp, some t => clampInt (-500) 500 (10 * (sp : Int) - t)
  | _, _ => 0

/-- The raw demand of an error and an integrator: P + floor(I / 256), P = 2e / 10 truncated toward zero (R59). -/
def rawDemand (e i : Int) : Int := Int.tdiv (2 * e) 10 + i / 256

/-- A raw demand clamped to 0 to 20 (R59, R63). -/
def demandOf (raw : Int) : Nat := (clampInt 0 20 raw).toNat

/-- The demand is pinned at the limit the error pushes it to (R60, R64). -/
def saturated (raw e : Int) : Bool := (decide (20 < raw) && decide (0 < e)) || (decide (raw < 0) && decide (e < 0))

/-- The integrator after its update, clamped to 0 to 5,120 (R60, R64). -/
def integrated (i step : Int) : Int := clampInt 0 5120 (i + step)

/-- The temperature demand h (R55, R57, R59). -/
def State.tempDemand (s : State) : Nat :=
  if s.faultActive .cavitySensor then 0
  else
    match s.regulation with
    | .unused => 0
    | .zero => 0
    | .held => demandOf (rawDemand s.climate.tempError s.climate.tempI)
    | .updated => demandOf (rawDemand s.climate.tempError s.climate.tempI)

/-- The temperature integrator may move (R55, R57, R60). -/
def State.tempIntegrates (s : State) : Bool :=
  decide (s.regulation = .updated) && !s.faultActive .cavitySensor
    && !saturated (rawDemand s.climate.tempError s.climate.tempI) s.climate.tempError
    && !(decide (s.climate.mode = some .steam) && decide (s.steam.boiler ≠ .steaming))

/-- The temperature integrator after the boundary (R60). -/
def State.tempIAfter (s : State) : Int :=
  if s.tempIntegrates then integrated s.climate.tempI (2 * s.climate.tempError) else s.climate.tempI

/-! ## The humidity regulator (R63 to R66) -/

/-- The mode of the record is humidity-regulated (R53). -/
def Climate.regulatesHumidity (c : Climate) : Bool :=
  match c.mode with
  | some m => m.humidityRegulated
  | none => false

/-- The degraded duty is in force: HUMIDITY_SENSOR active in a humidity-regulated mode (R66). -/
def State.degradedNow (s : State) : Bool := s.faultActive .humiditySensor && s.climate.regulatesHumidity

/-- The humidity error eh (R63, item 1); 0 before any valid reading (R57). -/
def Climate.humError (c : Climate) : Int :=
  match c.humidityTarget, c.lastHumidity with
  | some t, some h => clampInt (-50) 50 ((t : Int) - h)
  | _, _ => 0

/-- The raw humidity demand: eh / 2 truncated toward zero, plus floor(Ih / 256) (R63). -/
def rawHumDemand (e i : Int) : Int := Int.tdiv e 2 + i / 256

/-- The degraded duty: ceil(Ht × 20 / 100) (R66). -/
def degradedDuty (target : Nat) : Nat := (target * 20 + 99) / 100

/-- The integrator the humidity demand is computed from: the end of a degraded duty starts it from 0 (R64, R66). -/
def State.humIEntering (s : State) : Int := if s.degradedNow || s.climate.degraded then 0 else s.climate.humI

/-- The boiler demand of a humidity-regulated mode where R55 computes it (R63, R66). -/
def State.humidityDuty (s : State) : Nat :=
  if s.degradedNow then degradedDuty (s.climate.humidityTarget.getD 0)
  else demandOf (rawHumDemand s.climate.humError s.humIEntering)

/-- The boiler demand d_hum (R55, R63, R66). -/
def State.humDemand (s : State) : Nat :=
  match s.regulation with
  | .unused => 0
  | .zero => 0
  | .held => s.humidityDuty
  | .updated => s.humidityDuty

/-- The humidity integrator may move (R55, R64). -/
def State.humIntegrates (s : State) : Bool :=
  decide (s.regulation = .updated) && s.climate.regulatesHumidity && !s.degradedNow
    && !saturated (rawHumDemand s.climate.humError s.humIEntering) s.climate.humError
    && decide (s.steam.boiler = .steaming)

/-- The humidity integrator after the boundary (R64, R66). -/
def State.humIAfter (s : State) : Int :=
  if s.humIntegrates then integrated s.humIEntering (8 * s.climate.humError) else s.humIEntering

/-- The boiler demand handed to the steam generator; none in a service mode, which leaves the last one standing (R65). -/
def State.handedDemand (s : State) : Nat :=
  match s.climate.mode with
  | none => 0
  | some m =>
    if m.service then s.climate.lastBoilerDemand
    else if m = .steam then s.tempDemand
    else if m.humidityRegulated then s.humDemand
    else 0

/-- The regulators at a frame boundary (R55, R59 to R66). -/
def State.regulate (s : State) : State :=
  s.mapClimate (fun c =>
    { c with
      tempI := s.tempIAfter, humI := s.humIAfter, degraded := s.degradedNow
      lastDemand := s.tempDemand, lastBoilerDemand := s.handedDemand })

/-- The demand of a load that a mode drives by its weight: floor(h × w / 4) (R62). -/
def weighted (h w : Nat) : Nat := h * w / 4

/-- The demands handed for TOP, BOTTOM and RING (R62), with the boiler demand the steam generator states (R41). -/
def State.frameDemands (boiler : Nat) (s : State) : PerLoad Nat :=
  match s.climate.mode with
  | some m =>
    { top := weighted s.climate.lastDemand (m.weight .top), bottom := weighted s.climate.lastDemand (m.weight .bottom),
      ring := weighted s.climate.lastDemand (m.weight .ring), boiler := boiler }
  | none => { top := 0, bottom := 0, ring := 0, boiler := boiler }

/-! ## The vent flap (R70, R71) -/

/-- The command of a climate record: the first row of R70's table that applies. -/
def Climate.flapFor (c : Climate) : Flap :=
  if c.venting then .opened
  else
    match c.mode with
    | some m => if m.humid then .closed else .opened
    | none => .opened

/-- The drive takes the flap to the command, while it is on (R71). -/
def State.driveFlap (s : State) : State :=
  if s.flapDriveOn then s.mapClimate (fun c => { c with flapDriven := c.flapCommand }) else s

/-- The command re-evaluated from the record (R70). -/
def State.commandFlap (s : State) : State := s.mapClimate (fun c => { c with flapCommand := c.flapFor })

/-- The flap at a change of the record: with the door open the command changes and the flap stays (R70). -/
def State.flapAtRecord (s : State) : State := if s.doorOpen then s.commandFlap else s.commandFlap.driveFlap

/-! ## The climate record (R54) -/

/-- The humidity target of a step: REHEAT 50, PROOF 75 where the step carries none, COMBI its own (R54). -/
def StepRecord.target (r : StepRecord) : Option Nat :=
  match r.mode with
  | .reheat => some 50
  | .proof => some (r.humidity.getD 75)
  | .combi => r.humidity
  | .convection => none
  | .topBottom => none
  | .grill => none
  | .bottomHeat => none
  | .steam => none
  | .keepWarm => none
  | .wait => none
  | .drain => none
  | .fill => none
  | .soak => none
  | .rinse => none

/-- The humidity integrator is kept only between two humidity-regulated modes (R64). -/
def Climate.keepsHumI (c : Climate) (m : Mode) : Bool := c.regulatesHumidity && m.humidityRegulated

/-- The record set for a step, with what its entry does to the integrators (R54, R61, R64); venting ends. -/
def Climate.forStep (r : StepRecord) (c : Climate) : Climate :=
  { c with
    mode := some r.mode, setpoint := r.setpoint, humidityTarget := r.target, venting := false, ventTimer := none
    tempI := if loadSetOf c.mode = r.mode.loadSet then c.tempI else 0
    humI := if c.keepsHumI r.mode then c.humI else 0 }

/-- The record set for NONE; venting ends (R54, R74). -/
def Climate.forNone (c : Climate) : Climate :=
  { c with mode := none, setpoint := none, humidityTarget := none, venting := false, ventTimer := none }

/-- Both integrators set to 0 at the start of a program (R61, R64). -/
def Climate.forStart (c : Climate) : Climate := { c with tempI := 0, humI := 0 }

/-- Entry to a step at the climate regulator (R54, R70). -/
def State.recordStep (r : StepRecord) (s : State) : State := (s.mapClimate (Climate.forStep r)).flapAtRecord

/-- The end of a program at the climate regulator (R54, R70, R74). -/
def State.recordNone (s : State) : State := (s.mapClimate Climate.forNone).flapAtRecord

/-- The start of a VENT phase; a vent in progress continues (R72). -/
def State.beginVent (s : State) : State :=
  if s.climate.venting then s
  else
    (((s.mapClimate (fun c => { c with venting := true, ventTimer := some .zero })).commandFlap.driveFlap).withdrawAll).handNotice
      .vent

end Sys2Proof.Machine
end

