-- ==== Sys2Proof/Machine/Water.lean ====
section
/-! DEFINITION. The steam generator: boiler states and requests (R83 to R87), fills (R88 to R90), drains (R91 to R94),
service actions (R95), bars and mains (R96), and the first stroke of a descale (R154). -/

namespace Sys2Proof.Machine

/-! ## Samples and states -/

/-- A boiler temperature sample; an invalid one leaves the last valid reading in use (R82). -/
def Steam.sample (tenths : Int) (w : Steam) : Steam :=
  { w with
    boilerReading := some tenths
    lastBoiler := if validBoiler tenths then some tenths else w.lastBoiler }

/-- HEATING, READY and STEAMING (R49, R87). -/
def BoilerState.working : BoilerState → Bool
  | .heating => true
  | .ready => true
  | .steaming => true
  | .empty => false
  | .filling => false
  | .draining => false
  | .standing => false
  | .off => false

/-- The boiler state changes; leaving HEATING, READY or STEAMING for any other state withdraws the boiler (R49). -/
def State.setBoiler (b : BoilerState) (s : State) : State :=
  let t := s.mapSteam (fun w => { w with boiler := b })
  if s.steam.boiler.working && !b.working then t.withdrawBoiler else t

/-- Soak heating ends, with a withdrawal of the boiler (R49, R95). -/
def State.endSoak (s : State) : State :=
  if s.steam.soakHeating then (s.mapSteam (fun w => { w with soakHeating := false })).withdrawBoiler else s

/-- OFF with water above the LOW probe, EMPTY without (R87). -/
def State.stillState (s : State) : BoilerState := if s.lowWet then .off else .empty

/-- The state of a boiler that is to heat: READY at 98.0 °C or more by a valid temperature in use, HEATING below, and OFF
while a fault bars heating (R85, R96). -/
def State.heatState (s : State) : BoilerState :=
  if s.barsHeating then .off else if s.boilerAtLeast 980 then .ready else .heating

/-- Soak heating set, unless a fault bars it or the program is PAUSED (R95, R96). -/
def State.startSoak (s : State) : State :=
  let t := s.setBoiler .off
  if s.barsHeating || s.suspended then t else t.mapSteam (fun w => { w with soakHeating := true })

/-! ## Drains (R91, R94) -/

/-- A drain is started: the fill or the heating in progress ends, the state holds until the valve opens, and the cool-wait
timer counts from now (R91, R159). DESIGN CHOICE (log 50): the time-out drain that R93 leaves owed becomes due for that timer
when it starts, after CLEAR_FAULTS. -/
def State.beginDrain (serves : Bool) (s : State) : State :=
  let t := s.endSoak
  let u := if t.steam.boiler.working then t.setBoiler .off else t
  u.mapSteam (fun w => { w with drainStarted := true, drainServes := serves, coolWait := some .zero })

/-- A drain becomes owed for a reason and starts at once (R94). -/
def State.oweDrain (why : OwedDrain) (s : State) : State :=
  (s.mapSteam (fun w => { w with owed := some why })).beginDrain false

/-- The boiler is cool: at or below 80.0 °C, or 600 s after the drain became due with no valid temperature in use (R91). -/
def State.coolForDrain (s : State) : Bool :=
  match s.boilerInUse with
  | some t => decide (t ≤ 800)
  | none =>
    match s.steam.coolWait with
    | some c => decide (600 ≤ c.seconds)
    | none => false

/-- A started drain's four conditions hold (R91); start-up has reached the steam generator (R201). -/
def State.valveDue (s : State) : Bool :=
  s.inService && s.steam.drainStarted && s.coolForDrain && s.tankPresent && !s.faultActive .drainTimeout && !s.mainsOut

/-- The valve opens: DRAINING, the drain timer at 0, the run-on timer too where LOW is dry already (R91, R92). -/
def State.openValve (s : State) : State :=
  s.mapSteam (fun w =>
    { w with
      boiler := .draining, drainStarted := false, coolWait := none
      drainTimer := some .zero, runOn := if s.lowWet then none else some .zero })

/-- A started drain whose conditions hold opens its valve at once (R91). -/
def State.openDueValve (s : State) : State := if s.valveDue then s.openValve else s

/-! ## Fills (R88, R89, R154) -/

/-- The first stroke event of the descale FILL step, if rinse-owed is clear (R154). -/
def State.strokeEvent (s : State) : State :=
  if s.steam.request = .fill ∧ s.scale.rinseOwed = false then
    (s.mapScale (fun a => { a with rinseOwed := true, drainOnStop := true })).requestWrite
  else s

/-- Why a fill that starts with this tank waits (R89). -/
def fillWaitFor : Option Tank → Option TankWait
  | some (.present .empty) => some .empty
  | some (.present .low) => none
  | some (.present .ok) => none
  | some .absent => some .absent
  | none => some .absent

/-- A stroke that may begin at the next crossing, unless the fill waits. -/
def strokeUnder (w : Option TankWait) : Stroke := if w.isSome then .idle else .awaiting

/-- The pump stops: no stroke, no tank wait (R87, R88). -/
def Steam.stopPump (w : Steam) : Steam := { w with stroke := .idle, fillWait := none }

/-- A fill ends at HIGH, as the request in force gives (R85, R88, R95, R154). A RINSE pass goes on to its drain. -/
def State.fillEnds (s : State) : State :=
  let t := s.mapSteam Steam.stopPump
  match s.steam.request with
  | .steam => t.setBoiler t.heatState
  | .fill =>
    let u := if s.steam.strokes = 0 then t.strokeEvent else t
    (u.setBoiler .off).mapSteam (fun w => { w with handed := some .fillComplete })
  | .soak => t.startSoak
  | .rinse => (t.setBoiler .off).beginDrain true
  | .drain => t.setBoiler t.stillState
  | .none => t.setBoiler t.stillState

/-- A fill starts with a fresh stroke budget (R88, R89); none starts while a fault bars filling (R96), and one that finds
HIGH wet ends at once. -/
def State.startFill (s : State) : State :=
  if s.barsFilling then s
  else
    let t := (s.setBoiler .filling).mapSteam (fun w => { w with strokes := 0 })
    if s.highWet then t.fillEnds
    else
      t.mapSteam (fun w =>
        { w with fillWait := fillWaitFor w.tank, stroke := strokeUnder (fillWaitFor w.tank) })

/-- A fill in progress stops without ending at HIGH (R87, R96, R159). -/
def State.stopFill (s : State) : State :=
  if s.steam.boiler = .filling then (s.mapSteam Steam.stopPump).setBoiler s.stillState else s

/-- A waiting fill resumes with a fresh stroke budget (R90). -/
def Steam.resumeFill (w : Steam) : Steam := { w with strokes := 0, stroke := .awaiting, fillWait := none }

/-- A fill waits for the tank; a stroke in progress is cut short, and has been counted (R89). -/
def Steam.waitFill (c : TankWait) (w : Steam) : Steam := { w with stroke := .idle, fillWait := some c }

/-- A stroke in progress is cut short and counted; an 80th stroke cut short ends the budget (R89, R96). -/
def Steam.cutStroke (w : Steam) : Steam :=
  match w.stroke with
  | .running _ => if 80 ≤ w.strokes then w.waitFill .budget else { w with stroke := .awaiting }
  | .awaiting => w
  | .idle => w

/-- A stroke begins and is counted (R88), and under FILL handed to scale accounting. -/
def State.beginStroke (s : State) : State :=
  (s.mapSteam (fun w => { w with strokes := w.strokes + 1, stroke := .running 0 })).strokeEvent

/-- The pump at a crossing: a stroke begins, runs, or ends after 25 cycles with the next begun or the budget spent
(R88, R89). No stroke begins while the program is PAUSED (R96). -/
def State.strokeCrossing (s : State) : State :=
  if s.steam.boiler = .filling ∧ s.suspended = false then
    match s.steam.stroke with
    | .idle => s
    | .awaiting => s.beginStroke
    | .running c =>
      if c + 1 < 25 then s.mapSteam (fun w => { w with stroke := .running (c + 1) })
      else if 80 ≤ s.steam.strokes then s.mapSteam (Steam.waitFill .budget)
      else s.beginStroke
  else s

/-! ## Requests (R84, R85, R95) -/

/-- A request waits behind a drain in hand, an owed drain it does not clear, and the start-up drain (R85, R94). -/
def State.mustDrainFirst (s : State) : Bool :=
  s.drainInHand || s.steam.owed.isSome || decide (s.steam.boiler = .standing)

/-- The request in force is served by the state the boiler is in (R85, R95). A fill in progress goes on. -/
def State.serve (s : State) : State :=
  if s.mustDrainFirst || decide (s.steam.boiler = .filling) then s
  else
    match s.steam.request with
    | .none => s
    | .steam =>
      if s.steam.boiler.working then s
      else if s.steam.boiler = .off ∧ s.lowWet = true then s.setBoiler s.heatState
      else s.startFill
    | .fill => s.startFill
    | .soak => if s.lowWet then s.startSoak else s.startFill
    | .drain => s.beginDrain true
    | .rinse => s.startFill

/-- A drain of the request before that has not opened its valve is given up with it, unless it is owed (R91). -/
def Steam.dropDrain (w : Steam) : Steam :=
  if w.drainStarted && w.owed.isNone then { w with drainStarted := false, drainServes := false, coolWait := none } else w

/-- A request other than NONE clears an owed drain that has not opened its valve, unless it is the start-up drain or one for
water found (R94). -/
def Steam.clearOwed (req : BoilerRequest) (w : Steam) : Steam :=
  if req = .none ∨ w.boiler = .draining then w
  else if w.owed = some .endOfProgram ∨ w.owed = some .timedOut then
    { w with owed := none, drainStarted := false, drainServes := false, coolWait := none }
  else w

/-- What the boiler leaves when the request changes (R87, R95, R159): soak heating but under SOAK, a fill under NONE and
DRAIN, the working states but under STEAM. -/
def State.leaveRequest (req : BoilerRequest) (s : State) : State :=
  let t := if req = .soak then s else s.endSoak
  let u := if req = .none ∨ req = .drain then t.stopFill else t
  if u.steam.boiler.working && decide (req ≠ .steam) then u.setBoiler .off else u

/-- A request handed to the steam generator; one equal to the request in force is no event (R84). A DRAIN request that
finds a drain DRAINING is served by it (R159). -/
def State.handRequest (req : BoilerRequest) (s : State) : State :=
  if req = s.steam.request then s
  else
    let t := s.mapSteam (fun w =>
      { w.dropDrain with request := req, used := w.used || (decide (req ≠ .none) && s.hasActive), rinsePass :=
          if req = .rinse then 0 else w.rinsePass })
    let u := (t.leaveRequest req).mapSteam (Steam.clearOwed req)
    (u.mapSteam (fun w => { w with drainServes := decide (w.boiler = .draining) && decide (req = .drain) })).serve

/-- The boiler at the end of a program: NONE is handed, and a used boiler that is not EMPTY owes a drain (R87, R94). -/
def State.releaseBoiler (s : State) : State :=
  let t := s.handRequest .none
  let u := t.mapSteam (fun w => { w with used := false })
  if t.steam.used && decide (t.steam.boiler ≠ .empty) && t.steam.owed.isNone then
    if t.steam.boiler = .draining then u.mapSteam (fun w => { w with owed := some .endOfProgram })
    else u.oweDrain .endOfProgram
  else u

/-! ## The end of a drain (R92, R93, R95, R156) -/

/-- The valve closes and the timers are idle (R92, R93). -/
def Steam.closeDrain (w : Steam) : Steam := { w with drainTimer := none, runOn := none, drainServes := false }

/-- Rinse complete at scale accounting: rinse-owed and drain-on-stop become clear, with a write (R156). -/
def State.rinseDone (s : State) : State :=
  (s.mapScale (fun a => { a with rinseOwed := false, drainOnStop := false })).requestWrite

/-- A drain that served the request in force has completed: DRAIN hands drain complete, RINSE counts its pass (R95). -/
def State.servedDrain (s : State) : State :=
  match s.steam.request with
  | .drain => s.mapSteam (fun w => { w with handed := some .drainComplete })
  | .rinse =>
    let t := s.mapSteam (fun w => { w with rinsePass := w.rinsePass + 1 })
    if t.steam.rinsePass < 2 then t.startFill
    else (t.mapSteam (fun w => { w with handed := some .rinseComplete })).rinseDone
  | .none => s
  | .steam => s
  | .fill => s
  | .soak => s

/-- A drain is complete: EMPTY, accumulator 0, nothing owed; a waiting request is then served (R92). -/
def State.drainEnds (s : State) : State :=
  let t := s.mapSteam (fun w => { w.closeDrain with boiler := .empty, evaporation := 0, owed := none })
  if s.steam.drainServes then t.servedDrain else t.serve

/-- A drain has timed out: OFF, with a drain owed (R93). Its fault is raised by the caller. -/
def State.drainTimesOut (s : State) : State :=
  s.mapSteam (fun w => { w.closeDrain with boiler := .off, owed := some .timedOut })

/-- The drain timer stands at 90 s or more (R93). -/
def Steam.drainOverdue (w : Steam) : Bool :=
  match w.drainTimer with
  | some t => decide (90 ≤ t.seconds)
  | none => false

/-- An owed time-out drain starts once DRAIN_TIMEOUT has been cleared (R94). -/
def State.startTimedOutDrain (s : State) : State :=
  if s.steam.owed = some .timedOut ∧ s.steam.drainStarted = false ∧ s.faultActive .drainTimeout = false then
    s.beginDrain false
  else s

/-- The start-up drain of a STANDING boiler starts (R94, R201). -/
def State.startStandingDrain (s : State) : State :=
  if s.steam.boiler = .standing then s.beginDrain false else s

/-! ## Level probes (R80, R87, R92) -/

/-- LOW dry (R49, R87, R92, R95). -/
def State.lowGoesDry (s : State) : State :=
  let t := (s.mapSteam (fun w => { w with low := some .dry })).withdrawBoiler
  match s.steam.boiler with
  | .heating => t.startFill
  | .ready => t.startFill
  | .steaming => t.startFill
  | .off => if t.steam.request = .soak then t.endSoak.serve else t.endSoak
  | .draining => t.mapSteam (fun w => { w with runOn := some .zero })
  | .empty => t
  | .filling => t
  | .standing => t

/-- LOW wet, but for a drain that it times out (R87, R92). -/
def State.lowGoesWet (s : State) : State :=
  let t := s.mapSteam (fun w => { w with low := some .wet })
  match s.steam.boiler with
  | .empty => if s.steam.request = .none then (t.setBoiler .off).oweDrain .waterFound else t
  | .draining => t.mapSteam (fun w => { w with runOn := none })
  | .filling => t
  | .heating => t
  | .ready => t
  | .steaming => t
  | .off => t
  | .standing => t

/-- A LOW wet event during a run-on finds the drain timer at 90 s or more: the drain times out (R93). -/
def State.lowWetTimesOut (s : State) : Bool :=
  decide (s.steam.boiler = .draining) && s.steam.runOn.isSome && s.steam.drainOverdue

/-- HIGH wet ends a fill, waiting or not (R88, R89). -/
def State.highGoesWet (s : State) : State :=
  let t := s.mapSteam (fun w => { w with high := some .wet })
  if s.steam.boiler = .filling then t.fillEnds else t

/-! ## The tank (R81, R89 to R92) -/

/-- The tank is removed: a fill waits with cause ABSENT (R89); an open valve closes while it is away (R92). -/
def Steam.tankGone (w : Steam) : Steam :=
  let v := { w with tank := some .absent }
  if w.boiler = .filling then v.waitFill .absent else v

/-- The tank arrives with a level: a waiting fill resumes, or waits with cause EMPTY (R90). -/
def Steam.tankHere (level : TankLevel) (w : Steam) : Steam :=
  let v := { w with tank := some (.present level) }
  if w.boiler = .filling ∧ w.fillWait.isSome = true then
    match level with
    | .empty => v.waitFill .empty
    | .low => v.resumeFill
    | .ok => v.resumeFill
  else v

/-- The level of a tank that is present changes: EMPTY makes a fill wait, LOW and OK end a wait for EMPTY (R89, R90). -/
def Steam.levelChanges (level : TankLevel) (w : Steam) : Steam :=
  let v := { w with tank := some (.present level) }
  if w.boiler = .filling then
    match level, w.fillWait with
    | .empty, none => v.waitFill .empty
    | .low, some .empty => v.resumeFill
    | .ok, some .empty => v.resumeFill
    | _, _ => v
  else v

/-! ## Pause, bars and mains (R96) -/

/-- The program enters PAUSED: soak heating ends, a stroke in progress is cut short (R96). -/
def State.suspendBoiler (s : State) : State := s.endSoak.mapSteam Steam.cutStroke

/-- The suspended flag clears: soak heating is set again under SOAK (R96). -/
def State.resumeBoiler (s : State) : State := if s.steam.request = .soak then s.serve else s

/-- A fault that bars heating has become active (R96). -/
def State.barHeating (s : State) : State :=
  let t := s.endSoak
  if t.steam.boiler.working then t.setBoiler .off else t

/-- A fault that bars filling has become active (R96). -/
def State.barFilling (s : State) : State := s.barHeating.stopFill

/-- MAINS has become active: a stroke in progress is cut short (R96). -/
def State.boilerMainsLoss (s : State) : State := s.mapSteam Steam.cutStroke

/-! ## The boundary (R83, R86, R155) -/

/-- The boiler's temperature in use is below a value. -/
def State.boilerBelow (tenths : Int) (s : State) : Bool :=
  match s.boilerInUse with
  | some t => decide (t < tenths)
  | none => false

/-- The state after a boundary's STEAM transition (R86). DESIGN CHOICE (log 47): READY with a handed demand above 0 and a
valid temperature below 90.0 °C, where two rows apply, goes to STEAMING. -/
def State.boilerAfterBoundary (s : State) : BoilerState :=
  if s.steam.request = .steam then
    match s.steam.boiler with
    | .heating => if s.boilerAtLeast 980 then .ready else .heating
    | .ready =>
      if 0 < s.climate.lastBoilerDemand then .steaming
      else if s.boilerBelow 900 then .heating
      else .ready
    | .steaming => if s.climate.lastBoilerDemand = 0 then .ready else .steaming
    | .empty => .empty
    | .filling => .filling
    | .draining => .draining
    | .standing => .standing
    | .off => .off
  else s.steam.boiler

/-- The STEAM transition of a boundary (R86). -/
def State.boilerBoundary (s : State) : State := s.setBoiler s.boilerAfterBoundary

/-- The soak demand: 20 below 57.0 °C, 5 to below 60.0 °C, 0 from there on and with no valid temperature (R155). -/
def State.soakDemand (s : State) : Nat :=
  if s.boilerBelow 570 then 20 else if s.boilerBelow 600 then 5 else 0

/-- The boiler demand stated to the load frame (R83); 0 in every state while PAUSED (R96). -/
def State.statedDemand (s : State) : Nat :=
  if s.suspended then 0
  else
    match s.steam.boiler with
    | .heating => 20
    | .ready => if s.boilerBelow 990 then 4 else 0
    | .steaming => s.climate.lastBoilerDemand
    | .off => if s.steam.soakHeating then s.soakDemand else 0
    | .empty => 0
    | .filling => 0
    | .draining => 0
    | .standing => 0

end Sys2Proof.Machine
end

