-- ==== Sys2Proof/Machine/Program.lean ====
section
/-! DEFINITION. The sequencer: start checks and starts (R121, R122), steps and phases (R123 to R131), forced drains (R159),
ends and chains (R142 to R144), and what follows from any of them within the same event (R126, R134, R153). -/

namespace Sys2Proof.Machine

/-! ## Start checks (R121, R172) -/

/-- The program has humid steps (spec/06, before section 6.1). -/
def Program.humidSteps (p : Program) : Bool := p.records.any (fun r => r.mode.humid)

/-- The program has a heating step (spec/06, before section 6.1). -/
def Program.heatingStep (p : Program) : Bool := p.records.any (fun r => r.mode.heats)

/-- A fault that refuses a program with a heating step is active (R121, row 4). -/
def State.heatBlocked (s : State) : Bool :=
  s.faultActive .cavitySensor || s.faultActive .cavityOverheat || s.faultActive .mains

/-- A fault that refuses or ends a humid step is active (R121 row 7, R171). -/
def State.humidBlocked (s : State) : Bool :=
  s.faultActive .boilerSensor || s.faultActive .boilerDry || s.faultActive .drainTimeout

/-- The start checks of a program: rows 4 to 7 of R121, the first that fails. -/
def State.startRefusal (p : Program) (s : State) : Option AnswerCode :=
  if p.heatingStep && s.heatBlocked then some .faultBlock
  else if p.humidSteps && s.scale.rinseOwed then some .rinseOwed
  else if p.humidSteps && s.scaleLock then some .scaleLock
  else if p.humidSteps && s.humidBlocked then some .faultBlock
  else none

/-! ## Ends (R142, R143) -/

/-- The sequencer with no program: everything but the second clock cleared (R142, item 3). -/
def Sequencer.idle (q : Sequencer) : Sequencer := { Sequencer.reset with clock := q.clock }

/-- The slot side of an end: DONE with the outcome, and the last-outcome record (R116). -/
def Store.finish (ix : SlotIx) (p : Program) (o : ProgramOutcome) (t : Store) : Store :=
  { t.setSlot ix (.done p o) with lastOutcome := ⟨ix.number, p.tag, p.kind, .ended o⟩ }

/-- The ACTIVE program ends with an outcome (R142 items 1 to 5, R143). -/
def State.endProgram (o : ProgramOutcome) (s : State) : State :=
  match s.activeRun with
  | none => s
  | some (at_, p) =>
    let closed := ((s.mapStore (Store.finish at_.slot p o)).recordNone).releaseBoiler
    let cleared := (closed.mapSeq Sequencer.idle).mapSteam (fun w => { w with handed := none })
    (((cleared.mapScale (fun a => { a with drainOnStop := false })).requestWrite).withdrawAll).updateCeiling

/-- The ACTIVE program ends ABORTED (R143). -/
def State.endAborted (c : AbortCause) (s : State) : State := s.endProgram (.aborted c)

/-! ## Phases (R124) -/

/-- The phase is set. -/
def State.setPhase (p : Phase) (s : State) : State :=
  s.mapSeq (fun q => { q with run := q.run.map (fun at_ => { at_ with phase := p }) })

/-- A prompt waits, its timer at 0 (R125). -/
def State.waitPrompt (code : Option Nat) (s : State) : State :=
  s.mapSeq (fun q => { q with prompt := code, promptTimer := some 0 })

/-- No prompt waits, and its timer is idle (R125). -/
def Sequencer.dropPrompt (q : Sequencer) : Sequencer := { q with prompt := none, promptTimer := none }

/-- The boiler request of a step in its working phases: STEAM for a humid one, that of its mode in a service step, else
NONE (R124, R153). -/
def Mode.request : Mode → BoilerRequest
  | .steam => .steam
  | .combi => .steam
  | .reheat => .steam
  | .proof => .steam
  | .drain => .drain
  | .fill => .fill
  | .soak => .soak
  | .rinse => .rinse
  | .convection => .none
  | .topBottom => .none
  | .grill => .none
  | .bottomHeat => .none
  | .keepWarm => .none
  | .wait => .none

/-- A CORE step converts to TIMED by its fallback, or PROBE joins the hold causes (R129). -/
def Sequencer.loseProbe (r : StepRecord) (q : Sequencer) : Sequencer :=
  match r.fallback with
  | some d => { q with workKind := some .timed, workDuration := some d, elapsed := 0 }
  | none => { q with probeHold := true }

/-- The waiting prompt of a COUNT: that of a PROMPT_ONLY step (R130, R157). -/
def State.countPrompt (r : StepRecord) (s : State) : State :=
  if r.endKind = some .promptOnly then s.waitPrompt r.promptOut else s

/-- The probe test at entry to COUNT: a CORE step whose probe is not PRESENT (R129). -/
def State.countProbe (r : StepRecord) (s : State) : State :=
  if r.endKind = some .core ∧ s.climate.coreStatus ≠ .present then s.mapSeq (Sequencer.loseProbe r) else s

/-- Entry to COUNT (R124, R129, R130, R153). -/
def State.toCount (r : StepRecord) (s : State) : State :=
  (((s.setPhase .count).handRequest r.mode.request).countPrompt r).countProbe r

/-- Entry to PREHEAT where the step has one (R124). -/
def State.toPreheat (r : StepRecord) (s : State) : State :=
  if r.preheat then (s.setPhase .preheat).handRequest r.mode.request else s.toCount r

/-- Entry to PREPARE where the step is humid (R124, R126). -/
def State.toPrepare (r : StepRecord) (s : State) : State :=
  if r.mode.humid then (s.setPhase .prepare).handRequest .steam else s.toPreheat r

/-- Entry to the first phase of a RECIPE step (R124). -/
def State.toPromptIn (r : StepRecord) (s : State) : State :=
  if r.promptIn.isSome then ((s.setPhase .promptIn).handRequest .none).waitPrompt r.promptIn else s.toPrepare r

/-- Entry to VENT (R131, R72). -/
def State.toVent (s : State) : State := ((s.setPhase .vent).handRequest .none).beginVent

/-! ## Steps (R123) -/

/-- The working copy of a step (R123, items 1 and 4). -/
def Sequencer.forStep (ix : SlotIx) (i : Nat) (r : StepRecord) (q : Sequencer) : Sequencer :=
  { q with
    run := some ⟨ix, i, .count⟩, workKind := r.endKind, workDuration := r.duration, elapsed := 0
    prompt := none, promptTimer := none, probeHold := false }

/-- The working duration is present for a TIMED or BANDED working end kind alone (R118). -/
def StepRecord.forWork (r : StepRecord) : StepRecord :=
  if r.endKind = some .timed ∨ r.endKind = some .banded then r else { r with duration := none }

/-- Drain-on-stop is set at entry to the RINSE step (R156). -/
def State.rinseEntry (r : StepRecord) (s : State) : State :=
  if r.mode = .rinse then s.mapScale (fun a => { a with drainOnStop := true }) else s

/-- A step is entered: working copy, climate record, ceiling and first phase (R123); a service step has COUNT alone
(R153). -/
def State.admitStep (ix : SlotIx) (p : Program) (i : Nat) (r : StepRecord) (s : State) : State :=
  let t := ((s.mapSeq (Sequencer.forStep ix i r.forWork)).recordStep r).updateCeiling
  match p.kind with
  | .recipe => t.toPromptIn r
  | .service => (t.rinseEntry r).toCount r

/-- The step of an index is entered, or the program ends ABORTED(FAULT) in place of entering a humid step under a boiler
fault (R123, R171). -/
def State.enterStep (ix : SlotIx) (p : Program) (i : Nat) (s : State) : State :=
  match p.step i with
  | none => s
  | some r =>
    if decide (p.kind = .recipe) && r.mode.humid && s.humidBlocked then s.endAborted .fault
    else s.admitStep ix p i r

/-- A program starts in a slot (R122): the slot ACTIVE, flags cleared, integrators and millilitres at 0, QUIET left, the
cooling fan on (R77), no chain refusal any more (R180), and step 0 entered. -/
def State.startProgram (ix : SlotIx) (p : Program) (s : State) : State :=
  let placed := (s.mapStore (Store.setSlot ix (.active p))).mapSeq
    (fun q => { q.idle with run := some ⟨ix, 0, .count⟩ })
  let told := ((placed.mapClimate Climate.forStart).mapSteam (fun w => { w with millilitres := 0 })).mapReport
    (fun u => { u with chainRefusal := none })
  (told.coolOn.leaveQuiet).enterStep ix p 0

/-- The chain at a FINISHED end: a READY other slot with its chain flag set starts, or its refusal is recorded (R144). -/
def State.chain (ended : SlotIx) (s : State) : State :=
  match s.store.slot ended.other with
  | .ready p =>
    if p.chain then
      match s.startRefusal p with
      | none => s.startProgram ended.other p
      | some c => s.mapReport (fun u => { u with chainRefusal := some c })
    else s
  | .empty => s
  | .loading _ => s
  | .active _ => s
  | .done _ _ => s

/-- The step is complete: ABORTED(STOPPED) when stopping, the next step, or FINISHED with its chain (R131, R142). An
end-of-program drain that finds its conditions met opens its valve before the chain is examined (R91, R94, log 51). -/
def State.stepComplete (s : State) : State :=
  match s.activeRun with
  | none => s
  | some (at_, p) =>
    if s.seq.stopFlag then s.endAborted .stopped
    else if at_.step + 1 < p.stepCount then s.enterStep at_.slot p (at_.step + 1)
    else (s.endProgram .finished).openDueValve.chain at_.slot

/-- The step of this index is followed by no step or by a dry one (R131). -/
def Program.driesAfter (p : Program) (i : Nat) : Bool :=
  match p.step (i + 1) with
  | some r => !r.mode.humid
  | none => true

/-- The step passes to VENT where R131 requires one, and is complete otherwise. -/
def State.ventOrComplete (s : State) : State :=
  match s.activeRun with
  | none => s
  | some (at_, p) => if s.stepHumid && p.driesAfter at_.step then s.toVent else s.stepComplete

/-- PROBE leaves the hold causes at the end of COUNT (R129). -/
def State.clearProbe (s : State) : State := s.mapSeq (fun q => { q with probeHold := false })

/-- COUNT ends: PROMPT_OUT where the step has one (R131). -/
def State.endCount (s : State) : State :=
  match s.activeStep with
  | none => s
  | some r =>
    if r.promptOut.isSome && decide (r.endKind ≠ some .promptOnly) then
      ((s.clearProbe.setPhase .promptOut).handRequest .none).waitPrompt r.promptOut
    else s.clearProbe.ventOrComplete

/-- The waiting prompt completes and its phase ends (R125, R130, R137, R157). -/
def State.completePrompt (s : State) : State :=
  let t := s.mapSeq Sequencer.dropPrompt
  match s.activeStep, s.phase with
  | some r, some .promptIn => t.toPrepare r
  | some _, some .promptOut => t.ventOrComplete
  | some _, some .count => t.clearProbe.ventOrComplete
  | _, _ => t

/-- The current step is skipped: every phase but VENT is passed over (R139). DESIGN CHOICE (log 48): where the skipped step was
HELD(PROBE) and the next one begins HELD, the interruption timer counts on. -/
def State.skipStep (s : State) : State := (s.mapSeq Sequencer.dropPrompt).clearProbe.ventOrComplete

/-- A humid step is stopped: STOPPING, in its VENT (R138). -/
def State.stopHumid (s : State) : State :=
  let t := (s.mapSeq (fun q =>
    { q.dropPrompt with stopFlag := true, pauseFlag := false, probeHold := false }))
  if s.phase = some .vent then t else t.toVent

/-- A forced drain of a SERVICE program (R159). -/
def State.forcedDrain (c : AbortCause) (s : State) : State :=
  ((s.mapSeq (fun q =>
    { q.dropPrompt with stopFlag := true, forcedCause := some c, pauseFlag := false, interruption := none })).setPhase
      .count).handRequest .drain

/-! ## What follows within the event -/

/-- A completion taken from the steam generator ends its service step, or the forced drain's program (R153, R159). -/
def State.takeHanded (s : State) : State :=
  let t := s.mapSteam (fun w => { w with handed := none })
  if s.serviceActive then
    if s.seq.stopFlag then
      if s.steam.handed = some .drainComplete then t.endAborted (s.seq.forcedCause.getD .stopped) else t
    else t.stepComplete
  else t

/-- PREPARE ends: boiler ready is handed while RUNNING (R126). -/
def State.prepareDue (s : State) : Bool := decide (s.phase = some .prepare) && s.boilerReady && s.isRunning

/-- PREPARE ends (R126). -/
def State.endPrepare (s : State) : State :=
  match s.activeStep with
  | some r => s.toPreheat r
  | none => s

/-- One thing that is due at once: a valve that opens (R91), a completion handed (R84), PREPARE's end (R126). -/
def State.settleOnce (s : State) : State :=
  if s.valveDue then s.openValve
  else if s.steam.handed.isSome then s.takeHanded
  else if s.prepareDue then s.endPrepare
  else s

/-- Something is due at once. -/
def State.settleDue (s : State) : Bool := s.valveDue || s.steam.handed.isSome || s.prepareDue

/-- The interruption timer follows the run state: HELD and PAUSED start it or keep it, RUNNING, STOPPING and the end of the
program make it idle (R134). -/
def State.keepInterruption (s : State) : State :=
  s.mapSeq (fun q =>
    { q with
      interruption :=
        if s.runState = some .held ∨ s.runState = some .paused then some (q.interruption.getD 0) else none })

/-- Everything that is due at once, in turn; n bounds the turns. The interruption timer follows the run state at each turn, so
that a program that is RUNNING between two holds of one event starts it again (R126, R134). -/
def State.settleTurns : Nat → State → State
  | 0, s => s
  | n + 1, s => if s.settleDue then (s.keepInterruption.settleOnce).settleTurns n else s

/-- A bound on the turns: a turn that ends a step leaves fewer steps of at most two programs of 12, and between two such
turns each of the three things is due once at most. -/
def settleBound : Nat := 256

/-- What follows from an event at the sequencer, the steam generator and the ceiling (R40, R126, R134, R153). -/
def State.runSettle (s : State) : State := ((s.settleTurns settleBound).updateCeiling).keepInterruption

end Sys2Proof.Machine
end

