-- ==== Sys2Proof/Machine/Door.lean ====
section
/-! DEFINITION. The door: its events (R68, R69, R115) and the examination of the raw switch at a crossing (R67). -/

namespace Sys2Proof.Machine

/-- DONE slots become EMPTY at a door-open event (R115). -/
def Store.doorClear (ix : SlotIx) (t : Store) : Store :=
  match t.slot ix with
  | .done _ _ => t.releaseSlot ix
  | .empty => t
  | .loading _ => t
  | .ready _ => t
  | .active _ => t

/-- A VAPOUR notice with reason DOOR while the current step is humid (R68, R75). -/
def State.doorNotice (s : State) : State := if s.stepHumid then s.handNotice .door else s

/-- The door-open event (R22, R39, R49, R68, R115, R132). -/
def State.doorOpens (s : State) : State :=
  let t := ((s.mapClimate (fun c => { c with door := some .opened, doorPending := false })).mapLoad
    (fun l => { l with doorTimer := some .zero })).withdrawAll
  ((t.doorNotice.mapStore (fun st => (st.doorClear .s0).doorClear .s1)).leaveQuiet).runSettle

/-- The door-close event (R22, R39, R69, R70, R132). -/
def State.doorCloses (s : State) : State :=
  let t := (s.mapClimate (fun c => { c with door := some .closed, doorPending := false })).mapLoad
    (fun l => { l with doorTimer := none })
  (t.commandFlap.driveFlap.leaveQuiet).runSettle

/-! ## The raw switch (R67) -/

/-- The level at the raw door switch's pin. -/
def State.doorPin (d : Door) (s : State) : State := s.setInputs { s.inputs with door := d }

/-- What the last examination read: the level opposite to the debounced state, or that state's own. -/
def State.doorExamined (opposite : Bool) (s : State) : State :=
  s.mapClimate (fun c => { c with doorPending := opposite })

/-- The debounced state takes the level of the raw switch: the door-open or door-close event (R67). -/
def State.doorChanges (s : State) : State :=
  match s.inputs.door with
  | .opened => s.doorOpens
  | .closed => s.doorCloses

/-- An examination of the raw switch, once the state is established: the second in a row that reads the opposite level
changes the debounced state (R67). -/
def State.examineDoor (s : State) : State :=
  match s.climate.door with
  | none => s
  | some d =>
    if s.inputs.door = d then s.doorExamined false
    else if s.climate.doorPending then s.doorChanges
    else s.doorExamined true

end Sys2Proof.Machine
end

