-- ==== Sys2Proof/Machine/FaultSet.lean ====
section
/-! DEFINITION. The fault set: records becoming active and inactive with their effects (R163, R164, R171, R174), detection
from samples (R165 to R167), mains loss and return (R35, R168), time-outs (R169) and clearing (R173). -/

namespace Sys2Proof.Machine

/-! ## Effects on the program (R160, R171) -/

/-- What a fault that becomes active does to the ACTIVE program. -/
inductive ProgramEffect where
  | nothing
  | abort
  | abortIfHumid
  | boilerFault
deriving DecidableEq, Repr

/-- The effect on a RECIPE program (R171). -/
def FaultKind.onRecipe : FaultKind → ProgramEffect
  | .cavitySensor => .abort
  | .cavityOverheat => .abort
  | .drainTimeout => .abort
  | .mains => .abort
  | .boilerSensor => .abortIfHumid
  | .boilerDry => .abortIfHumid
  | .humiditySensor => .nothing
  | .coreProbeShort => .nothing
  | .link => .nothing
  | .duplicateStation => .nothing
  | .retainedRecord => .nothing

/-- The effect on a SERVICE program (R160, R171). -/
def FaultKind.onService : FaultKind → ProgramEffect
  | .cavityOverheat => .abort
  | .drainTimeout => .abort
  | .mains => .abort
  | .boilerSensor => .boilerFault
  | .boilerDry => .boilerFault
  | .cavitySensor => .nothing
  | .humiditySensor => .nothing
  | .coreProbeShort => .nothing
  | .link => .nothing
  | .duplicateStation => .nothing
  | .retainedRecord => .nothing

/-- The effect of a kind on a program of a kind (R171). -/
def FaultKind.onProgram (k : FaultKind) : ProgramKind → ProgramEffect
  | .recipe => k.onRecipe
  | .service => k.onService

/-- A boiler fault under a SERVICE program: a forced drain in progress goes on, one starts with drain-on-stop set, and the
program ends at once otherwise (R160). -/
def State.serviceBoilerFault (s : State) : State :=
  if s.seq.stopFlag then s
  else if s.scale.drainOnStop then s.forcedDrain .fault
  else s.endAborted .fault

/-- The ACTIVE program at the moment a record becomes active (R160, R171). -/
def State.programFault (k : FaultKind) (s : State) : State :=
  match s.activeProgram with
  | none => s
  | some p =>
    match k.onProgram p.kind with
    | .nothing => s
    | .abort => s.endAborted .fault
    | .abortIfHumid => if s.stepHumid then s.endAborted .fault else s
    | .boilerFault => s.serviceBoilerFault

/-! ## A record becomes active or inactive -/

/-- What the detection of MAINS stops: gates off, the frame abandoned, the cooling fan off, a stroke cut short
(R35, R52, R77, R96). The examinations of the door at crossings end, and none is pending when they begin again (R67). -/
def State.outputsDown (s : State) : State :=
  ((s.gatesOff.endFrame).mapClimate (fun c => { c with coolingFan := false, doorPending := false })).boilerMainsLoss

/-- The boiler as the kind bars it (R96). -/
def State.barBoiler (k : FaultKind) (s : State) : State :=
  match k with
  | .cavityOverheat => s.barHeating
  | .boilerSensor => s.barFilling
  | .boilerDry => s.barFilling
  | .mains => s.outputsDown
  | .cavitySensor => s
  | .humiditySensor => s
  | .coreProbeShort => s
  | .drainTimeout => s
  | .link => s
  | .duplicateStation => s
  | .retainedRecord => s

/-- A record has become active: its loads are withdrawn (R49), the boiler barred (R96), the program acted on (R171), and
while MAINS is active the share engine acts at once (R24). -/
def State.faultBegins (k : FaultKind) (s : State) : State :=
  ((((s.withdraw k.cuts).barBoiler k).programFault k).updateCeiling).mainsApply

/-- A record has become inactive: the boiler's request is served again (R96), an owed drain starts (R94), ISOLATED is left
(R19), the flap drive is on again (R71). -/
def State.faultEnds (k : FaultKind) (s : State) : State :=
  match k with
  | .cavityOverheat => s.serve
  | .boilerSensor => s.serve
  | .boilerDry => s.serve
  | .drainTimeout => s.startTimedOutDrain
  | .link => s.leaveIsolated
  | .mains => s.driveFlap
  | .cavitySensor => s
  | .humiditySensor => s
  | .coreProbeShort => s
  | .duplicateStation => s
  | .retainedRecord => s

/-- The condition of a kind arises (R164). -/
def State.raise (k : FaultKind) (s : State) : State :=
  if s.faultActive k then s.setFault k FaultRecord.arise else (s.setFault k FaultRecord.arise).faultBegins k

/-- A record after its condition has gone or it has been cleared, with the end of its effects where it is now inactive. -/
def State.release (k : FaultKind) (f : FaultRecord → FaultRecord) (s : State) : State :=
  let t := s.setFault k f
  if s.faultActive k && !t.faultActive k then t.faultEnds k else t

/-- The condition of a kind goes (R164). -/
def State.condGone (k : FaultKind) (s : State) : State := s.release k (FaultRecord.goes k)

/-- The condition of a kind as a sample leaves it: it arises, goes, or stands (R166, R167). -/
def State.condition (k : FaultKind) (c : Option Bool) (s : State) : State :=
  match c with
  | some true => s.raise k
  | some false => s.condGone k
  | none => s

/-- CLEAR_FAULTS: every latched record becomes inactive (R173). -/
def State.clearFaults (s : State) : State :=
  FaultKind.all.foldl (fun t k => t.release k FaultRecord.cleared) s

/-- The condition of a kind returns at the instant of a CLEAR_FAULTS that has cleared its latched record; before is the state
that the request found (R164, R173). -/
def State.returnsTo (k : FaultKind) (back : Bool) (s before : State) : State :=
  if back && (before.faults.get k).active && (before.faults.get k).latched then (s.raise k).runSettle else s

/-- CLEAR_FAULTS with what follows from it, and then the conditions that return at its instant (R173, "Clear first"). DESIGN
CHOICE (log 52): which of them do is the command's operand. -/
def State.takeClear (back : Returning) (s : State) : State :=
  (s.clearFaults.runSettle.returnsTo .cavityOverheat back.cavityOverheat s).returnsTo .boilerDry back.boilerDry s

/-- A drain's time-out at the fault set: active with its condition already gone (R169). -/
def State.raiseDrainTimeout (s : State) : State := (s.raise .drainTimeout).condGone .drainTimeout

/-- A drain times out: valve closed, a drain owed, the fault raised (R93). -/
def State.drainTimeoutEvent (s : State) : State := s.drainTimesOut.raiseDrainTimeout

/-! ## Samples (R165 to R167) -/

/-- The runs after a sample (R165). -/
def SampleRun.after (valid : Bool) (r : SampleRun) : SampleRun :=
  if valid then ⟨0, satAdd 3 r.good 1⟩ else ⟨satAdd 3 r.bad 1, 0⟩

/-- The sample brings the bad run to 3 (R165). -/
def SampleRun.raises (valid : Bool) (r : SampleRun) : Bool := !valid && decide (r.bad = 2)

/-- The sample brings the good run to 3 (R165). -/
def SampleRun.ends (valid : Bool) (r : SampleRun) : Bool := valid && decide (r.good = 2)

/-- The fault kind of a sensor (R165). -/
def sensorFault : SensorKind → FaultKind
  | .cavity => .cavitySensor
  | .humidity => .humiditySensor
  | .boiler => .boilerSensor

/-- The runs of a sensor (R163). -/
def FaultSet.run (k : SensorKind) (f : FaultSet) : SampleRun :=
  match k with
  | .cavity => f.cavityRun
  | .humidity => f.humidityRun
  | .boiler => f.boilerRun

/-- The runs of a sensor replaced. -/
def FaultSet.setRun (k : SensorKind) (r : SampleRun) (f : FaultSet) : FaultSet :=
  match k with
  | .cavity => { f with cavityRun := r }
  | .humidity => { f with humidityRun := r }
  | .boiler => { f with boilerRun := r }

/-- The sample of a sensor is valid (R57, R82, R165). -/
def sensorValid (k : SensorKind) (smp : Sample) : Bool :=
  match k with
  | .cavity => validCavity smp.cavity
  | .humidity => validHumidity smp.humidity
  | .boiler => validBoiler smp.boiler

/-- The runs of a sensor kept at a sample, with its fault raised or ended (R165). -/
def State.sensorSample (k : SensorKind) (smp : Sample) (s : State) : State :=
  let r := s.faults.run k
  let t := s.mapFaults (fun f => f.setRun k (r.after (sensorValid k smp)))
  if r.raises (sensorValid k smp) then t.raise (sensorFault k)
  else if r.ends (sensorValid k smp) then t.condGone (sensorFault k)
  else t

/-- The over-temperature condition of a sample: none where it is invalid (R167). -/
def overCondition (valid : Bool) (reading limit : Int) : Option Bool :=
  if valid then some (decide (limit < reading)) else none

/-- The fault set at a sample, in the order of its table; `before` is the core probe status before the sample
(R165 to R167). -/
def State.sampleFaults (before : CoreStatus) (smp : Sample) (s : State) : State :=
  let sensed := ((s.sensorSample .cavity smp).sensorSample .humidity smp).sensorSample .boiler smp
  let probed := sensed.condition .coreProbeShort
    (if s.climate.coreStatus = before then none else some (decide (s.climate.coreStatus = .shorted)))
  (probed.condition .cavityOverheat (overCondition (validCavity smp.cavity) smp.cavity 2800)).condition .boilerDry
    (overCondition (validBoiler smp.boiler) smp.boiler 1400)

/-! ## Mains (R168, R198) -/

/-- A frame's length on the oscillator is outside 307 to 445 ms (R168). -/
def badFrameLength (ms : Nat) : Bool := decide (ms < 307) || decide (445 < ms)

/-- The 50 good cycles span 769 to 1,111 ms (R168). -/
def goodSpan (ms : Nat) : Bool := decide (769 ≤ ms) && decide (ms ≤ 1111)

/-- The frequency that 50 good cycles fix where none was fixed: 50 Hz above 909 ms (R198). -/
def freqOfSpan (ms : Nat) : Freq := if 909 < ms then .hz50 else .hz60

/-- The frequency is fixed, if none was (R198). -/
def Startup.fixFreq (f : Freq) (u : Startup) : Startup := { u with freq := some (u.freq.getD f) }

/-- The end of the MAINS condition (R168, R198). -/
def State.mainsReturns (spanMs : Nat) (s : State) : State :=
  (s.mapStartup (Startup.fixFreq (freqOfSpan spanMs))).condGone .mains

end Sys2Proof.Machine
end

