-- ==== Sys2Proof/Machine/Reports.lean ====
section
/-! DEFINITION. Immediate reports (R183): what a PROGRAM, WATER or FAULT report is handed for, and the reports of an event. -/

namespace Sys2Proof.Machine

/-- What a PROGRAM report is handed for when it changes (R183): slot states, run state, causes, step, phase, prompt, and the
refusal of a chained start. -/
structure ProgramView where
  slot0 : Nat
  slot1 : Nat
  runState : Option RunState
  door : Bool
  tank : Bool
  probe : Bool
  position : Option Position
  prompt : Option Nat
  refusal : Option AnswerCode
deriving DecidableEq, Repr

/-- The PROGRAM view of a state. -/
def State.programView (s : State) : ProgramView where
  slot0 := s.store.slot0.code
  slot1 := s.store.slot1.code
  runState := s.runState
  door := s.doorHold
  tank := s.tankHold
  probe := s.probeHold
  position := s.activeRun.map Prod.fst
  prompt := s.seq.prompt
  refusal := s.report.chainRefusal

/-- What a WATER report is handed for when it changes (R148, R154 to R156, R183): warning, lock, rinse-owed, and the count
of completed soaks. -/
structure WaterView where
  warning : Bool
  lock : Bool
  rinseOwed : Bool
  soaks : Nat
deriving DecidableEq, Repr

/-- The WATER view of a state. -/
def State.waterView (s : State) : WaterView where
  warning := s.scaleWarning
  lock := s.scaleLock
  rinseOwed := s.scale.rinseOwed
  soaks := s.scale.soakCount

/-- The eleven records, in table order: a FAULT report is handed for a change of any field of any of them (R163, R183). -/
def State.faultView (s : State) : List FaultRecord := FaultKind.all.map s.faults.get

/-- The state after an event, with one report of each kind whose state the event has changed (R183). -/
def State.reported (before after : State) : State :=
  ((after.handReportIf (decide (after.programView ≠ before.programView)) .program).handReportIf
    (decide (after.waterView ≠ before.waterView)) .water).handReportIf
    (decide (after.faultView ≠ before.faultView)) .fault

end Sys2Proof.Machine
end

