-- ==== Sys2Proof/Machine/Clock.lean ====
section
/-! DEFINITION. Samples, crossings and frame boundaries: what one mains crossing or one sample does, in a fixed order
(log 3), and when the events of the part's own counters come about (log 2). -/

namespace Sys2Proof.Machine

/-! ## Samples (R56, R82, R127, R129) -/

/-- A sample at the sensors, the fault set and then the cooling fan (R56 to R58, R77, R82, R165 to R167, log 46). -/
def State.sampleAll (smp : Sample) (s : State) : State :=
  (((((s.setInputs smp).mapClimate (Climate.sample smp)).mapSteam (Steam.sample smp.boiler)).sampleFaults
    s.climate.coreStatus smp)).coolAtSample

/-- The band of a step in °C, 5 where the record holds none (R127). -/
def StepRecord.bandOr5 (r : StepRecord) : Nat := r.band.getD 5

/-- The cavity has reached the step's band by a valid temperature in use (R127). -/
def State.bandReached (r : StepRecord) (s : State) : Bool :=
  match s.climate.lastCavity, r.setpoint with
  | some t, some sp => decide (10 * ((sp : Int) - r.bandOr5) ≤ t)
  | _, _ => false

/-- PREHEAT's test at a boundary sample (R127). -/
def State.preheatTest (s : State) : State :=
  match s.activeStep with
  | some r => if s.isRunning && s.bandReached r then s.toCount r else s
  | none => s

/-- The core probe is PRESENT at or above the step's target (R129). -/
def State.coreReached (r : StepRecord) (s : State) : Bool :=
  match s.climate.coreReading, r.coreTarget with
  | some t, some target => decide (s.climate.coreStatus = .present) && decide (10 * (target : Int) ≤ t)
  | _, _ => false

/-- The core test of a sample in the COUNT of a CORE step (R129): a probe that has come back ends PROBE and is tested from
the next sample, one that is lost converts the step or holds it, one at the target ends COUNT while RUNNING. -/
def State.coreTest (s : State) : State :=
  match s.activeStep with
  | none => s
  | some r =>
    if s.seq.workKind ≠ some .core then s
    else if s.seq.probeHold then
      if s.climate.coreStatus = .present then s.clearProbe else s
    else if s.climate.coreStatus ≠ .present then s.mapSeq (Sequencer.loseProbe r)
    else if s.isRunning && s.coreReached r then s.endCount
    else s

/-- The sequencer's tests at a sample; PREHEAT is tested at boundary samples alone (R127, R129). -/
def State.sampleTests (boundary : Bool) (s : State) : State :=
  match s.phase with
  | some .preheat => if boundary then s.preheatTest else s
  | some .count => s.coreTest
  | _ => s

/-- A sample of the internal timer while no frame runs (R56, R82). -/
def State.timerSample (smp : Sample) (s : State) : State := ((s.sampleAll smp).sampleTests false).runSettle

/-! ## Counting a crossing -/

/-- The valve is open as the drain and run-on timers count it (R92). -/
def State.valveOpen (s : State) : Bool := decide (s.steam.boiler = .draining) && s.tankPresent

/-- The steam generator's timers at a crossing (R91, R92). -/
def Steam.count (perSecond : Nat) (valve : Bool) (w : Steam) : Steam :=
  { w with
    coolWait := w.coolWait.map (CycleTimer.tick perSecond 600)
    drainTimer := if valve then w.drainTimer.map (CycleTimer.tick perSecond 110) else w.drainTimer
    runOn := if valve then w.runOn.map (CycleTimer.tick perSecond 20) else w.runOn }

/-- The second clock at a crossing (R120). -/
def Sequencer.countCycle (perSecond : Nat) (q : Sequencer) : Sequencer :=
  { q with clock := if perSecond ≤ q.clock + 1 then 0 else q.clock + 1 }

/-- Every timer counted in mains cycles, at a crossing (R39, R73, R91, R92, R120). -/
def State.countCycle (s : State) : State :=
  (((s.mapClimate (fun c => { c with ventTimer := c.ventTimer.map (CycleTimer.tick s.perSecond 20) })).mapLoad
    (fun l => { l with doorTimer := l.doorTimer.map (CycleTimer.tick s.perSecond 60) })).mapSteam
    (Steam.count s.perSecond s.valveOpen)).mapSeq (Sequencer.countCycle s.perSecond)

/-- The timers and the pump at a crossing (R88). -/
def State.countCrossing (s : State) : State := s.countCycle.strokeCrossing

/-! ## Seconds of the sequencer (R120, R125, R128, R134, R155) -/

/-- The cavity is within the step's band (R128). -/
def State.withinBand (r : StepRecord) (s : State) : Bool :=
  match s.climate.lastCavity, r.setpoint with
  | some t, some sp =>
    decide (t - 10 * (sp : Int) ≤ 10 * (r.bandOr5 : Int)) && decide (10 * (sp : Int) - t ≤ 10 * (r.bandOr5 : Int))
  | _, _ => false

/-- A second is counted in a RECIPE step's COUNT (R128). -/
def State.recipeCounts (r : StepRecord) (s : State) : Bool :=
  decide (s.phase = some .count) && s.isRunning && (decide (s.seq.workKind ≠ some .banded) || s.withinBand r)

/-- A second is counted in a SOAK step (R155). -/
def State.soakCounts (r : StepRecord) (s : State) : Bool :=
  decide (r.mode = .soak) && s.isRunning && s.steam.soakHeating && s.boilerAtLeast 550

/-- A second is counted in the active step (R128, R153, R155). -/
def State.counts (s : State) : Bool :=
  match s.activeRun, s.activeStep with
  | some (_, p), some r =>
    match p.kind with
    | .recipe => s.recipeCounts r
    | .service => s.soakCounts r
  | _, _ => false

/-- The counters at a second (R125, R128, R134). -/
def State.countSecond (s : State) : State :=
  s.mapSeq (fun q =>
    { q with
      elapsed := if s.counts then satAdd 65535 q.elapsed 1 else q.elapsed
      promptTimer := q.promptTimer.map (satAdd 3600 1)
      interruption := q.interruption.map (satAdd 1800 1) })

/-- The duration that ends the active step's COUNT: the working duration, and in a SOAK step the soak time (R128, R155). -/
def State.countDuration (s : State) : Option Nat :=
  match s.activeStep with
  | some r => if r.mode = .soak then r.duration else s.seq.workDuration
  | none => none

/-- Elapsed has reached the duration. -/
def State.durationReached (s : State) : Bool :=
  match s.countDuration with
  | some d => decide (d ≤ s.seq.elapsed)
  | none => false

/-- The soak is complete: S is 0, the soak is counted, a write requested (R155). The WATER report follows from the change; a
count that cannot change any more hands it here. -/
def State.soakDone (s : State) : State :=
  let t := (s.mapScale (fun a => { a with load := 0, soakCount := satAdd 65535 a.soakCount 1 })).requestWrite
  (t.handReportIf (decide (t.waterView = s.waterView)) .water).updateCeiling

/-- COUNT ends at a counted second (R128, R155). -/
def State.countEnds (s : State) : State :=
  match s.activeStep with
  | some r => if r.mode = .soak then s.soakDone.stepComplete else s.endCount
  | none => s

/-- The prompt timer has reached 3,600 s or the interruption timer 1,800 s (R125, R134). -/
def State.timedOut (s : State) : Bool :=
  decide (s.seq.promptTimer = some 3600) || decide (s.seq.interruption = some 1800)

/-- A second of the sequencer: all counters first, then what they have reached (R120). -/
def State.secondEvent (s : State) : State :=
  let t := s.countSecond
  if s.counts && t.durationReached then t.countEnds.runSettle
  else if t.timedOut then (t.endAborted .timeout).runSettle
  else t

/-! ## What a crossing completes -/

/-- The run-on has reached 20 s, or the drain timer 90 s with LOW wet (R92, R93). -/
def State.fireDrain (s : State) : State :=
  if s.steam.boiler = .draining then
    match s.steam.runOn with
    | some r => if 20 ≤ r.seconds then s.drainEnds else s
    | none => if s.steam.drainOverdue then s.drainTimeoutEvent else s
  else s

/-- The vent timer has reached 20 s: vent complete ends the VENT phase (R73, R131). -/
def State.fireVent (s : State) : State :=
  match s.climate.ventTimer with
  | some v => if 20 ≤ v.seconds ∧ s.phase = some .vent then s.stepComplete else s
  | none => s

/-- What the timers of this crossing have reached, in a fixed order: drain, vent, second. The examination of the door ends
the crossing (R67, log 3). -/
def State.fire (second : Bool) (s : State) : State :=
  let t := (s.fireDrain.runSettle).fireVent.runSettle
  (if second then t.secondEvent else t).examineDoor

/-! ## The crossing (R34, R41, R48) -/

/-- Crossings are counted: start-up has fixed the frequency and MAINS is not active (R34, R35). -/
def State.crossingRuns (s : State) : Bool := s.inService && s.startup.freq.isSome && !s.mainsOut

/-- The next crossing begins cycle 0: the last cycle runs, or no frame does (R34). -/
def State.boundaryDue (s : State) : Bool := s.crossingRuns && (!s.load.running || decide (19 ≤ s.load.cycle))

/-- The next crossing is a second (R120). -/
def State.secondDue (s : State) : Bool := s.crossingRuns && decide (s.perSecond ≤ s.seq.clock + 1)

/-- The work of a frame boundary after the ended frame: sample and tests, the share engine, the regulators, the boiler's
transition, allocation, and the gates of cycle 0 (R23, R41, R56, R86). -/
def State.boundaryWork (smp : Sample) (s : State) : State :=
  let a := ((s.sampleAll smp).sampleTests true).runSettle
  let b := (a.shareBoundary.regulate.boilerBoundary).runSettle
  (b.beginFrame (b.frameDemands b.statedDemand)).switchGates

/-- The frame ends, and its length is tested (R52, R168). -/
def State.closeFrame (frameMs : Nat) (s : State) : State :=
  if s.load.running && badFrameLength frameMs then s.endFrame.raise .mains else s.endFrame

/-- A crossing that is a frame boundary (R41). DESIGN CHOICE (log 41): a MAINS fault from the ended frame's length leaves
no frame to begin, and the crossing takes no sample then, counts for no timer and examines no door. -/
def State.boundaryCrossing (smp : Sample) (frameMs : Nat) (s : State) : State :=
  let t := s.advanceLfsr.closeFrame frameMs
  if t.mainsOut then t.runSettle else (t.countCrossing.boundaryWork smp).fire s.secondDue

/-- A crossing within a frame (R48). -/
def State.cycleCrossing (s : State) : State :=
  (((s.advanceLfsr.mapLoad (fun l => { l with cycle := l.cycle + 1 })).switchGates).countCrossing).fire s.secondDue

/-- A frame length within the limits of R168, for a boundary that comes without one (log 9). -/
def nominalFrameMs : Nat := 400

/-- A full-cycle zero crossing, by what start-up and MAINS let it do (R31, R32, R34, R168, R198). -/
def State.crossing (s : State) : State :=
  match s.startup.stage with
  | .configFault => s
  | .measuring => s.mapStartup (fun u => { u with crossings := u.crossings + 1 })
  | .service =>
    if s.boundaryDue then s.boundaryCrossing s.inputs nominalFrameMs
    else if s.crossingRuns then s.cycleCrossing
    else s.advanceLfsr

/-- The internal timer samples: no frame runs, and start-up is past strap sampling (R56, R82, R197). -/
def State.timerSamples (s : State) : Bool := decide (s.startup.stage ≠ .configFault) && !s.load.running

/-- The next sample, wherever it falls: of the timer while no frame runs, of the boundary that is due otherwise. -/
def State.nextSample (smp : Sample) (s : State) : State :=
  if s.timerSamples then s.timerSample smp
  else if s.boundaryDue then s.boundaryCrossing smp nominalFrameMs
  else s

/-! ## When the events of the part's own counters come about (log 2) -/

/-- A timer reaches n seconds at the next crossing. -/
def State.timerReaches (n : Nat) (t : Option CycleTimer) (s : State) : Bool :=
  s.crossingRuns && (match t with
    | some c => c.reachesNext s.perSecond n
    | none => false)

/-- The next crossing's second brings elapsed to the duration (R128, R155). -/
def State.countEndDue (s : State) : Bool := s.secondDue && s.counts && s.countSecond.durationReached

/-- The pump stroke ends at the next crossing (R88). -/
def State.strokeEndDue (s : State) : Bool :=
  s.crossingRuns && decide (s.steam.boiler = .filling) && !s.suspended && decide (s.steam.stroke = .running 24)

/-- The event of a crossing that comes about under a condition; where it does not hold there is no such event. -/
def State.crossingWhen (due : Bool) (s : State) : State := if due then s.crossing else s

end Sys2Proof.Machine
end

