-- ==== Sys2Proof/Machine/Requests.lean ====
section
/-! DEFINITION. Receiving (R192), the path of a request (R175 to R179), and the sixteen requests: program store (R100 to
R114), sequencer (R121, R135 to R141, R158), scale accounting (R146, R150 to R152), faults (R173), QUERY (R184). -/

namespace Sys2Proof.Machine

/-! ## Verdicts -/

/-- What answers a request (R178, R184). -/
inductive Reply where
  | silent
  | code (a : AnswerCode) (data : List Byte)
  | contents (k : ReportKind)
deriving DecidableEq, Repr

/-- The verdict of the block that takes a request: the state it leaves, and the reply (R177, R178). -/
structure Verdict where
  state : State
  reply : Reply
deriving DecidableEq, Repr

/-- A verdict with an answer code and no answer data. -/
def Verdict.plain (a : AnswerCode) (s : State) : Verdict := ⟨s, .code a []⟩

/-- A refusal, which changes nothing. -/
def State.refuse (s : State) (a : AnswerCode) : Verdict := .plain a s

/-! ## Program store (R100, R104 to R106, R108 to R114) -/

/-- The program of a header just taken (R100). -/
def Program.ofHeader (src count : Nat) (chain : Bool) (tag : Nat) : Program where
  kind := .recipe
  stepCount := count
  chain := chain
  tag := tag
  originator := src
  steps := List.replicate count none

/-- LOAD_HEADER (R100, R195). -/
def State.loadHeader (src : Nat) (body : List Byte) (s : State) : Verdict :=
  let count := byteAt body 1 % 16
  if (byteAt body 1).testBit 7 then s.refuse .notPermitted
  else if count < 1 ∨ 12 < count then s.refuse .badField
  else
    match s.store.lowestEmpty with
    | none => s.refuse .busy
    | some ix =>
      ⟨s.mapStore (Store.setSlot ix (.loading (.ofHeader src count ((byteAt body 1).testBit 6) (wordAt body 2)))),
        .code .ok [byteOf ix.number]⟩

/-- The slot number of a slot/index byte (R195). -/
def slotOf (b : Nat) : Nat := b / 16

/-- The step index of a slot/index byte (R195). -/
def indexOf (b : Nat) : Nat := b % 16

/-- Staging of a first half: over the entry of its source, in a free entry, or in place of the oldest (R110, R111). -/
def stage (e : Staged) (table : List Staged) : List Staged :=
  let others := table.filter (fun x => decide (x.src ≠ e.src))
  (if 2 ≤ others.length then others.drop 1 else others) ++ [e]

/-- STEP_PART_A: staged, never answered (R111). -/
def State.stepPartA (src : Nat) (body : List Byte) (s : State) : Verdict :=
  ⟨s.mapStore (fun t =>
      { t with staging := stage ⟨src, slotOf (byteAt body 1), indexOf (byteAt body 1), .ofBody body⟩ t.staging }),
    .silent⟩

/-- The checks of R104 that need the mode and end kind: fields required, zero durations, prompt codes, rank. -/
def badStepField (m : Mode) (e : EndKind) (a : HalfA) (b : HalfB) : Bool :=
  (decide (e = .banded) && decide (m = .wait))
  || (decide (m = .combi) && decide (a.humidity = 255))
  || ((decide (e = .timed) || decide (e = .banded)) && !a.durationPresent)
  || (decide (e = .core) && b.coreTarget.isNone)
  || (decide (e = .promptOnly) && b.promptOut.isNone)
  || (a.durationPresent && decide (a.duration = 0))
  || decide (240 ≤ b.promptIn.getD 0) || decide (240 ≤ b.promptOut.getD 0)
  || decide (3 < b.rank)

/-- The checks of R104 on a joined step: the refusal, or the mode and end kind it passes with. -/
def stepCheck (a : HalfA) (b : HalfB) : Except AnswerCode (Mode × EndKind) :=
  match Mode.ofCode a.modeCode with
  | none => .error .badMode
  | some m =>
    if m.service then .error .badMode
    else
      match EndKind.ofCode a.endCode with
      | none => .error .badField
      | some e => if badStepField m e a b then .error .badField else .ok (m, e)

/-- A value brought within a range, where there is one (R105). -/
def within (range : Option (Nat × Nat)) (v : Nat) : Option Nat := range.map (fun r => clampNat r.1 r.2 v)

/-- The record kept of a step that passed its checks: in range (R105), without what it cannot use (R106). -/
def keptStep (m : Mode) (e : EndKind) (a : HalfA) (b : HalfB) : StepRecord where
  mode := m
  setpoint := within m.setpointRange a.setpoint
  humidity := (absentAt 255 a.humidity).bind (within m.humidityRange)
  endKind := some e
  duration := if e = .timed ∨ e = .banded then some a.duration else none
  band := if m = .wait then none else b.band.map (clampNat 1 20)
  coreTarget := if e = .core then b.coreTarget.map (clampNat 30 99) else none
  fallback := if e = .core then b.fallback else none
  preheat := b.preheat && decide (m ≠ .wait)
  promptIn := b.promptIn
  promptOut := b.promptOut
  rank := b.rank

/-- A humidity that REHEAT carries at its fixed target, which is dropped without CLAMPED (R106). -/
def humidityExcused (m : Mode) (h : Option Nat) : Bool := decide (m = .reheat) && decide (h = some 50)

/-- A value was changed or a field dropped, so the answer is CLAMPED (R105, R106). -/
def stepChanged (m : Mode) (e : EndKind) (a : HalfA) (b : HalfB) : Bool :=
  let r := keptStep m e a b
  (decide (m ≠ .wait) && decide (r.setpoint ≠ some a.setpoint))
  || (decide (r.humidity ≠ absentAt 255 a.humidity) && !humidityExcused m (absentAt 255 a.humidity))
  || (a.durationPresent && r.duration.isNone)
  || decide (r.band ≠ b.band)
  || decide (r.coreTarget ≠ b.coreTarget)
  || decide (r.fallback ≠ b.fallback)
  || decide (r.preheat ≠ b.preheat)

/-- OK, or CLAMPED where values were changed (R104, R141, R146). -/
def okOrClamped (changed : Bool) : AnswerCode := if changed then .clamped else .ok

/-- A record stored at its index; the slot becomes READY when the set is full (R108, R110). -/
def Store.storeStep (ix : SlotIx) (p : Program) (i : Nat) (r : StepRecord) (t : Store) : Store :=
  let q := { p with steps := p.steps.set i (some r) }
  if q.complete then (t.setSlot ix (.ready q)).freeStaging ix else t.setSlot ix (.loading q)

/-- A joined step against its slot (R109), then against R104; a refused step leaves the slot as it was (R108). -/
def State.joinedStep (src : Nat) (e : Staged) (b : HalfB) (s : State) : State × AnswerCode :=
  match SlotIx.ofNumber e.slot with
  | none => (s, .badIndex)
  | some ix =>
    match s.store.slot ix with
    | .loading p =>
      if src ≠ p.originator then (s, .notOriginator)
      else if p.stepCount ≤ e.index then (s, .badIndex)
      else
        match stepCheck e.half b with
        | .error a => (s, a)
        | .ok (m, k) =>
          (s.mapStore (Store.storeStep ix p e.index (keptStep m k e.half b)), okOrClamped (stepChanged m k e.half b))
    | .empty => (s, .notLoading)
    | .ready _ => (s, .notLoading)
    | .active _ => (s, .notLoading)
    | .done _ _ => (s, .notLoading)

/-- STEP_PART_B: joined with the staged half of its source, slot and index, whose entry is freed (R112). -/
def State.stepPartB (src : Nat) (body : List Byte) (s : State) : Verdict :=
  match s.store.staging.find? (fun e => decide (e.src = src)) with
  | none => ⟨s, .code .outOfOrder (body.take 1)⟩
  | some e =>
    if e.slot = slotOf (byteAt body 1) ∧ e.index = indexOf (byteAt body 1) then
      let t := s.mapStore (fun st => { st with staging := st.staging.filter (fun x => decide (x.src ≠ src)) })
      let r := t.joinedStep src e (.ofBody body)
      ⟨r.1, .code r.2 (body.take 1)⟩
    else ⟨s, .code .outOfOrder (body.take 1)⟩

/-- CLEAR of a slot (R114). -/
def State.clearSlot (n : Nat) (s : State) : State × AnswerCode :=
  match SlotIx.ofNumber n with
  | none => (s, .badIndex)
  | some ix =>
    match s.store.slot ix with
    | .empty => (s, .ok)
    | .loading _ => (s, .notReady)
    | .ready _ => (s, .notReady)
    | .active _ => (s, .notReady)
    | .done _ _ => (s.mapStore (Store.releaseSlot ix), .ok)

/-- DISCARD of a slot (R113). -/
def State.discardSlot (src n : Nat) (s : State) : State × AnswerCode :=
  let mine (ix : SlotIx) (p : Program) : State × AnswerCode :=
    if src = p.originator then (s.mapStore (Store.emptySlot ix), .ok) else (s, .notOriginator)
  match SlotIx.ofNumber n with
  | none => (s, .badIndex)
  | some ix =>
    match s.store.slot ix with
    | .empty => (s, .ok)
    | .active _ => (s, .busy)
    | .done _ _ => (s, .notPermitted)
    | .loading p => mine ix p
    | .ready p => mine ix p

/-! ## Sequencer (R121, R135 to R141, R158) -/

/-- START of a slot (R121). -/
def State.startSlot (n : Nat) (s : State) : State × AnswerCode :=
  match SlotIx.ofNumber n with
  | none => (s, .badIndex)
  | some ix =>
    match s.store.slot ix with
    | .ready p =>
      if s.hasActive then (s, .busy)
      else
        match s.startRefusal p with
        | some a => (s, a)
        | none => ((s.startProgram ix p).runSettle, .ok)
    | .empty => (s, .notReady)
    | .loading _ => (s, .notReady)
    | .active _ => (s, .notReady)
    | .done _ _ => (s, .notReady)

/-- The program enters PAUSED: its loads withdrawn, the boiler suspended (R49, R96, R135). -/
def State.enterPause (s : State) : State :=
  (((s.mapSeq (fun q => { q with pauseFlag := true })).withdrawAll).suspendBoiler).runSettle

/-- PAUSE (R135). -/
def State.pause (s : State) : State × AnswerCode :=
  match s.runState with
  | none => (s, .noProgram)
  | some .stopping => (s, .notPermitted)
  | some .paused => (s, .ok)
  | some .running => (s.enterPause, .ok)
  | some .held => (s.enterPause, .ok)

/-- The pause flag is cleared (R96, R136). -/
def State.leavePause (s : State) : State :=
  ((s.mapSeq (fun q => { q with pauseFlag := false })).resumeBoiler).runSettle

/-- CONTINUE (R136). -/
def State.continue_ (s : State) : State × AnswerCode :=
  match s.runState with
  | none => (s, .noProgram)
  | some .paused => (s.leavePause, .ok)
  | some .running => (s, .ok)
  | some .held => (s, .ok)
  | some .stopping => (s, .ok)

/-- A STOP of a SERVICE program (R158). -/
def State.stopService (s : State) : State :=
  if s.seq.stopFlag then s
  else if s.scale.drainOnStop then (s.forcedDrain .stopped).runSettle
  else (s.endAborted .stopped).runSettle

/-- A STOP of a RECIPE program (R138). -/
def State.stopRecipe (s : State) : State :=
  if s.seq.stopFlag then s
  else if s.stepHumid then s.stopHumid.runSettle
  else (s.endAborted .stopped).runSettle

/-- STOP (R138, R158). -/
def State.stop (s : State) : State × AnswerCode :=
  match s.activeProgram with
  | none => (s, .noProgram)
  | some p =>
    match p.kind with
    | .service => (s.stopService, .ok)
    | .recipe => (s.stopRecipe, .ok)

/-- SKIP (R139). -/
def State.skip (src : Nat) (s : State) : State × AnswerCode :=
  match s.activeProgram with
  | none => (s, .noProgram)
  | some p =>
    if p.kind = .service then (s, .notPermitted)
    else if src ≠ p.originator then (s, .notOriginator)
    else if s.seq.stopFlag ∨ s.phase = some .vent then (s, .notPermitted)
    else (s.skipStep.runSettle, .ok)

/-- CONFIRM of a code (R137). -/
def State.confirm (code : Nat) (s : State) : State × AnswerCode :=
  if s.hasActive && !s.seq.stopFlag && decide (s.seq.prompt = some code) then (s.completePrompt.runSettle, .ok)
  else (s, .stalePrompt)

/-- The fields of an ADJUST that its step cannot take (R140, rows 5 to 9). -/
def State.badAdjust (r : StepRecord) (a : Adjustment) (s : State) : Bool :=
  (a.setpoint.isNone && a.humidity.isNone && a.remaining.isNone && a.coreTarget.isNone)
  || (a.setpoint.isSome && decide (r.mode = .wait))
  || (a.humidity.isSome && !(decide (r.mode = .combi) || decide (r.mode = .proof)))
  || (a.remaining.isSome && !(decide (s.seq.workKind = some .timed) || decide (s.seq.workKind = some .banded)))
  || decide (a.remaining = some 0)
  || (a.coreTarget.isSome && decide (s.seq.workKind ≠ some .core))

/-- The working duration and elapsed after a remaining time V (R141). -/
def remainingTime (v elapsed : Nat) : Nat × Nat :=
  if elapsed + v ≤ 65535 then (elapsed + v, elapsed) else (65535, 65535 - v)

/-- The record of the active step after an ADJUST (R141). -/
def adjusted (a : Adjustment) (q : Sequencer) (r : StepRecord) : StepRecord :=
  { r with
    setpoint := match a.setpoint with
      | some v => within r.mode.setpointRange v
      | none => r.setpoint
    humidity := match a.humidity with
      | some v => within r.mode.humidityRange v
      | none => r.humidity
    coreTarget := match a.coreTarget with
      | some v => some (clampNat 30 99 v)
      | none => r.coreTarget
    duration := match a.remaining with
      | some v => if q.workKind = r.endKind then some (remainingTime v q.elapsed).1 else r.duration
      | none => r.duration }

/-- The sequencer's working copy after an ADJUST (R141). -/
def Sequencer.adjust (a : Adjustment) (q : Sequencer) : Sequencer :=
  match a.remaining with
  | some v => { q with workDuration := some (remainingTime v q.elapsed).1, elapsed := (remainingTime v q.elapsed).2 }
  | none => q

/-- A value of the ADJUST was clamped (R141). -/
def adjustChanged (a : Adjustment) (after : StepRecord) : Bool :=
  (a.setpoint.isSome && decide (after.setpoint ≠ a.setpoint))
  || (a.humidity.isSome && decide (after.humidity ≠ a.humidity))
  || (a.coreTarget.isSome && decide (after.coreTarget ≠ a.coreTarget))

/-- An ADJUST applied: step record, working copy and climate record together (R141, R54). -/
def State.applyAdjust (at_ : Position) (p : Program) (r : StepRecord) (a : Adjustment) (s : State) : State × AnswerCode :=
  let after := adjusted a s.seq r
  let t := s.mapStore (Store.setSlot at_.slot (.active { p with steps := p.steps.set at_.step (some after) }))
  ((t.mapSeq (Sequencer.adjust a)).mapClimate (fun c =>
      { c with setpoint := after.setpoint, humidityTarget := after.target }),
    okOrClamped (adjustChanged a after))

/-- ADJUST (R140, R141). -/
def State.adjust (src : Nat) (a : Adjustment) (s : State) : State × AnswerCode :=
  match s.activeRun, s.activeStep with
  | some (at_, p), some r =>
    if p.kind = .service then (s, .notPermitted)
    else if src ≠ p.originator then (s, .notOriginator)
    else if s.seq.stopFlag then (s, .notPermitted)
    else if s.badAdjust r a then (s, .badField)
    else s.applyAdjust at_ p r a
  | _, _ => (s, .noProgram)

/-! ## Scale accounting (R146, R150 to R152) -/

/-- SET_HARDNESS (R146, R149). -/
def State.setHardness (v : Nat) (s : State) : State × AnswerCode :=
  if s.serviceActive then (s, .busy)
  else
    let t := s.mapScale (fun a => { a with hardness := min 30 v })
    (if t.scale.hardness = s.scale.hardness then t else t.requestWrite, okOrClamped (decide (30 < v)))

/-- A generated step: its mode, rank 3, and the fields given (R151). -/
def serviceStep (m : Mode) (prompt : Option Nat) (duration : Option Nat) : StepRecord where
  mode := m
  setpoint := none
  humidity := none
  endKind := if prompt.isSome then some .promptOnly else none
  duration := duration
  band := none
  coreTarget := none
  fallback := none
  preheat := false
  promptIn := none
  promptOut := prompt
  rank := 3

/-- The soak minutes of a scale load: 10 + 10 × ceil(S / 300,000), at most 40 (R151). -/
def soakMinutes (load : Nat) : Nat := min 40 (10 + 10 * ((load + 299999) / 300000))

/-- The four steps of the rinse-only program, and the last four of the descale program (R151, R152). -/
def rinseSteps : List StepRecord :=
  [serviceStep .drain none none, serviceStep .wait (some 241) none, serviceStep .rinse none none,
    serviceStep .wait (some 242) none]

/-- The eight steps of the descale program (R151). -/
def descaleSteps (load : Nat) : List StepRecord :=
  [serviceStep .drain none none, serviceStep .wait (some 240) none, serviceStep .fill none none,
    serviceStep .soak none (some (60 * soakMinutes load))] ++ rinseSteps

/-- The program a START_DESCALE generates (R150 to R152). -/
def generated (station : Nat) (a : Scale) : Program :=
  let steps := if a.rinseOwed then rinseSteps else descaleSteps a.load
  { kind := .service, stepCount := steps.length, chain := false, tag := 0, originator := station,
    steps := steps.map some }

/-- A fault that refuses START_DESCALE is active (R150, R172). -/
def State.descaleBlocked (s : State) : Bool :=
  s.faultActive .mains || s.faultActive .cavityOverheat || s.humidBlocked

/-- START_DESCALE (R150). -/
def State.startDescale (s : State) : Verdict :=
  if s.hasActive then s.refuse .busy
  else
    match s.store.lowestEmpty with
    | none => s.refuse .busy
    | some ix =>
      if s.descaleBlocked then s.refuse .faultBlock
      else
        ⟨((s.mapScale (fun a => { a with drainOnStop := false })).startProgram ix (generated s.station s.scale)).runSettle,
          .code .ok [byteOf ix.number]⟩

/-! ## The path of a request (R175 to R179) -/

/-- The request codes that R175 to R179 name (R195). -/
def codeStepPartA : Nat := 2
/-- The code of STOP (R195). -/
def codeStop : Nat := 7
/-- The code of CLEAR_FAULTS (R195). -/
def codeClearFaults : Nat := 15

/-- The answer data that does not depend on the outcome: what the request carried for START, CLEAR, DISCARD, CONFIRM and
STEP_PART_B, the active kinds for CLEAR_FAULTS (R178). -/
def State.standingData (s : State) (code : Nat) (body : List Byte) : List Byte :=
  if code = 3 ∨ code = 4 ∨ code = 10 ∨ code = 11 ∨ code = 12 then body.take 1
  else if code = codeClearFaults then activeFaultBytes s.faults
  else []

/-- A verdict from a state and an answer code, with the standing data of the state it leaves. -/
def verdictOf (code : Nat) (body : List Byte) (r : State × AnswerCode) : Verdict :=
  ⟨r.1, .code r.2 (r.1.standingData code body)⟩

/-- The owning block takes a request that has passed the checks of R176 and R177 (the catalogue of R177). A CLEAR_FAULTS is
taken with the conditions that return at its instant (R173); no other request has any. -/
def State.takeRequest (src code : Nat) (body : List Byte) (s : State) (back : Returning := .nothing) : Verdict :=
  match code with
  | 1 => s.loadHeader src body
  | 2 => s.stepPartA src body
  | 3 => s.stepPartB src body
  | 4 => verdictOf code body (s.startSlot (byteAt body 1))
  | 5 => verdictOf code body s.pause
  | 6 => verdictOf code body s.continue_
  | 7 => verdictOf code body s.stop
  | 8 => verdictOf code body (s.skip src)
  | 9 => verdictOf code body (s.adjust src (.ofBody body))
  | 10 => verdictOf code body (s.confirm (byteAt body 1))
  | 11 => verdictOf code body (s.clearSlot (byteAt body 1))
  | 12 => verdictOf code body (s.discardSlot src (byteAt body 1))
  | 13 => verdictOf code body (s.setHardness (byteAt body 1))
  | 14 => s.startDescale
  | 15 => verdictOf code body (s.takeClear back, .ok)
  | 16 =>
    match ReportKind.ofCode (byteAt body 1) with
    | some k => ⟨s, .contents k⟩
    | none => s.refuse .badField
  | _ => s.refuse .badField

/-- The source check: a counted peer of kind PANEL or MODULE (R176). -/
def State.sourceRefusal (src : Nat) (s : State) : Option AnswerCode :=
  match s.countedPeers.find? (fun p => decide (p.station = src)) with
  | none => some .unknownSource
  | some p => if p.kind = .panel ∨ p.kind = .module then none else some .notPermitted

/-- The checks of R176 and R177, the code and the length of the layout (R195) among them. -/
def State.requestRefusal (src code : Nat) (body : List Byte) (s : State) : Option AnswerCode :=
  match s.sourceRefusal src with
  | some a => some a
  | none => if requestLength code = some (body.length + 1) then none else some .badField

/-- A request judged: refused by the unit, where STEP_PART_A is dropped without an answer, or taken (R176, R177). -/
def State.judge (src code : Nat) (body : List Byte) (s : State) (back : Returning := .nothing) : Verdict :=
  match s.requestRefusal src code body with
  | some a => if code = codeStepPartA then ⟨s, .silent⟩ else ⟨s, .code a (s.standingData code body)⟩
  | none => s.takeRequest src code body back

/-- The reply goes to the transmit queue, addressed to the source (R178, R184). -/
def Verdict.reply_ (src : Nat) (code : Byte) (v : Verdict) : State :=
  match v.reply with
  | .silent => v.state
  | .code a data => v.state.answer src code a data
  | .contents k => v.state.answerQuery src k

/-- A REQUEST addressed to the part (R175, R176): QUIET is left first; a request without a payload is dropped, and under
DUPLICATE_STATION every request but STOP. -/
def State.arrive (src : Nat) (payload : List Byte) (s : State) (back : Returning := .nothing) : State :=
  let t := s.leaveQuiet
  match payload with
  | [] => t
  | code :: body =>
    if t.faultActive .duplicateStation && decide (code.toNat ≠ codeStop) then t
    else (t.judge src code.toNat body back).reply_ src code

/-! ## Receiving (R192) -/

/-- An ANNOUNCE accepted by the bus link: of 6 bytes, and one the share engine uses, or ignored (R10, R192). -/
def State.hearAnnounce (f : RxFrame) (s : State) : State :=
  if f.payload.length = 6 ∧ s.usesAnnouncement f.src (.ofPayload f.payload) = true then
    s.recordPeer (.ofPayload f.payload)
  else s

/-- A frame accepted by its destination goes to its taker by class and kind; an unknown kind is ignored (R175, R192). -/
def State.takeFrame (f : RxFrame) (s : State) (back : Returning := .nothing) : State :=
  if f.cls = 0 ∧ f.kind = 0 then s.hearAnnounce f
  else if f.cls = 1 ∧ f.kind = 0 ∧ f.dst = s.station then s.arrive f.src f.payload back
  else s

/-- The end of a frame: the link is IDLE and the LFSR advances (R31, R189, R192). -/
def State.frameEnds (s : State) : State := (s.mapBus (fun b => { b with link := .idle, awaitGap := false })).advanceLfsr

/-- A frame received with a good check (R192). Its own source is the duplicate-station condition. -/
def State.receiveGood (f : RxFrame) (s : State) (back : Returning := .nothing) : State :=
  let t := s.frameEnds
  if f.src = t.station then (t.raise .duplicateStation).runSettle
  else if f.dst = t.station ∨ f.dst = 0 then t.takeFrame f back
  else t

/-- The link takes a frame: start-up has reached LISTEN, no own frame is on the line, and no quiet gap is awaited after a
BROKEN outcome or an abandoned frame (R189, R193). -/
def State.receives (s : State) : Bool := s.inService && decide (s.bus.link ≠ .sending) && !s.bus.awaitGap

/-- A frame of another station or of the own source, with the reports its effects call for (R183, R192). -/
def State.receive (f : RxFrame) (s : State) (back : Returning := .nothing) : State :=
  if s.receives then s.reported (s.receiveGood f back) else s

/-- A REQUEST frame from a station to the part (R187, R195). -/
def State.requestFrame (src : Nat) (code : Byte) (body : List Byte) (s : State) : RxFrame :=
  { cls := 1, kind := 0, src := src, dst := s.station, payload := code :: body }

end Sys2Proof.Machine
end

