-- ==== Sys2Proof/Machine/StartupEvents.lean ====
section
/-! DEFINITION. The commands of start-up: RESET, MAINS_MEASUREMENT_END, INPUT_STATE_ESTABLISHED (R197 to R201). -/

namespace Sys2Proof.Machine

/-- What a step answers. No command of the part stops it. -/
abbrev StepOutcome : Type := Host.Outcome State Fault Refusal

/-- A command with its effect and the reports the effect calls for (R183). -/
def State.report_ (before after : State) : StepOutcome := .next (before.reported after)

/-- RESET: every block at its reset values, the straps sampled (R197, R201). The retained record is kept, as an interrupted
write leaves it (R200, log 6). -/
def execReset (station : Fin 32) (limitClass : Fin 8) (variant : Fin 4) (cut : InterruptedWrite) (s : State) : StepOutcome :=
  .next (.afterReset station limitClass variant (s.retained.afterReset cut) s.pending s.inputs s.freeIndex)

/-! ## Establishing inputs (R67, R80, R81, R98) -/

/-- The door state established; no event (R67). -/
def State.establishDoor (d : Door) (s : State) : State :=
  match s.climate.door with
  | none => s.mapClimate (fun c => { c with door := some d })
  | some _ => s

/-- The raw switch has read the level that establishes the door state (R67). -/
def State.pinEstablished (i : EstablishedInput) (s : State) : State :=
  match i, s.climate.door with
  | .door d, none => s.doorPin d
  | _, _ => s

/-- The LOW probe established; no event. WET finds the boiler STANDING with its drain owed, DRY finds it EMPTY (R98). -/
def Steam.establishLow (p : Probe) (w : Steam) : Steam :=
  match w.low with
  | none =>
    match p with
    | .wet => { w with low := some .wet, boiler := .standing, owed := some .startUp }
    | .dry => { w with low := some .dry, boiler := .empty, owed := none }
  | some _ => w

/-- The HIGH probe established; no event (R80). -/
def Steam.establishHigh (p : Probe) (w : Steam) : Steam :=
  match w.high with
  | none => { w with high := some p }
  | some _ => w

/-- The tank established; no event (R81). -/
def Steam.establishTank (t : Tank) (w : Steam) : Steam :=
  match w.tank with
  | none => { w with tank := some t }
  | some _ => w

/-- An input's state established; one that is established already stays (R198). -/
def State.establish (i : EstablishedInput) (s : State) : State :=
  match i with
  | .door d => s.establishDoor d
  | .lowProbe p => s.mapSteam (Steam.establishLow p)
  | .highProbe p => s.mapSteam (Steam.establishHigh p)
  | .tank t => s.mapSteam (Steam.establishTank t)

/-- INPUT_STATE_ESTABLISHED, during the mains measurement (R198). -/
def execInputStateEstablished (i : EstablishedInput) (s : State) : StepOutcome :=
  .next (if s.startup.stage = .measuring then (s.pinEstablished i).establish i else s)

/-! ## The end of the mains measurement (R198, R199, R201) -/

/-- The inputs not established when the window ends: door OPEN, probes WET, tank ABSENT (R198). -/
def State.establishRest (s : State) : State :=
  (((s.establish (.door .opened)).establish (.lowProbe .wet)).establish (.highProbe .wet)).establish (.tank .absent)

/-- The frequency that the crossings of the window fix (R198). -/
def measuredFreq (crossings : Nat) (gap : Bool) : Option Freq :=
  if gap then none
  else if 45 ≤ crossings ∧ crossings ≤ 54 then some .hz50
  else if 55 ≤ crossings ∧ crossings ≤ 65 then some .hz60
  else none

/-- The contents a record load hands scale accounting, and whether the record was corrupt (R199). -/
def StoredRecord.load : StoredRecord → Contents × Bool
  | .blank => (⟨15, 0, false, 0⟩, false)
  | .written c check => if c.check = check ∧ c.inRange = true then (c, false) else (⟨15, 600000, true, 0⟩, true)

/-- Scale accounting takes its contents (R162, R199). -/
def Scale.take (c : Contents) (a : Scale) : Scale :=
  { a with hardness := c.hardness, load := c.load, rinseOwed := c.rinseOwed, soakCount := c.soakCount }

/-- The record load (R199). -/
def State.loadRecord (s : State) : State :=
  let r := s.retained.stored.load
  let t := s.mapScale (Scale.take r.1)
  if r.2 then t.raise .retainedRecord else t

/-- The frequency fixed, or MAINS set (R198). -/
def State.measure (gap : Bool) (s : State) : State :=
  let f := measuredFreq s.startup.crossings gap
  let t := s.mapStartup (fun u => { u with freq := f })
  if f.isNone then t.raise .mains else t

/-- The stages from the climate regulator on: the flap drive, LISTEN with the bus link, the reports and the requests, and the
start-up drain (R201). -/
def State.enterService (s : State) : State :=
  ((((s.mapStartup (fun u => { u with stage := .service })).driveFlap).mapReport
    (fun u => { u with rotating := true })).startStandingDrain).runSettle

/-- The records that start-up sets are changes of the fault set, and call one FAULT report, handed as the step reaches
LISTEN (R163, R183). The contents loaded into scale accounting cross no level and call no WATER report (R162, R183). -/
def State.reportMeasured (before after : State) : State :=
  after.handReportIf (decide (after.faultView ≠ before.faultView)) .fault

/-- MAINS_MEASUREMENT_END (R163, R198, R199, R201). -/
def execMainsMeasurementEnd (gap : Bool) (s : State) : StepOutcome :=
  .next
    (if s.startup.stage = .measuring then
      s.reportMeasured (((s.establishRest).measure gap).loadRecord).enterService
    else s)

end Sys2Proof.Machine
end

