-- ==== Sys2Proof/Machine/ShareEvents.lean ====
section
/-! DEFINITION. The commands of the share engine: ANNOUNCE_TICK, and the ticks at which an entry is removed, TABLE_FULL clears, LISTEN ends or QUIET is entered (R11, R12, R21, R25). -/

namespace Sys2Proof.Machine

/-- The own announce tick with its reports; none runs before LISTEN (R25, R32). -/
def State.tickEvent (s : State) : State := if s.inService then s.reported s.shareTick else s

/-- ANNOUNCE_TICK (R25). -/
def execAnnounceTick (s : State) : StepOutcome := .next s.tickEvent

/-- PEER_ENTRY_REMOVED: the tick that removes this station's entry (R11, R102, log 2). -/
def execPeerEntryRemoved (station : Nat) (s : State) : StepOutcome :=
  .next (if (removedStations s.share.peers).contains station then s.tickEvent else s)

/-- TABLE_FULL_CLEARED: the tick that clears TABLE_FULL (R11, log 2). -/
def execTableFullCleared (s : State) : StepOutcome :=
  .next (if s.share.tableFull && !s.tickEvent.share.tableFull then s.tickEvent else s)

/-- LISTEN_END: the tick that brings the listen count to 3 (R12, log 2). -/
def execListenEnd (s : State) : StepOutcome :=
  .next (if s.share.state = .listen ∧ s.share.listenCount = 2 then s.tickEvent else s)

/-- QUIET_ENTRY: the tick that brings the quiet count to 120 (R21, log 2). -/
def execQuietEntry (s : State) : StepOutcome :=
  .next (if s.share.state ≠ .quiet ∧ s.tickEvent.share.state = .quiet then s.tickEvent else s)

end Sys2Proof.Machine
end

