-- ==== Sys2Proof/Machine/MainsEvents.lean ====
section
/-! DEFINITION. The commands of mains and clocks: crossings and boundaries (R41, R48), samples (R56, R165), the events of seconds and timers (R39, R73, R88, R91 to R93, R120, R125, R128, R134, R155), loss and return of mains (R168). -/

namespace Sys2Proof.Machine

/-- ZERO_CROSSING (R31, R48, R88, R120); one that begins cycle 0 is a frame boundary (R34, log 9). -/
def execZeroCrossing (s : State) : StepOutcome := s.report_ s.crossing

/-- FRAME_BOUNDARY: the crossing that begins cycle 0, with the sample and the ended frame's length (R41). -/
def execFrameBoundary (smp : Sample) (frameMs : Nat) (s : State) : StepOutcome :=
  s.report_ (if s.boundaryDue then s.boundaryCrossing smp frameMs else s)

/-- SAMPLE_TICK, while no frame runs (R56, R82). While one runs no sample is taken, and the pins have the levels given
(log 7). -/
def execSampleTick (smp : Sample) (s : State) : StepOutcome :=
  s.report_
    (if s.timerSamples then s.timerSample smp
    else if s.startup.stage = .configFault then s
    else s.setInputs smp)

/-- SENSOR_FAULT_RAISED: the sample that brings the sensor's bad run to 3 (R165, log 2). -/
def execSensorFaultRaised (k : SensorKind) (smp : Sample) (s : State) : StepOutcome :=
  s.report_
    (if (s.faults.run k).raises (sensorValid k smp) && !s.faultActive (sensorFault k) then s.nextSample smp else s)

/-- SENSOR_FAULT_ENDED: the sample that brings the sensor's good run to 3 (R165, log 2). -/
def execSensorFaultEnded (k : SensorKind) (smp : Sample) (s : State) : StepOutcome :=
  s.report_
    (if (s.faults.run k).ends (sensorValid k smp) && s.faultActive (sensorFault k) then s.nextSample smp else s)

/-- SECOND: the crossing that completes a second of the sequencer (R120, log 2). -/
def execSecond (s : State) : StepOutcome := s.report_ (s.crossingWhen s.secondDue)

/-- STEP_COUNT_END: the crossing whose second brings a TIMED or BANDED step to its duration (R128, log 2). -/
def execStepCountEnd (s : State) : StepOutcome := s.report_ (s.crossingWhen (s.countEndDue && !s.serviceActive))

/-- SOAK_COMPLETE: the crossing whose second brings the soak to its duration (R155, log 2). -/
def execSoakComplete (s : State) : StepOutcome := s.report_ (s.crossingWhen (s.countEndDue && s.serviceActive))

/-- PROMPT_TIMEOUT: the crossing whose second brings the prompt timer to 3,600 s (R125, log 2). -/
def execPromptTimeout (s : State) : StepOutcome :=
  s.report_ (s.crossingWhen (s.secondDue && decide (s.seq.promptTimer = some 3599)))

/-- INTERRUPTION_TIMEOUT: the crossing whose second brings the interruption timer to 1,800 s (R134, log 2). -/
def execInterruptionTimeout (s : State) : StepOutcome :=
  s.report_ (s.crossingWhen (s.secondDue && decide (s.seq.interruption = some 1799)))

/-- DOOR_OPEN_MINUTE: the crossing that brings the door-open seconds to 60 (R39, log 2). -/
def execDoorOpenMinute (s : State) : StepOutcome := s.report_ (s.crossingWhen (s.timerReaches 60 s.load.doorTimer))

/-- VENT_COMPLETE: the crossing that brings the vent timer to 20 s (R73, log 2). -/
def execVentComplete (s : State) : StepOutcome := s.report_ (s.crossingWhen (s.timerReaches 20 s.climate.ventTimer))

/-- STROKE_END: the crossing that ends the pump stroke in progress (R88, R89, log 2). -/
def execStrokeEnd (s : State) : StepOutcome := s.report_ (s.crossingWhen s.strokeEndDue)

/-- COOL_WAIT_EXPIRED: the crossing that brings the cool-wait timer to 600 s with no valid boiler temperature in use
(R91, log 2). -/
def execCoolWaitExpired (s : State) : StepOutcome :=
  s.report_ (s.crossingWhen (s.timerReaches 600 s.steam.coolWait && s.boilerInUse.isNone))

/-- DRAIN_COMPLETE: the crossing that brings the run-on timer to 20 s (R92, log 2). -/
def execDrainComplete (s : State) : StepOutcome :=
  s.report_ (s.crossingWhen (s.valveOpen && s.timerReaches 20 s.steam.runOn))

/-- DRAIN_TIMEOUT: the crossing that brings the drain timer to 90 s with LOW wet (R93, log 2). -/
def execDrainTimeout (s : State) : StepOutcome :=
  s.report_ (s.crossingWhen (s.valveOpen && s.steam.runOn.isNone && s.timerReaches 90 s.steam.drainTimer))

/-- DRAIN_VALVE_OPENS: the sample at which a started drain's conditions come to hold (R91, log 2). -/
def execDrainValveOpens (smp : Sample) (s : State) : StepOutcome :=
  s.report_
    (if s.steam.drainStarted && decide ((s.nextSample smp).steam.boiler = .draining) then s.nextSample smp else s)

/-- MAINS_LOSS: 100 ms without a crossing (R35, R168). -/
def execMainsLoss (s : State) : StepOutcome :=
  s.report_ (if s.inService && !s.mainsOut then (s.raise .mains).runSettle else s)

/-- MAINS_RESTORED: 50 good cycles within their span (R35, R168, R198). -/
def execMainsRestored (spanMs : Nat) (s : State) : StepOutcome :=
  s.report_ (if s.inService && s.mainsOut && goodSpan spanMs then (s.mainsReturns spanMs).runSettle else s)

end Sys2Proof.Machine
end

