-- ==== Sys2Proof/Machine/OvenEvents.lean ====
section
/-! DEFINITION. The commands of the door (R67 to R69), the level probes (R80) and the tank (R81). -/

namespace Sys2Proof.Machine

/-- DOOR_OPEN: the second examination that finds an established door open (R67, R68, log 7). -/
def execDoorOpen (s : State) : StepOutcome :=
  s.report_ (if s.climate.door = some .closed then (s.doorPin .opened).doorOpens else s)

/-- DOOR_CLOSE: the second examination that finds an established door closed (R67, R69, log 7). -/
def execDoorClose (s : State) : StepOutcome :=
  s.report_ (if s.climate.door = some .opened then (s.doorPin .closed).doorCloses else s)

/-- LOW_DRY: a change of the established LOW probe (R49, R80, R87, R92, R95). -/
def execLowDry (s : State) : StepOutcome :=
  s.report_ (if s.steam.low = some .wet then s.lowGoesDry.runSettle else s)

/-- The LOW wet event: it times out an overdue drain's run-on, and acts by the boiler state otherwise (R87, R92, R93). -/
def State.lowWetEvent (s : State) : State :=
  if s.lowWetTimesOut then (s.mapSteam (fun w => { w with low := some .wet })).drainTimeoutEvent else s.lowGoesWet

/-- LOW_WET: a change of the established LOW probe (R80, R87, R92, R93). -/
def execLowWet (s : State) : StepOutcome :=
  s.report_ (if s.steam.low = some .dry then s.lowWetEvent.runSettle else s)

/-- HIGH_WET: a change of the established HIGH probe (R80, R88, R89). -/
def execHighWet (s : State) : StepOutcome :=
  s.report_ (if s.steam.high = some .dry then s.highGoesWet.runSettle else s)

/-- HIGH_DRY: a change of the established HIGH probe (R80). -/
def execHighDry (s : State) : StepOutcome :=
  .next (if s.steam.high = some .wet then s.mapSteam (fun w => { w with high := some .dry }) else s)

/-- TANK_ARRIVES with the level read at the arrival (R81, R90 to R92). -/
def execTankArrives (level : TankLevel) (s : State) : StepOutcome :=
  s.report_ (if s.steam.tank = some .absent then (s.mapSteam (Steam.tankHere level)).runSettle else s)

/-- TANK_REMOVED (R81, R89, R92). -/
def execTankRemoved (s : State) : StepOutcome :=
  s.report_ (if s.tankPresent then (s.mapSteam Steam.tankGone).runSettle else s)

/-- TANK_LEVEL_CHANGE to another level, while PRESENT (R81, R89, R90). -/
def execTankLevelChange (level : TankLevel) (s : State) : StepOutcome :=
  s.report_
    (if s.tankPresent && decide (s.steam.tank ≠ some (.present level)) then
      (s.mapSteam (Steam.levelChanges level)).runSettle
    else s)

end Sys2Proof.Machine
end

