-- ==== Sys2Proof/Machine/BusEvents.lean ====
section
/-! DEFINITION. The commands of the bus link: the quiet gap and the outcomes of own frames (R188, R189), received frames that are no requests (R192), the rotation (R182) and the completion of a retained write (R200). -/

namespace Sys2Proof.Machine

/-- The link is in service and sends an own frame (R188). -/
def State.sends (s : State) : Bool := s.inService && decide (s.bus.link = .sending)

/-- A quiet gap completes: the link is IDLE, and the next frame of the head entry starts (R188, R189). DESIGN CHOICE
(log 26): an entry handed to an empty queue on an IDLE line starts at the next gap that the sender gives. -/
def BusLink.quietGap (b : BusLink) : BusLink :=
  match b.queue with
  | [] => { b with link := .idle, awaitGap := false }
  | e :: q => { b with link := .sending, awaitGap := false, queue := startHead (e :: q) }

/-- A quiet gap may complete: the link is IDLE, or RECEIVING until a quiet gap. None does within a frame (R188, R189). -/
def State.gapCompletes (s : State) : Bool :=
  s.inService && (decide (s.bus.link = .idle) || (decide (s.bus.link = .receiving) && s.bus.awaitGap))

/-- QUIET_GAP (R188, R189, R193). -/
def execQuietGap (s : State) : StepOutcome := .next (if s.gapCompletes then s.mapBus BusLink.quietGap else s)

/-- An own announcement was SENT: it counts in ASKING if it carries the ask and draw of the round (R5). -/
def State.countOwn (k : Option EntryKind) (s : State) : State :=
  match k with
  | some (.announce ask draw) =>
    if s.share.state = .asking ∧ ask = s.share.ask ∧ draw = s.share.draw then
      s.mapShare (fun h => { h with ownCount := satAdd 3 h.ownCount 1 })
    else s
  | some (.answer _) => s
  | some .notice => s
  | some (.report _) => s
  | none => s

/-- FRAME_SENT (R5, R169, R188, R190). -/
def execFrameSent (s : State) : StepOutcome :=
  s.report_
    (if s.sends then
      ((s.mapBus (fun b => { b with link := .idle, queue := sentOn b.queue, broken := 0 })).countOwn s.bus.sending).condGone
        .link
    else s)

/-- FRAME_LOST (R188, R189, R190). -/
def execFrameLost (s : State) : StepOutcome :=
  .next (if s.sends then s.mapBus (fun b => { b with link := .receiving, queue := lostOn b.queue }) else s)

/-- The LINK condition arises when the consecutive-broken count reaches 16 (R169, R188). -/
def State.linkCheck (s : State) : State := if s.bus.broken = 16 then s.raise .link else s

/-- FRAME_BROKEN (R169, R188, R189). -/
def execFrameBroken (s : State) : StepOutcome :=
  s.report_
    (if s.sends then
      (s.mapBus (fun b =>
        { b with
          link := .receiving, awaitGap := true, queue := brokenOn b.queue, broken := satAdd 255 b.broken 1 })).linkCheck
    else s)

/-- An ANNOUNCE frame to all stations. -/
def announceFrame (src : Nat) (payload : List Byte) : RxFrame := ⟨0, 0, src, 0, payload⟩

/-- ANNOUNCEMENT_RECEIVED (R7 to R9, R192). -/
def execAnnouncementReceived (src : Nat) (payload : List Byte) (s : State) : StepOutcome :=
  .next (s.receive (announceFrame src payload))

/-- ANNOUNCEMENT_IGNORED (R10, R192). -/
def execAnnouncementIgnored (src : Nat) (payload : List Byte) (s : State) : StepOutcome :=
  .next (s.receive (announceFrame src payload))

/-- A dropped frame is counted, and the link becomes IDLE, or RECEIVING until a quiet gap (R189, R192). -/
def BusLink.countBad (abandoned : Bool) (b : BusLink) : BusLink :=
  { b with
    link := if abandoned then .receiving else .idle, awaitGap := abandoned, badFrames := satAdd 255 b.badFrames 1 }

/-- BAD_FRAME: the frame's end finds its check not good (R189, R192). -/
def execBadFrame (s : State) : StepOutcome := .next (if s.receives then s.mapBus (BusLink.countBad false) else s)

/-- FRAME_ABANDONED: the link waits for a quiet gap (R189, R192). -/
def execFrameAbandoned (s : State) : StepOutcome :=
  .next (if s.receives then s.mapBus (BusLink.countBad true) else s)

/-- FRAME_NOT_ACCEPTED (R192). -/
def execFrameNotAccepted (f : RxFrame) (s : State) : StepOutcome := .next (s.receive f)

/-- FRAME_DROPPED (R175, R192). -/
def execFrameDropped (f : RxFrame) (s : State) : StepOutcome := .next (s.receive f)

/-- DUPLICATE_STATION: a frame with the part's own source (R170, R192). -/
def execDuplicateStation (cls kind dst : Nat) (payload : List Byte) (s : State) : StepOutcome :=
  .next (s.receive ⟨cls, kind, s.station, dst, payload⟩)

/-- The rotation's report and its step to the next kind; in QUIET neither (R182). -/
def State.rotate (s : State) : State :=
  if s.report.rotating = false ∨ s.share.state = .quiet then s
  else (s.handReport s.report.rotation).mapReport (fun u => { u with rotation := u.rotation.next })

/-- ROTATION_REPORT (R182). -/
def execRotationReport (s : State) : StepOutcome := .next s.rotate

/-- The end of a write at the fault set: a good read-back ends RETAINED_RECORD's condition (R169, R200). -/
def State.writeEnds (readBackGood : Bool) (s : State) : State :=
  let t := s.mapRetained (Retained.complete readBackGood)
  if readBackGood && s.retained.writing.isSome then t.condGone .retainedRecord else t

/-- RETAINED_WRITE_COMPLETE (R169, R200). -/
def execRetainedWriteComplete (readBackGood : Bool) (s : State) : StepOutcome := s.report_ (s.writeEnds readBackGood)

end Sys2Proof.Machine
end

