-- ==== Sys2Proof/Machine/RequestEvents.lean ====
section
/-! DEFINITION. The sixteen requests as commands: each is the arrival of its REQUEST frame (R175 to R179, R195). -/

namespace Sys2Proof.Machine

/-- REQUEST_UNKNOWN_CODE: a request frame with any code (R177). -/
def execRequestUnknownCode (src : Nat) (code : Byte) (body : List Byte) (s : State) : StepOutcome :=
  .next (s.receive (s.requestFrame src code body))

/-- LOAD_HEADER, request code 1 (R100). -/
def execLoadHeader (src : Nat) (body : List Byte) (s : State) : StepOutcome :=
  .next (s.receive (s.requestFrame src 1#8 body))

/-- STEP_PART_A, request code 2 (R111). -/
def execStepPartA (src : Nat) (body : List Byte) (s : State) : StepOutcome :=
  .next (s.receive (s.requestFrame src 2#8 body))

/-- STEP_PART_B, request code 3 (R109, R112). -/
def execStepPartB (src : Nat) (body : List Byte) (s : State) : StepOutcome :=
  .next (s.receive (s.requestFrame src 3#8 body))

/-- START, request code 4 (R121, R122). -/
def execStart (src : Nat) (body : List Byte) (s : State) : StepOutcome :=
  .next (s.receive (s.requestFrame src 4#8 body))

/-- PAUSE, request code 5 (R135). -/
def execPause (src : Nat) (body : List Byte) (s : State) : StepOutcome :=
  .next (s.receive (s.requestFrame src 5#8 body))

/-- CONTINUE, request code 6 (R136). -/
def execContinue (src : Nat) (body : List Byte) (s : State) : StepOutcome :=
  .next (s.receive (s.requestFrame src 6#8 body))

/-- STOP, request code 7 (R138, R158, R179). -/
def execStop (src : Nat) (body : List Byte) (s : State) : StepOutcome :=
  .next (s.receive (s.requestFrame src 7#8 body))

/-- SKIP, request code 8 (R139). -/
def execSkip (src : Nat) (body : List Byte) (s : State) : StepOutcome :=
  .next (s.receive (s.requestFrame src 8#8 body))

/-- ADJUST, request code 9 (R140, R141). -/
def execAdjust (src : Nat) (body : List Byte) (s : State) : StepOutcome :=
  .next (s.receive (s.requestFrame src 9#8 body))

/-- CONFIRM, request code 10 (R137, R157). -/
def execConfirm (src : Nat) (body : List Byte) (s : State) : StepOutcome :=
  .next (s.receive (s.requestFrame src 10#8 body))

/-- CLEAR, request code 11 (R114). -/
def execClear (src : Nat) (body : List Byte) (s : State) : StepOutcome :=
  .next (s.receive (s.requestFrame src 11#8 body))

/-- DISCARD, request code 12 (R113). -/
def execDiscard (src : Nat) (body : List Byte) (s : State) : StepOutcome :=
  .next (s.receive (s.requestFrame src 12#8 body))

/-- SET_HARDNESS, request code 13 (R146). -/
def execSetHardness (src : Nat) (body : List Byte) (s : State) : StepOutcome :=
  .next (s.receive (s.requestFrame src 13#8 body))

/-- START_DESCALE, request code 14 (R150). -/
def execStartDescale (src : Nat) (body : List Byte) (s : State) : StepOutcome :=
  .next (s.receive (s.requestFrame src 14#8 body))

/-- CLEAR_FAULTS, request code 15, with the conditions that return at its instant (R173). -/
def execClearFaults (src : Nat) (body : ClearBody) (s : State) : StepOutcome :=
  .next (s.receive (s.requestFrame src 15#8 body.bytes) body.returning)

/-- QUERY, request code 16 (R184). -/
def execQuery (src : Nat) (body : List Byte) (s : State) : StepOutcome :=
  .next (s.receive (s.requestFrame src 16#8 body))

end Sys2Proof.Machine
end

