-- ==== Sys2Proof/Machine/Dispatch.lean ====
section
/-! DEFINITION. The meaning of every command: one arm for each constructor of Instr. -/

namespace Sys2Proof.Machine

/-- The effect of a command on everything but the queue of waiting commands. -/
def exec (i : Instr) (s : State) : Host.Outcome State Fault Refusal :=
  match i with
  | .reset station limitClass variant cut => Sys2Proof.Machine.execReset station limitClass variant cut s
  | .mainsMeasurementEnd gap => Sys2Proof.Machine.execMainsMeasurementEnd gap s
  | .announceTick => Sys2Proof.Machine.execAnnounceTick s
  | .peerEntryRemoved station => Sys2Proof.Machine.execPeerEntryRemoved station s
  | .tableFullCleared => Sys2Proof.Machine.execTableFullCleared s
  | .listenEnd => Sys2Proof.Machine.execListenEnd s
  | .quietEntry => Sys2Proof.Machine.execQuietEntry s
  | .zeroCrossing => Sys2Proof.Machine.execZeroCrossing s
  | .frameBoundary smp frameMs => Sys2Proof.Machine.execFrameBoundary smp frameMs s
  | .sampleTick smp => Sys2Proof.Machine.execSampleTick smp s
  | .sensorFaultRaised k smp => Sys2Proof.Machine.execSensorFaultRaised k smp s
  | .sensorFaultEnded k smp => Sys2Proof.Machine.execSensorFaultEnded k smp s
  | .second => Sys2Proof.Machine.execSecond s
  | .stepCountEnd => Sys2Proof.Machine.execStepCountEnd s
  | .promptTimeout => Sys2Proof.Machine.execPromptTimeout s
  | .interruptionTimeout => Sys2Proof.Machine.execInterruptionTimeout s
  | .soakComplete => Sys2Proof.Machine.execSoakComplete s
  | .doorOpenMinute => Sys2Proof.Machine.execDoorOpenMinute s
  | .ventComplete => Sys2Proof.Machine.execVentComplete s
  | .doorOpen => Sys2Proof.Machine.execDoorOpen s
  | .doorClose => Sys2Proof.Machine.execDoorClose s
  | .lowDry => Sys2Proof.Machine.execLowDry s
  | .lowWet => Sys2Proof.Machine.execLowWet s
  | .highWet => Sys2Proof.Machine.execHighWet s
  | .highDry => Sys2Proof.Machine.execHighDry s
  | .strokeEnd => Sys2Proof.Machine.execStrokeEnd s
  | .tankArrives level => Sys2Proof.Machine.execTankArrives level s
  | .tankRemoved => Sys2Proof.Machine.execTankRemoved s
  | .tankLevelChange level => Sys2Proof.Machine.execTankLevelChange level s
  | .drainValveOpens smp => Sys2Proof.Machine.execDrainValveOpens smp s
  | .coolWaitExpired => Sys2Proof.Machine.execCoolWaitExpired s
  | .drainComplete => Sys2Proof.Machine.execDrainComplete s
  | .drainTimeout => Sys2Proof.Machine.execDrainTimeout s
  | .mainsLoss => Sys2Proof.Machine.execMainsLoss s
  | .mainsRestored spanMs => Sys2Proof.Machine.execMainsRestored spanMs s
  | .rotationReport => Sys2Proof.Machine.execRotationReport s
  | .quietGap => Sys2Proof.Machine.execQuietGap s
  | .frameSent => Sys2Proof.Machine.execFrameSent s
  | .frameLost => Sys2Proof.Machine.execFrameLost s
  | .frameBroken => Sys2Proof.Machine.execFrameBroken s
  | .announcementReceived src payload => Sys2Proof.Machine.execAnnouncementReceived src payload s
  | .announcementIgnored src payload => Sys2Proof.Machine.execAnnouncementIgnored src payload s
  | .badFrame => Sys2Proof.Machine.execBadFrame s
  | .frameAbandoned => Sys2Proof.Machine.execFrameAbandoned s
  | .frameNotAccepted f => Sys2Proof.Machine.execFrameNotAccepted f s
  | .frameDropped f => Sys2Proof.Machine.execFrameDropped f s
  | .duplicateStation cls kind dst payload => Sys2Proof.Machine.execDuplicateStation cls kind dst payload s
  | .requestUnknownCode src code body => Sys2Proof.Machine.execRequestUnknownCode src code body s
  | .loadHeader src body => Sys2Proof.Machine.execLoadHeader src body s
  | .stepPartA src body => Sys2Proof.Machine.execStepPartA src body s
  | .stepPartB src body => Sys2Proof.Machine.execStepPartB src body s
  | .start src body => Sys2Proof.Machine.execStart src body s
  | .pause src body => Sys2Proof.Machine.execPause src body s
  | .continue_ src body => Sys2Proof.Machine.execContinue src body s
  | .stop src body => Sys2Proof.Machine.execStop src body s
  | .skip src body => Sys2Proof.Machine.execSkip src body s
  | .adjust src body => Sys2Proof.Machine.execAdjust src body s
  | .confirm src body => Sys2Proof.Machine.execConfirm src body s
  | .clear src body => Sys2Proof.Machine.execClear src body s
  | .discard src body => Sys2Proof.Machine.execDiscard src body s
  | .setHardness src body => Sys2Proof.Machine.execSetHardness src body s
  | .startDescale src body => Sys2Proof.Machine.execStartDescale src body s
  | .clearFaults src body => Sys2Proof.Machine.execClearFaults src body s
  | .query src body => Sys2Proof.Machine.execQuery src body s
  | .retainedWriteComplete readBackGood => Sys2Proof.Machine.execRetainedWriteComplete readBackGood s
  | .inputStateEstablished x => Sys2Proof.Machine.execInputStateEstablished x s

end Sys2Proof.Machine
end

