-- ==== Sys2Proof/Safety.lean ====
section
/-! DEFINITION. The vocabulary of the statements: what two states have in common (the frame of a command), and the
invariants that every step keeps. -/

namespace Sys2Proof.Machine

/-! ## Frames -/

/-- The parts of the state that a frame tells apart. -/
inductive Aspect where
  /-- Straps, stage, frequency, crossings counted (R197, R198). -/
  | startup
  /-- The LFSR (R31). -/
  | lfsr
  /-- The peer table, TABLE_FULL and the newcomer counter (R6, R9). -/
  | peers
  /-- The cool-down count (R30). -/
  | coolDown
  /-- Share state, hold, applied budget, ask, draw and the other counts (R2). -/
  | sharing
  /-- The frame in progress and the last-frame record, but for its withdrawals (R36). -/
  | frame
  /-- The withdrawals of the frame (R49). -/
  | withdrawn
  /-- The door-open seconds (R39). -/
  | doorTimer
  /-- The ceiling (R40). -/
  | ceiling
  /-- The element gates (R48). -/
  | gates
  /-- The climate record (R54). -/
  | record
  /-- The integrators and the degraded flag (R60, R64, R66). -/
  | integrators
  /-- The vent timer (R73). -/
  | ventTimer
  /-- The flap command and the driven position (R70, R71). -/
  | flap
  /-- The last demands handed (R79). -/
  | demands
  /-- The readings of the cavity sensors (R56 to R58). -/
  | readings
  /-- The door state (R67). -/
  | door
  /-- The pending examination of the door switch (R67). -/
  | doorPending
  /-- The cooling fan (R77). -/
  | coolingFan
  /-- The level probes (R80). -/
  | probes
  /-- The tank (R81). -/
  | tank
  /-- The boiler temperature (R82). -/
  | boilerReadings
  /-- The evaporation accumulator (R97). -/
  | evaporation
  /-- The millilitres evaporated (R97). -/
  | millilitres
  /-- Boiler state, request, fill, drains and their timers (R83 to R95). -/
  | boiler
  /-- The hardness (R145). -/
  | hardness
  /-- The scale load (R145). -/
  | scaleLoad
  /-- The completed-soak count (R145). -/
  | soakCount
  /-- Rinse-owed and drain-on-stop (R145). -/
  | scaleFlags
  /-- The slots and the last-outcome record (R99, R116). -/
  | slots
  /-- The staging table (R110). -/
  | staging
  /-- The second clock (R120). -/
  | clock
  /-- The sequencer but for its second clock (R118). -/
  | program
  /-- The record of one fault kind (R163). -/
  | fault (k : FaultKind)
  /-- The sample runs (R163). -/
  | runs
  /-- The link state, and whether its RECEIVING awaits a quiet gap (R189). -/
  | link
  /-- The transmit queue and the dropped-frame counter (R190, R191). -/
  | queue
  /-- The broken and bad-frame counters (R188, R192). -/
  | busCounts
  /-- The report rotation (R182). -/
  | rotation
  /-- The chain refusal (R180). -/
  | chainRefusal
  /-- The non-volatile record (R199). -/
  | stored
  /-- The write in progress and the pending write (R200). -/
  | writes
  /-- The sensor inputs (log 5). -/
  | inputs
  /-- The free-value counter (log 10). -/
  | freeIndex
  /-- The waiting commands (log 1). -/
  | pending
deriving DecidableEq, Repr

/-- An aspect is the same in two states. -/
def Same (a : Aspect) (s t : State) : Prop :=
  match a with
  | .startup => t.startup = s.startup
  | .lfsr => t.share.lfsr = s.share.lfsr
  | .peers => (t.share.peers, t.share.tableFull, t.share.newcomer) = (s.share.peers, s.share.tableFull, s.share.newcomer)
  | .coolDown => t.share.coolDown = s.share.coolDown
  | .sharing =>
    (t.share.state, t.share.hold, t.share.applied, t.share.pendingCut, t.share.ask, t.share.draw, t.share.ownCount,
        t.share.denyCount, t.share.starved, t.share.listenCount, t.share.quietCount)
      = (s.share.state, s.share.hold, s.share.applied, s.share.pendingCut, s.share.ask, s.share.draw, s.share.ownCount,
        s.share.denyCount, s.share.starved, s.share.listenCount, s.share.quietCount)
  | .frame =>
    (t.load.running, t.load.cycle, t.load.taken, t.load.alloc, t.load.plan, t.load.conducted, t.load.steamingCount,
        t.load.limited, t.load.last)
      = (s.load.running, s.load.cycle, s.load.taken, s.load.alloc, s.load.plan, s.load.conducted, s.load.steamingCount,
        s.load.limited, s.load.last)
  | .withdrawn => t.load.withdrawn = s.load.withdrawn
  | .doorTimer => t.load.doorTimer = s.load.doorTimer
  | .ceiling => t.load.ceiling = s.load.ceiling
  | .gates => t.load.gates = s.load.gates
  | .record =>
    (t.climate.mode, t.climate.setpoint, t.climate.humidityTarget, t.climate.venting)
      = (s.climate.mode, s.climate.setpoint, s.climate.humidityTarget, s.climate.venting)
  | .integrators =>
    (t.climate.tempI, t.climate.humI, t.climate.degraded) = (s.climate.tempI, s.climate.humI, s.climate.degraded)
  | .ventTimer => t.climate.ventTimer = s.climate.ventTimer
  | .flap => (t.climate.flapCommand, t.climate.flapDriven) = (s.climate.flapCommand, s.climate.flapDriven)
  | .demands =>
    (t.climate.lastDemand, t.climate.lastBoilerDemand) = (s.climate.lastDemand, s.climate.lastBoilerDemand)
  | .readings =>
    (t.climate.cavityReading, t.climate.lastCavity, t.climate.humidityReading, t.climate.lastHumidity,
        t.climate.coreStatus, t.climate.coreReading, t.climate.coreSeen)
      = (s.climate.cavityReading, s.climate.lastCavity, s.climate.humidityReading, s.climate.lastHumidity,
        s.climate.coreStatus, s.climate.coreReading, s.climate.coreSeen)
  | .door => t.climate.door = s.climate.door
  | .doorPending => t.climate.doorPending = s.climate.doorPending
  | .coolingFan => t.climate.coolingFan = s.climate.coolingFan
  | .probes => (t.steam.low, t.steam.high) = (s.steam.low, s.steam.high)
  | .tank => t.steam.tank = s.steam.tank
  | .boilerReadings => (t.steam.boilerReading, t.steam.lastBoiler) = (s.steam.boilerReading, s.steam.lastBoiler)
  | .evaporation => t.steam.evaporation = s.steam.evaporation
  | .millilitres => t.steam.millilitres = s.steam.millilitres
  | .boiler =>
    (t.steam.boiler, t.steam.soakHeating, t.steam.request, t.steam.used, t.steam.strokes, t.steam.stroke,
        t.steam.fillWait, t.steam.drainStarted, t.steam.drainServes, t.steam.owed, t.steam.coolWait,
        t.steam.drainTimer, t.steam.runOn, t.steam.rinsePass, t.steam.handed)
      = (s.steam.boiler, s.steam.soakHeating, s.steam.request, s.steam.used, s.steam.strokes, s.steam.stroke,
        s.steam.fillWait, s.steam.drainStarted, s.steam.drainServes, s.steam.owed, s.steam.coolWait,
        s.steam.drainTimer, s.steam.runOn, s.steam.rinsePass, s.steam.handed)
  | .hardness => t.scale.hardness = s.scale.hardness
  | .scaleLoad => t.scale.load = s.scale.load
  | .soakCount => t.scale.soakCount = s.scale.soakCount
  | .scaleFlags => (t.scale.rinseOwed, t.scale.drainOnStop) = (s.scale.rinseOwed, s.scale.drainOnStop)
  | .slots => (t.store.slot0, t.store.slot1, t.store.lastOutcome) = (s.store.slot0, s.store.slot1, s.store.lastOutcome)
  | .staging => t.store.staging = s.store.staging
  | .clock => t.seq.clock = s.seq.clock
  | .program =>
    (t.seq.run, t.seq.pauseFlag, t.seq.stopFlag, t.seq.forcedCause, t.seq.probeHold, t.seq.workKind,
        t.seq.workDuration, t.seq.elapsed, t.seq.prompt, t.seq.promptTimer, t.seq.interruption)
      = (s.seq.run, s.seq.pauseFlag, s.seq.stopFlag, s.seq.forcedCause, s.seq.probeHold, s.seq.workKind,
        s.seq.workDuration, s.seq.elapsed, s.seq.prompt, s.seq.promptTimer, s.seq.interruption)
  | .fault k => t.faults.get k = s.faults.get k
  | .runs =>
    (t.faults.cavityRun, t.faults.humidityRun, t.faults.boilerRun)
      = (s.faults.cavityRun, s.faults.humidityRun, s.faults.boilerRun)
  | .link => (t.bus.link, t.bus.awaitGap) = (s.bus.link, s.bus.awaitGap)
  | .queue => (t.bus.queue, t.bus.dropped) = (s.bus.queue, s.bus.dropped)
  | .busCounts => (t.bus.broken, t.bus.badFrames) = (s.bus.broken, s.bus.badFrames)
  | .rotation => (t.report.rotation, t.report.rotating) = (s.report.rotation, s.report.rotating)
  | .chainRefusal => t.report.chainRefusal = s.report.chainRefusal
  | .stored => t.retained.stored = s.retained.stored
  | .writes => (t.retained.writing, t.retained.pendingWrite) = (s.retained.writing, s.retained.pendingWrite)
  | .inputs => t.inputs = s.inputs
  | .freeIndex => t.freeIndex = s.freeIndex
  | .pending => t.pending = s.pending

/-- The second state differs from the first in these aspects alone. -/
def Only (as : List Aspect) (s t : State) : Prop := ∀ a, a ∉ as → Same a s t

/-- What an event may do to the program and the water path, reports and answers included. -/
abbrev runAspects : List Aspect :=
  [.sharing, .queue, .withdrawn, .ceiling, .record, .integrators, .ventTimer, .flap, .coolingFan, .millilitres, .boiler,
    .scaleFlags, .slots, .program, .chainRefusal, .writes]

/-- What the operations of the water path may change. -/
abbrev waterAspects : List Aspect := [.boiler, .withdrawn, .scaleFlags, .writes]

/-- What the end of a frame may change beside the program. -/
abbrev outageAspects : List Aspect := [.gates, .frame, .evaporation, .scaleLoad, .doorPending]

/-- Every fault record. -/
abbrev faultAspects : List Aspect := FaultKind.all.map Aspect.fault

/-- What a sample decides of the fault set. -/
abbrev sensorAspects : List Aspect :=
  [.runs, .fault .cavitySensor, .fault .humiditySensor, .fault .boilerSensor, .fault .coreProbeShort, .fault .cavityOverheat,
    .fault .boilerDry]

/-- The inputs and readings of a sample. -/
abbrev sampleAspects : List Aspect := [.inputs, .readings, .boilerReadings]

/-- What a second may change beside the program. -/
abbrev secondAspects : List Aspect := [.scaleLoad, .soakCount, .freeIndex]

/-- What an event of the door may change beside the program. -/
abbrev doorAspects : List Aspect := [.door, .doorPending, .doorTimer]

/-- What the timers and the examination that end a crossing may change beside the program. -/
abbrev fireAspects : List Aspect := [.evaporation, .fault .drainTimeout] ++ secondAspects ++ doorAspects

/-- What a crossing within a frame may change. -/
abbrev cycleAspects : List Aspect :=
  [.lfsr, .frame, .gates, .ventTimer, .clock] ++ fireAspects ++ runAspects

/-- What the end of a frame and the test of its length may change. -/
abbrev closeAspects : List Aspect := .fault .mains :: (outageAspects ++ runAspects)

/-- What the work of a boundary may change. -/
abbrev workAspects : List Aspect :=
  sampleAspects ++ sensorAspects ++ [.frame, .gates, .demands] ++ runAspects

/-- What a frame boundary may change. -/
abbrev boundaryAspects : List Aspect :=
  [.lfsr, .ventTimer, .clock] ++ closeAspects ++ workAspects ++ fireAspects

/-- What a crossing may change. -/
abbrev crossingAspects : List Aspect := .startup :: boundaryAspects

/-- What the end of the mains measurement may change. -/
abbrev measuredAspects : List Aspect :=
  [.startup, .door, .probes, .tank, .hardness, .soakCount, .fault .retainedRecord, .rotation, .freeIndex] ++ closeAspects

/-- What an announce tick may change. -/
abbrev tickAspects : List Aspect := [.sharing, .coolDown, .peers, .slots, .staging, .queue, .freeIndex]

/-- What the events of a level probe may change. -/
abbrev probeAspects : List Aspect := [.probes, .fault .drainTimeout, .freeIndex] ++ runAspects

/-- What the events of the tank may change. -/
abbrev tankAspects : List Aspect := [.tank, .freeIndex] ++ runAspects

/-- What a request may change. -/
abbrev requestAspects : List Aspect :=
  [.staging, .hardness, .freeIndex] ++ faultAspects ++ runAspects

/-- What a received frame may change. -/
abbrev frameAspects : List Aspect := [.peers, .link, .lfsr] ++ requestAspects

/-- What a reset may change: all but the waiting commands, the sensor inputs and the free-value counter. -/
abbrev resetAspects : List Aspect :=
  [.startup, .lfsr, .peers, .coolDown, .sharing, .frame, .withdrawn, .doorTimer, .ceiling, .gates, .record, .integrators,
    .ventTimer, .flap, .demands, .readings, .door, .doorPending, .coolingFan, .probes, .tank, .boilerReadings, .evaporation,
    .millilitres, .boiler, .hardness, .scaleLoad, .soakCount, .scaleFlags, .slots, .staging, .clock, .program, .runs,
    .link, .queue, .busCounts, .rotation, .chainRefusal, .stored, .writes] ++ faultAspects

/-- The parts of the state that a command may change, whatever its operands. -/
def touches : Instr → List Aspect
  | .reset _ _ _ _ => resetAspects
  | .mainsMeasurementEnd _ => measuredAspects
  | .announceTick => tickAspects
  | .peerEntryRemoved _ => tickAspects
  | .tableFullCleared => tickAspects
  | .listenEnd => tickAspects
  | .quietEntry => tickAspects
  | .zeroCrossing => crossingAspects
  | .frameBoundary _ _ => boundaryAspects
  | .sampleTick _ => .freeIndex :: (sampleAspects ++ sensorAspects ++ runAspects)
  | .sensorFaultRaised _ _ => boundaryAspects
  | .sensorFaultEnded _ _ => boundaryAspects
  | .second => crossingAspects
  | .stepCountEnd => crossingAspects
  | .promptTimeout => crossingAspects
  | .interruptionTimeout => crossingAspects
  | .soakComplete => crossingAspects
  | .doorOpenMinute => crossingAspects
  | .ventComplete => crossingAspects
  | .doorOpen => [.inputs, .freeIndex] ++ doorAspects ++ runAspects
  | .doorClose => [.inputs, .freeIndex] ++ doorAspects ++ runAspects
  | .lowDry => probeAspects
  | .lowWet => probeAspects
  | .highWet => probeAspects
  | .highDry => [.probes]
  | .strokeEnd => crossingAspects
  | .tankArrives _ => tankAspects
  | .tankRemoved => tankAspects
  | .tankLevelChange _ => tankAspects
  | .drainValveOpens _ => boundaryAspects
  | .coolWaitExpired => crossingAspects
  | .drainComplete => crossingAspects
  | .drainTimeout => crossingAspects
  | .mainsLoss => .freeIndex :: closeAspects
  | .mainsRestored _ => [.startup, .fault .mains, .freeIndex] ++ runAspects
  | .rotationReport => [.queue, .freeIndex, .rotation]
  | .quietGap => [.link, .queue]
  | .frameSent => [.link, .queue, .busCounts, .sharing, .fault .link, .freeIndex]
  | .frameLost => [.link, .queue]
  | .frameBroken => [.link, .busCounts, .fault .link, .freeIndex] ++ runAspects
  | .announcementReceived _ _ => frameAspects
  | .announcementIgnored _ _ => frameAspects
  | .badFrame => [.link, .busCounts]
  | .frameAbandoned => [.link, .busCounts]
  | .frameNotAccepted _ => frameAspects
  | .frameDropped _ => frameAspects
  | .duplicateStation _ _ _ _ => frameAspects
  | .requestUnknownCode _ _ _ => frameAspects
  | .loadHeader _ _ => frameAspects
  | .stepPartA _ _ => frameAspects
  | .stepPartB _ _ => frameAspects
  | .start _ _ => frameAspects
  | .pause _ _ => frameAspects
  | .continue_ _ _ => frameAspects
  | .stop _ _ => frameAspects
  | .skip _ _ => frameAspects
  | .adjust _ _ => frameAspects
  | .confirm _ _ => frameAspects
  | .clear _ _ => frameAspects
  | .discard _ _ => frameAspects
  | .setHardness _ _ => frameAspects
  | .startDescale _ _ => frameAspects
  | .clearFaults _ _ => frameAspects
  | .query _ _ => frameAspects
  | .retainedWriteComplete _ => [.stored, .fault .retainedRecord, .queue, .freeIndex] ++ waterAspects
  | .inputStateEstablished _ => [.inputs, .door, .probes, .tank, .boiler]

/-! ## Situations -/

/-- The state a request is judged in: its frame has ended, and QUIET is left (R22, R31, R189). -/
def State.heard (s : State) : State := s.frameEnds.leaveQuiet

/-- The part takes requests from a station: the link receives, the station is not its own, it is a counted peer of kind PANEL or
MODULE, and DUPLICATE_STATION is not active (R175, R176). -/
abbrev State.TakesFrom (src : Nat) (s : State) : Prop :=
  s.receives = true ∧ src ≠ s.station
    ∧ (∃ p, s.countedPeers.find? (fun p => decide (p.station = src)) = some p ∧ (p.kind = .panel ∨ p.kind = .module))
    ∧ s.faultActive .duplicateStation = false

/-- Nothing is due at once: no valve to open, no completion handed, PREPARE not at its end (R91, R84, R126). -/
abbrev State.NothingDue (s : State) : Prop := s.valveDue = false ∧ s.steam.handed = none ∧ s.prepareDue = false

/-- The next crossing falls within a frame (R34). -/
abbrev State.InFrame (s : State) : Prop := s.crossingRuns = true ∧ s.load.running = true ∧ s.load.cycle < 19

/-- A timer reaches n seconds at the next crossing, which is counted (R73). -/
abbrev State.Reaches (n : Nat) (t : Option CycleTimer) (s : State) : Prop :=
  s.crossingRuns = true ∧ ∃ c, t = some c ∧ c.seconds + 1 = n ∧ s.perSecond ≤ c.cycles + 1

/-- A counted crossing before its timers act: within a frame the gates are switched and everything is counted; at a boundary
the frame's work is done as well (R34, R41, R48, log 3, log 9). -/
def State.crossed (s : State) : State :=
  if s.boundaryDue then
    ((s.advanceLfsr.closeFrame nominalFrameMs).countCrossing).boundaryWork s.inputs
  else ((s.advanceLfsr.mapLoad (fun l => { l with cycle := l.cycle + 1 })).switchGates).countCrossing

/-- A drain's run-on has reached 20 s, or its drain timer 90 s with no run-on (R92, R93). -/
def State.drainDue (s : State) : Bool :=
  decide (s.steam.boiler = .draining)
    && (match s.steam.runOn with
      | some r => decide (20 ≤ r.seconds)
      | none => s.steam.drainOverdue)

/-- The vent timer has reached 20 s in the VENT phase (R73, R131). -/
def State.ventDue (s : State) : Bool :=
  decide (s.phase = some .vent)
    && (match s.climate.ventTimer with
      | some v => decide (20 ≤ v.seconds)
      | none => false)

/-- The state in which the second of a crossing is counted: after the drain and the vent of that crossing (log 3). -/
def State.beforeSecond (s : State) : State := ((s.crossed.fireDrain).runSettle).fireVent.runSettle

/-- What follows the vent at a crossing: the second if the crossing is one, then the examination of the door (R67, log 3). -/
def State.fireLast (second : Bool) (s : State) : State := (if second then s.secondEvent else s).examineDoor

/-- What follows the drain at a crossing: the vent, then the second and the door (log 3). -/
def State.fireRest (second : Bool) (s : State) : State := ((s.runSettle).fireVent.runSettle).fireLast second

/-! ## Quantities of the share walks -/

/-- The need of a counted peer: settled ask less hold while it is asking, else nothing (R26). -/
def Peer.need (p : Peer) : Nat :=
  match p.settled with
  | some ask => if p.asking then ask - p.hold else 0
  | none => 0

/-- The peer is served before the part: lower rank, or equal rank and higher draw, or both equal and lower station (R26). It is
then also the better holder, which gives way after the part (R28). -/
def State.ahead (s : State) (p : Peer) : Bool :=
  decide (p.rank < s.rank)
    || (decide (p.rank = s.rank)
      && (decide (s.share.draw.toNat < p.draw)
        || (decide (p.draw = s.share.draw.toNat) && decide (p.station < s.station))))

/-- A sum over the counted peers that satisfy a condition (R6). -/
def State.sumCounted (f : Peer → Nat) (c : Peer → Bool) (s : State) : Nat :=
  (((s.share.peers.filter (fun p => decide (p.silent ≤ 2))).filter c).map f).sum

/-! ## Invariants -/

/-- The transmit queue holds at most 8 entries, in order of class, the counters are in range, and a quiet gap is awaited in
RECEIVING alone (R188 to R192). -/
abbrev BusLink.Legal (b : BusLink) : Prop :=
  b.queue.length ≤ 8 ∧ b.queue.Pairwise (fun e f => e.kind.cls ≤ f.kind.cls)
    ∧ b.broken ≤ 255 ∧ b.badFrames ≤ 255 ∧ b.dropped ≤ 255 ∧ (b.awaitGap = true → b.link = .receiving)

/-- The applied budget is never above the hold, and the powers and counts are in range (R2, R23). -/
abbrev Share.Legal (h : Share) : Prop :=
  h.applied ≤ h.hold ∧ h.pendingCut ≤ 2047 ∧ h.ownCount ≤ 3 ∧ h.denyCount ≤ 255 ∧ h.coolDown ≤ 6
    ∧ h.listenCount ≤ 3 ∧ h.quietCount ≤ 120 ∧ (h.hold ≤ 2047 ∧ h.ask ≤ 2047)

/-- The share engine's quantities and the ceiling that the load frame supplies it (R2). -/
abbrev State.ShareLegal (s : State) : Prop := s.share.Legal ∧ s.load.ceiling ≤ 2047

/-- A peer entry's fields are in range: a station of 1 to 30 other than the part's own, a repeat count of at most 3, a silent
count of at most 6, since an entry leaves at 7, and the powers, rank and draw of an announcement (R6, R11, R194). -/
abbrev Peer.Legal (own : Nat) (p : Peer) : Prop :=
  (1 ≤ p.station ∧ p.station ≤ 30) ∧ p.station ≠ own ∧ p.repeats ≤ 3 ∧ p.silent ≤ 6
    ∧ (p.hold ≤ 2047 ∧ p.rank ≤ 3 ∧ p.draw ≤ 2047) ∧ (p.candidate ≤ 2047 ∧ ∀ a ∈ p.settled, a ≤ 2047)

/-- The peer table holds at most 15 entries, no two for one station and none for the part's own (R6). -/
abbrev PeersLegal (own : Nat) (peers : List Peer) : Prop :=
  peers.length ≤ 15 ∧ (peers.map Peer.station).Nodup ∧ ∀ p ∈ peers, p.Legal own

/-- One load of the frame: the plan is the placement of an allocation no larger than the demand, and what has conducted is
no more than the plan's cycles up to the present one (R36, R47, R51). -/
abbrev LoadFrame.LoadLegal (l : LoadFrame) (i : Load) : Prop :=
  l.alloc.get i ≤ l.taken.get i ∧ l.plan.get i = placed i.index (l.alloc.get i)
    ∧ l.conducted.get i ≤ (if l.running then ((l.plan.get i).filter (fun k => decide (k ≤ l.cycle))).length else 0)

/-- The load frame: a cycle of 0 to 19, every load legal, and steaming cycles among the boiler's conducted ones (R36). -/
abbrev LoadFrame.Legal (l : LoadFrame) : Prop :=
  l.cycle ≤ 19 ∧ l.LoadLegal .top ∧ l.LoadLegal .bottom ∧ l.LoadLegal .ring ∧ l.LoadLegal .boiler
    ∧ l.steamingCount ≤ l.conducted.boiler

/-- A timer that is present counts no further than its cap. -/
abbrev Within (cap : Nat) (t : Option CycleTimer) : Prop := ∀ c ∈ t, c.seconds ≤ cap

/-- The integrators are clamped and the demand handed is 0 to 20; the vent timer ends at 20 s (R60, R61, R64, R73). -/
abbrev Climate.Legal (c : Climate) : Prop :=
  (0 ≤ c.tempI ∧ c.tempI ≤ 5120) ∧ (0 ≤ c.humI ∧ c.humI ≤ 5120) ∧ c.lastDemand ≤ 20 ∧ Within 20 c.ventTimer

/-- A pump stroke runs 25 cycles, and one is awaited under 80 strokes alone (R88, R89). -/
abbrev Stroke.Legal (strokes : Nat) : Stroke → Prop
  | .idle => True
  | .awaiting => strokes < 80
  | .running c => c ≤ 24

/-- The stroke count is 0 to 80; the cool-wait, drain and run-on timers and the evaporation counts are in range (R88 to R93,
R97). -/
abbrev Steam.Legal (w : Steam) : Prop :=
  w.strokes ≤ 80 ∧ w.stroke.Legal w.strokes ∧ Within 600 w.coolWait ∧ Within 110 w.drainTimer ∧ Within 20 w.runOn
    ∧ w.evaporation < 156000 ∧ w.millilitres ≤ 65535

/-- The sequencer's counters stop at their ends; the second clock counts at most 60 crossings (R118, R120, R125, R128, R134). -/
abbrev Sequencer.Legal (q : Sequencer) : Prop :=
  q.elapsed ≤ 65535 ∧ (∀ n ∈ q.promptTimer, n ≤ 3600) ∧ (∀ n ∈ q.interruption, n ≤ 1800) ∧ q.clock ≤ 59

/-- The account is in range (R145). -/
abbrev Scale.Legal (a : Scale) : Prop := a.hardness ≤ 30 ∧ a.load ≤ 1000000 ∧ a.soakCount ≤ 65535

/-- The occurrence counts and the sample runs are in range, and no kind that does not latch is latched (R163, R164). -/
abbrev FaultSet.Legal (f : FaultSet) : Prop :=
  (∀ k ∈ FaultKind.all, (f.get k).count ≤ 255 ∧ ((f.get k).latched = true → (f.get k).active = true ∧ k.latching = true))
    ∧ (f.cavityRun.bad ≤ 3 ∧ f.cavityRun.good ≤ 3) ∧ (f.humidityRun.bad ≤ 3 ∧ f.humidityRun.good ≤ 3)
    ∧ (f.boilerRun.bad ≤ 3 ∧ f.boilerRun.good ≤ 3)

/-- An optional value lies within an optional range; with no range it is absent. -/
abbrev InRange (range : Option (Nat × Nat)) (v : Option Nat) : Prop :=
  ∀ n ∈ v, ∃ r ∈ range, r.1 ≤ n ∧ n ≤ r.2

/-- A step record's setpoint, humidity and core target are within its mode's ranges (R105). -/
abbrev StepRecord.Legal (r : StepRecord) : Prop :=
  InRange r.mode.setpointRange r.setpoint ∧ InRange r.mode.humidityRange r.humidity ∧ InRange (some (30, 99)) r.coreTarget

/-- A header's step count is that of its records, 1 to 12, and its loaded records are legal (R99, R105). -/
abbrev Program.Legal (p : Program) : Prop :=
  p.steps.length = p.stepCount ∧ (1 ≤ p.stepCount ∧ p.stepCount ≤ 12) ∧ ∀ r ∈ p.records, r.Legal

/-- A slot's program is legal, and in READY, ACTIVE and DONE it is complete (R99). -/
abbrev Slot.Legal : Slot → Prop
  | .empty => True
  | .loading p => p.Legal
  | .ready p => p.Legal ∧ p.complete = true
  | .active p => p.Legal ∧ p.complete = true
  | .done p _ => p.Legal ∧ p.complete = true

/-- The slot is ACTIVE. -/
def Slot.isActive (v : Slot) : Bool := v.activeProgram.isSome

/-- At most one slot is ACTIVE: the active slot of the sequencer, whose step index is below its step count (R118). -/
abbrev RunLegal (run : Option Position) (t : Store) : Prop :=
  match run with
  | none => t.slot0.isActive = false ∧ t.slot1.isActive = false
  | some at_ =>
    (∀ p ∈ (t.slot at_.slot).activeProgram, at_.step < p.stepCount) ∧ (t.slot at_.slot).isActive = true
      ∧ (t.slot at_.slot.other).isActive = false

/-- The slots are legal, and agree with the sequencer on which of them is ACTIVE (R99, R118). -/
abbrev State.StoreLegal (s : State) : Prop :=
  s.store.slot0.Legal ∧ s.store.slot1.Legal ∧ RunLegal s.seq.run s.store

/-- The contents that the retained record's blocks hold are in range, so that a record written and read back is never
corrupt by range (spec/11 section 11.3). -/
abbrev Retained.Legal (r : Retained) : Prop :=
  (∀ c ∈ r.writing, c.inRange = true) ∧ (∀ c ∈ r.pendingWrite, c.inRange = true)

/-- The account and what is being written of it are in range (R145, spec/11 section 11.3). -/
abbrev State.ScaleLegal (s : State) : Prop := s.scale.Legal ∧ s.retained.Legal

/-- Every block is legal. -/
abbrev State.Legal (s : State) : Prop :=
  s.bus.Legal ∧ s.ShareLegal ∧ PeersLegal s.station s.share.peers ∧ s.load.Legal ∧ s.climate.Legal ∧ s.steam.Legal
    ∧ s.ScaleLegal ∧ s.StoreLegal ∧ s.seq.Legal ∧ s.faults.Legal

/-- The ceiling is the one the situation of the program gives, and the interruption timer is present in HELD and PAUSED alone
(R38, R40, R134). -/
abbrev State.Follows (s : State) : Prop :=
  s.load.ceiling = s.ceilingNow
    ∧ (s.seq.interruption.isSome = true ↔ s.runState = some .held ∨ s.runState = some .paused)

/-- Until start-up reaches its last stage nothing has started: share engine, store, sequencer, bus link, reports and account are
as reset left them, no frame runs, the boiler waits, and no fault but those of samples is active (R12, R32, R34, R117, R186,
R193, R197, R201). -/
def State.BeforeService (s : State) : Prop :=
  s.startup.stage ≠ .service →
    s.share = .reset s.station ∧ s.store = .reset ∧ s.seq = .reset ∧ s.bus = .reset ∧ s.report = .reset ∧ s.scale = .reset
      ∧ s.load = { LoadFrame.reset with doorTimer := s.load.doorTimer }
      ∧ (s.climate.mode = none ∧ s.climate.venting = false ∧ s.climate.flapDriven = .closed)
      ∧ (s.steam.request = .none ∧ s.steam.handed = none ∧ s.steam.soakHeating = false ∧ s.steam.stroke = .idle
        ∧ s.steam.fillWait = none ∧ (s.steam.boiler = .empty ∨ s.steam.boiler = .standing ∨ s.steam.boiler = .off))
      ∧ (s.retained.writing = none ∧ s.retained.pendingWrite = none)
      ∧ (s.faults.mains = .clear ∧ s.faults.drainTimeout = .clear ∧ s.faults.link = .clear
        ∧ s.faults.duplicateStation = .clear ∧ s.faults.retainedRecord = .clear)

end Sys2Proof.Machine
end

