-- ==== Sys2Proof/Certificates/Slice0/Obligations.lean ====
section
/-! DEFINITION. The statements for the provers. Where an event's own effect is a state u, what has become due with it follows
as u.runSettle (Obligations.Settling), and reports of what has changed as s.reported (Obligations.Reports). -/

open Sys2Proof Sys2Proof.Machine

/-! ## The machine -/

/-- A step runs the command at the front of the queue on the state with the queue's rest; with an empty queue the part idles (log
1). -/
def Obligations.StepRunsTheFrontCommand : Prop :=
  ∀ s : State,
    (∀ c q, s.pending = c :: q → step s = exec c (s.setPending q)) ∧ (s.pending = [] → step s = .next s)

/-- Every command answers a next state that differs from the one before in the aspects of `touches` alone; the waiting commands
are in none of them. -/
def Obligations.EveryCommandAnswersWithinItsFrame : Prop :=
  ∀ (c : Instr) (s : State), (∃ t, exec c s = .next t ∧ Only (touches c) s t) ∧ Aspect.pending ∉ touches c

/-- After every RESET, and in the state of reset, every block is legal, the ceiling follows the program, and nothing has started.
-/
def Obligations.ResetIsLegal : Prop :=
  (State.reset.Legal ∧ State.reset.Follows ∧ State.reset.BeforeService)
    ∧ ∀ (station : Fin 32) (limitClass : Fin 8) (variant : Fin 4) (cut : InterruptedWrite) (s : State),
        ∃ t, exec (.reset station limitClass variant cut) s = .next t ∧ t.Legal ∧ t.Follows ∧ t.BeforeService

/-- Every step keeps these eight legal: the bus link, the share engine with the ceiling it is supplied, the peer table, the
climate regulator's and the steam generator's counters, the account with its writes, the sequencer's counters, and the fault set.
-/
def Obligations.BlocksStayLegal : Prop :=
  ∀ s t : State, step s = .next t →
    (s.bus.Legal → t.bus.Legal) ∧ (s.ShareLegal → t.ShareLegal)
      ∧ (PeersLegal s.station s.share.peers → PeersLegal t.station t.share.peers)
      ∧ (s.climate.Legal → t.climate.Legal) ∧ (s.steam.Legal → t.steam.Legal) ∧ (s.ScaleLegal → t.ScaleLegal)
      ∧ (s.seq.Legal → t.seq.Legal) ∧ (s.faults.Legal → t.faults.Legal)

/-- Every step keeps the slots legal and the sequencer in agreement with them: at most one slot is ACTIVE, and it is the
sequencer's. -/
def Obligations.AtMostOneSlotIsActive : Prop := ∀ s t : State, s.StoreLegal → step s = .next t → t.StoreLegal

/-- Every step keeps the load frame legal: no load is allocated more than its taken demand, the plan is the placement of the
allocation, and no load has conducted more cycles than its plan held so far. -/
def Obligations.ConductionStaysWithinThePlan : Prop := ∀ s t : State, s.load.Legal → step s = .next t → t.load.Legal

/-- Every step keeps what has not started before start-up's last stage as it was, and in such states the ceiling at the value the
program's situation gives, with the interruption timer present in HELD and PAUSED alone. -/
def Obligations.CeilingFollowsTheProgram : Prop :=
  ∀ s t : State, s.BeforeService → step s = .next t → t.BeforeService ∧ (s.Follows → t.Follows)

/-! ## Start-up -/

/-- RESET puts every block at its reset values, with the straps sampled and the retained record kept; a write it interrupts leaves
the record torn, as it was, or complete. -/
def Obligations.ResetState : Prop :=
  ∀ (station : Fin 32) (limitClass : Fin 8) (variant : Fin 4) (cut : InterruptedWrite) (s : State),
    exec (.reset station limitClass variant cut) s =
      .next
        { pending := s.pending
          startup :=
            { stage := if station.val = 0 ∨ station.val = 31 then .configFault else .measuring
              station := station.val, limitClass := limitClass.val, variant := variant.val, freq := none, crossings := 0 }
          share :=
            { state := .listen, hold := 0, applied := 0, pendingCut := 0, ask := 0
              draw := BitVec.ofNat 11 (station.val * 61 + 1), lfsr := BitVec.ofNat 11 (station.val * 61 + 1)
              ownCount := 0, denyCount := 0, starved := false, coolDown := 0, listenCount := 0, quietCount := 0
              peers := [], tableFull := false, newcomer := 7 }
          load :=
            { running := false, cycle := 0, taken := ⟨0, 0, 0, 0⟩, alloc := ⟨0, 0, 0, 0⟩, plan := ⟨[], [], [], []⟩
              withdrawn := ⟨false, false, false, false⟩, conducted := ⟨0, 0, 0, 0⟩, steamingCount := 0, limited := false
              last := ⟨⟨0, 0, 0, 0⟩, ⟨0, 0, 0, 0⟩, ⟨0, 0, 0, 0⟩, false⟩, doorTimer := none, ceiling := 0
              gates := ⟨false, false, false, false⟩ }
          climate :=
            { mode := none, setpoint := none, humidityTarget := none, venting := false, tempI := 0, humI := 0
              degraded := false, cavityReading := none, lastCavity := none, humidityReading := none, lastHumidity := none
              coreStatus := .absent, coreReading := none, coreSeen := none, door := none, doorPending := false
              flapCommand := .opened, flapDriven := .closed, ventTimer := none, lastDemand := 0, lastBoilerDemand := 0, coolingFan := false }
          steam :=
            { boiler := .empty, soakHeating := false, low := none, high := none, tank := none, boilerReading := none
              lastBoiler := none, request := .none, used := false, strokes := 0, stroke := .idle, fillWait := none
              drainStarted := false, drainServes := false, owed := none, coolWait := none, drainTimer := none
              runOn := none, rinsePass := 0, evaporation := 0, millilitres := 0, handed := none }
          scale := { hardness := 15, load := 0, rinseOwed := false, soakCount := 0, drainOnStop := false }
          store := { slot0 := .empty, slot1 := .empty, staging := [], lastOutcome := ⟨0, 0, .recipe, .powerDownNone⟩ }
          seq :=
            { run := none, pauseFlag := false, stopFlag := false, forcedCause := none, probeHold := false, workKind := none
              workDuration := none, elapsed := 0, prompt := none, promptTimer := none, interruption := none, clock := 0 }
          faults :=
            let r : FaultRecord := ⟨false, false, 0⟩
            ⟨r, r, r, r, r, r, r, r, r, r, r, ⟨0, 0⟩, ⟨0, 0⟩, ⟨0, 0⟩⟩
          bus := { link := .idle, awaitGap := false, queue := [], broken := 0, badFrames := 0, dropped := 0 }
          report := { rotation := .climate, rotating := false, chainRefusal := none }
          retained :=
            { stored :=
                match s.retained.writing, cut with
                | none, _ => s.retained.stored
                | some c, .torn => .written c (~~~ c.check)
                | some _, .previous => s.retained.stored
                | some c, .completed => .written c c.check
              writing := none, pendingWrite := none }
          inputs := s.inputs
          freeIndex := s.freeIndex }

/-- The straps are sampled at reset and kept until the next; a station strap of 0 or 31 is CONFIG_FAULT: the fault pin driven,
every output off, and no command but RESET changes anything. -/
def Obligations.ConfigFault : Prop :=
  (∀ (station : Fin 32) (limitClass : Fin 8) (variant : Fin 4) (cut : InterruptedWrite) (s : State),
    ∃ t, exec (.reset station limitClass variant cut) s = .next t
      ∧ (t.startup.station = station.val ∧ t.startup.limitClass = limitClass.val ∧ t.startup.variant = variant.val)
      ∧ (t.faultPin = true ↔ station.val = 0 ∨ station.val = 31)
      ∧ (t.faultPin = false → t.startup.stage = .measuring)
      ∧ (t.faultPin = true →
          (t.load.gates = ⟨false, false, false, false⟩ ∧ t.pumpOn = false ∧ t.drainValveOpen = false ∧ t.flapDriveOn = false
            ∧ t.convectionFan = 0 ∧ t.climate.coolingFan = false ∧ t.lampOn = false ∧ t.frameOnLine = none)
          ∧ ∀ c : Instr, (∀ a b d e, c ≠ .reset a b d e) → exec c t = .next t))
    ∧ ∀ (c : Instr) (s t : State), (∀ a b d e, c ≠ .reset a b d e) → exec c s = .next t →
        t.startup.station = s.startup.station ∧ t.startup.limitClass = s.startup.limitClass
          ∧ t.startup.variant = s.startup.variant

/-- INPUT_STATE_ESTABLISHED during the mains measurement: the input takes its state without an event, the door with the level of
its switch. A LOW probe WET finds the
boiler STANDING with its drain owed, DRY finds it EMPTY. An input established already stays; outside the measurement nothing
happens. -/
def Obligations.InputIsEstablishedOnce : Prop :=
  ∀ s : State,
    (s.startup.stage = .measuring →
      (∀ d, s.climate.door = none →
        exec (.inputStateEstablished (.door d)) s
          = .next { s with climate := { s.climate with door := some d }, inputs := { s.inputs with door := d } })
      ∧ (s.steam.low = none →
        exec (.inputStateEstablished (.lowProbe .wet)) s
            = .next { s with steam := { s.steam with low := some .wet, boiler := .standing, owed := some .startUp } }
          ∧ exec (.inputStateEstablished (.lowProbe .dry)) s
            = .next { s with steam := { s.steam with low := some .dry, boiler := .empty, owed := none } })
      ∧ (∀ p, s.steam.high = none →
        exec (.inputStateEstablished (.highProbe p)) s = .next { s with steam := { s.steam with high := some p } })
      ∧ (∀ k, s.steam.tank = none →
        exec (.inputStateEstablished (.tank k)) s = .next { s with steam := { s.steam with tank := some k } })
      ∧ (∀ d, s.climate.door ≠ none → exec (.inputStateEstablished (.door d)) s = .next s)
      ∧ (∀ p, s.steam.low ≠ none → exec (.inputStateEstablished (.lowProbe p)) s = .next s)
      ∧ (∀ p, s.steam.high ≠ none → exec (.inputStateEstablished (.highProbe p)) s = .next s)
      ∧ (∀ k, s.steam.tank ≠ none → exec (.inputStateEstablished (.tank k)) s = .next s))
    ∧ (s.startup.stage ≠ .measuring → ∀ i, exec (.inputStateEstablished i) s = .next s)

/-- MAINS_MEASUREMENT_END: inputs not established are taken as door OPEN, probes WET, tank ABSENT; 45 to 54 crossings without a
gap fix 50 Hz, 55 to 65 fix 60 Hz, anything else sets MAINS; scale accounting takes the record, its blank values, or the corrupt
defaults with RETAINED_RECORD raised; the last stages begin, and a STANDING boiler's drain starts or opens its valve; one FAULT
report is handed if MAINS or RETAINED_RECORD was raised. -/
def Obligations.MeasurementEnds : Prop :=
  ∀ (gap : Bool) (s : State), s.startup.stage = .measuring → s.BeforeService →
    ∃ t, exec (.mainsMeasurementEnd gap) s = .next t
      ∧ t.startup =
          { s.startup with
            stage := .service
            freq :=
              if gap then none
              else if 45 ≤ s.startup.crossings ∧ s.startup.crossings ≤ 54 then some .hz50
              else if 55 ≤ s.startup.crossings ∧ s.startup.crossings ≤ 65 then some .hz60
              else none }
      ∧ (t.climate.door = some (s.climate.door.getD .opened) ∧ t.steam.low = some (s.steam.low.getD .wet)
        ∧ t.steam.high = some (s.steam.high.getD .wet) ∧ t.steam.tank = some (s.steam.tank.getD .absent))
      ∧ t.faults.mains = (if t.startup.freq.isNone then ⟨true, false, 1⟩ else ⟨false, false, 0⟩)
      ∧ ((s.retained.stored = .blank →
            t.scale = ⟨15, 0, false, 0, false⟩ ∧ t.faults.retainedRecord = ⟨false, false, 0⟩)
        ∧ (∀ c check, s.retained.stored = .written c check →
            (c.check = check ∧ c.hardness ≤ 30 ∧ c.load ≤ 1000000 ∧ c.soakCount ≤ 65535 →
              t.scale = ⟨c.hardness, c.load, c.rinseOwed, c.soakCount, false⟩
                ∧ t.faults.retainedRecord = ⟨false, false, 0⟩)
            ∧ (¬(c.check = check ∧ c.hardness ≤ 30 ∧ c.load ≤ 1000000 ∧ c.soakCount ≤ 65535) →
              t.scale = ⟨15, 600000, true, 0, false⟩ ∧ t.faults.retainedRecord = ⟨true, false, 1⟩)))
      ∧ t.share.state = .listen
      ∧ (t.report.rotating = true ∧ t.report.rotation = .climate)
      ∧ t.climate.flapDriven = (if t.startup.freq.isSome then s.climate.flapCommand else s.climate.flapDriven)
      ∧ (s.steam.boiler = .standing ∨ s.steam.low = none →
          if (∃ T, s.boilerInUse = some T ∧ T ≤ 800) ∧ t.tankPresent = true ∧ t.startup.freq.isSome = true then
            t.steam.boiler = .draining ∧ t.steam.drainTimer = some ⟨0, 0⟩
          else t.steam.boiler = .standing ∧ t.steam.drainStarted = true ∧ t.steam.coolWait = some ⟨0, 0⟩)
      ∧ t.climate.doorPending = (if t.startup.freq.isSome then s.climate.doorPending else false)
      ∧ (let raised := t.faults.mains.active = true ∨ t.faults.retainedRecord.active = true
        (raised → t.bus = s.bus.hand (.report .fault) (reportFrames t.faultContents)) ∧ (¬raised → t.bus = s.bus))
      ∧ Only
          [.startup, .door, .doorPending, .probes, .tank, .boiler, .fault .mains, .fault .retainedRecord, .hardness, .scaleLoad, .soakCount,
            .scaleFlags, .rotation, .flap, .coolingFan, .queue, .freeIndex] s t

/-! ## The bus link -/

/-- QUIET_GAP, on an idle line or after a broken or abandoned frame, puts the next frame of the head entry on the line.
FRAME_LOST keeps the entry in its place, or gives the place to a newer waiting entry of its kind when its first frame was lost.
-/
def Obligations.QuietGapAndFrameLost : Prop :=
  ∀ s : State,
    let gap := s.inService = true ∧ (s.bus.link = .idle ∨ (s.bus.link = .receiving ∧ s.bus.awaitGap = true))
    ((gap → s.bus.queue = [] → exec .quietGap s = .next { s with bus := { s.bus with link := .idle, awaitGap := false } })
      ∧ (∀ e q, gap → s.bus.queue = e :: q →
          exec .quietGap s
            = .next
                { s with
                  bus := { s.bus with link := .sending, awaitGap := false, queue := { e with onLine := true } :: q } })
      ∧ (¬gap → exec .quietGap s = .next s))
    ∧ ((∀ l e r, s.sends = true → s.bus.queue = l ++ e :: r → (∀ x ∈ l, x.onLine = false) → e.onLine = true →
          (e.started = true ∨ (∀ x ∈ r, ¬(x.waiting = true ∧ x.kind.sameKind e.kind = true)) →
            exec .frameLost s
              = .next { s with bus := { s.bus with link := .receiving, queue := l ++ { e with onLine := false } :: r } })
          ∧ (∀ a x b, e.started = false → r = a ++ x :: b →
              (∀ y ∈ a, ¬(y.waiting = true ∧ y.kind.sameKind e.kind = true)) →
              x.waiting = true → x.kind.sameKind e.kind = true →
              exec .frameLost s
                = .next { s with bus := { s.bus with link := .receiving, queue := l ++ x :: (a ++ b) } }))
      ∧ (s.sends = false → exec .frameLost s = .next s))

/-- FRAME_SENT: the frame leaves its entry, and an entry with no frame left leaves the queue; the broken count is 0; an own
announcement of the round counts in ASKING; LINK ends, and ISOLATED with it unless DUPLICATE_STATION is active, with an ask round
where the ceiling is above the hold (what that does under MAINS, in part the reading of log 13, stands in AnnounceTickWalks).
FRAME_BROKEN: the entry is discarded with its frames, the link waits for a quiet gap, the broken count rises, and at 16 the LINK
condition arises. -/
def Obligations.FrameSentAndBroken : Prop :=
  (∀ (s : State) (l r : List Entry) (e : Entry), s.sends = true → s.bus.queue = l ++ e :: r →
     (∀ x ∈ l, x.onLine = false) → e.onLine = true →
     let ends := s.faults.link.active = true ∧ s.faults.link.latched = false
     let back := ends ∧ s.share.state = .isolated ∧ s.faults.duplicateStation.active = false
     let sent :=
       l ++ (match e.frames with
         | _ :: p :: rest => [{ e with frames := p :: rest, onLine := false, started := true }]
         | _ => []) ++ r
     let left : State :=
       { s with
         bus := { s.bus with link := .idle, queue := sent, broken := 0 }
         faults := { s.faults with link := { s.faults.link with active := false } }
         share := { s.share with state := if s.limit = none then .unshared else .steady } }
     let asks : State :=
       { left with
         share :=
           { s.share with
             state := .asking, ask := s.load.ceiling, draw := s.share.lfsr, ownCount := 0, denyCount := 0
             starved := false } }
     ∃ t, exec .frameSent s = .next (s.reported t)
       ∧ (t.bus.link = .idle ∧ t.bus.broken = 0 ∧ t.bus.badFrames = s.bus.badFrames)
       ∧ (ends → t.faults.link = { s.faults.link with active := false })
       ∧ (¬ends → t.faults.link = s.faults.link)
       ∧ (¬back →
           t.bus.queue = sent
           ∧ t.share =
               { s.share with
                 ownCount :=
                   match e.kind with
                   | .announce ask draw =>
                     if s.share.state = .asking ∧ ask = s.share.ask ∧ draw = s.share.draw then min 3 (s.share.ownCount + 1)
                     else s.share.ownCount
                   | _ => s.share.ownCount })
       ∧ (back →
           (s.limit = none ∨ s.load.ceiling ≤ s.share.hold → t = left.mainsApply)
           ∧ (s.limit ≠ none → s.share.hold < s.load.ceiling →
               t = State.mainsApply
                 { asks with bus := left.bus.hand (.announce s.load.ceiling s.share.lfsr) [asks.ownAnnouncement] })
           ∧ (s.limit = none → t.share.state = .unshared)
           ∧ (s.limit ≠ none → s.load.ceiling ≤ s.share.hold → t.share.state = .steady)
           ∧ (s.limit ≠ none → s.share.hold < s.load.ceiling →
               t.share.state = .asking ∧ t.share.ask = s.load.ceiling ∧ t.share.draw = s.share.lfsr ∧ t.share.ownCount = 0
                 ∧ t.share.denyCount = 0)
           ∧ (s.mainsOut = false → t.share.hold = s.share.hold
             ∧ (s.limit = none ∨ s.load.ceiling ≤ s.share.hold → t.bus.queue = sent)))
       ∧ Only [.link, .queue, .busCounts, .sharing, .fault .link] s t)
  ∧ (∀ (s : State) (l r : List Entry) (e : Entry), s.sends = true → s.bus.queue = l ++ e :: r →
       (∀ x ∈ l, x.onLine = false) → e.onLine = true →
       let b : BusLink :=
         { s.bus with link := .receiving, awaitGap := true, queue := l ++ r, broken := min 255 (s.bus.broken + 1) }
       (b.broken ≠ 16 → exec .frameBroken s = .next { s with bus := b })
       ∧ (b.broken = 16 → s.faults.link.active = false →
           ∃ t, exec .frameBroken s = .next (s.reported t)
             ∧ t.faults.link = ⟨true, false, min 255 (s.faults.link.count + 1)⟩
             ∧ (t.bus.link = .receiving ∧ t.bus.awaitGap = true ∧ t.bus.broken = 16)
             ∧ (s.Follows → s.mainsOut = false → t.bus = b ∧ t.share = s.share)
             ∧ Only [.link, .busCounts, .fault .link, .queue, .sharing, .ceiling, .withdrawn] s t)
       ∧ (b.broken = 16 → s.faults.link.active = true →
           exec .frameBroken s
             = .next (s.reported { s with bus := b, faults := { s.faults with link := { s.faults.link with latched := false } } })))

/-- What the transmit queue does with an entry handed to it: it replaces in place the waiting announcement, or the waiting report
of its kind; else it joins behind the entries of its class and lower; a full queue gives up its oldest waiting report, or drops
what was handed, and counts it. -/
def Obligations.QueueHandOver : Prop :=
  ∀ (k : EntryKind) (frames : List (List Byte)) (b : BusLink),
    (∀ l e r, b.queue = l ++ e :: r → e.waiting = true → e.kind.sameKind k = true →
      (∀ x ∈ l, ¬(x.waiting = true ∧ x.kind.sameKind k = true)) →
      b.hand k frames = { b with queue := l ++ { e with kind := k, frames := frames } :: r })
    ∧ ((∀ x ∈ b.queue, ¬(x.waiting = true ∧ x.kind.sameKind k = true)) →
        let new : Entry := { kind := k, frames := frames, onLine := false, started := false }
        (∀ l r, b.queue = l ++ r → (∀ x ∈ l, x.kind.cls ≤ k.cls) → (∀ x ∈ r, k.cls < x.kind.cls) →
          b.queue.length < 8 → b.hand k frames = { b with queue := l ++ new :: r })
        ∧ (∀ l e r x y, b.queue = l ++ e :: r → e.waiting = true → (∃ j, e.kind = .report j) →
            (∀ z ∈ l, ¬(z.waiting = true ∧ ∃ j, z.kind = .report j)) → 8 ≤ b.queue.length →
            l ++ r = x ++ y → (∀ z ∈ x, z.kind.cls ≤ k.cls) → (∀ z ∈ y, k.cls < z.kind.cls) →
            b.hand k frames = { b with queue := x ++ new :: y, dropped := min 255 (b.dropped + 1) })
        ∧ ((∀ x ∈ b.queue, ¬(x.waiting = true ∧ ∃ j, x.kind = .report j)) → 8 ≤ b.queue.length →
            b.hand k frames = { b with dropped := min 255 (b.dropped + 1) }))

/-- ROTATION_REPORT hands the kind whose turn it is, with the contents at its making, and advances the rotation; none is made
before the rotation starts, nor in QUIET. An event that changes several of a kind's fields hands one report of that kind, and one
that touches two or three kinds hands one of each, PROGRAM, WATER, FAULT, with the contents after the event; none is handed
before start-up reaches LISTEN. The contents of the five kinds, and the pages of a report and of a QUERY answer; a byte for which
the state holds no value is free (log 10). The model's own in it: that order of the reports of one event (log 3), a temperature
carried modulo 2 ^ 16 (log 33), bits outside the named fields 0 (log 43), the ask kept outside ASKING (log 40), and the venting bit
in PROGRAM byte 12 (log 49). -/
def Obligations.Reports : Prop :=
  (∀ s : State,
    (s.report.rotating = false → exec .rotationReport s = .next s)
    ∧ (s.share.state = .quiet → exec .rotationReport s = .next s)
    ∧ (s.inService = true → s.report.rotating = true → s.share.state ≠ .quiet →
         ∃ t, exec .rotationReport s = .next t
           ∧ t.bus = s.bus.hand (.report s.report.rotation) (reportFrames (s.contents s.report.rotation))
           ∧ t.report.rotation =
               (match s.report.rotation with
                 | .climate => .program
                 | .program => .water
                 | .water => .share
                 | .share => .fault
                 | .fault => .climate)
           ∧ Only [.queue, .freeIndex, .rotation] s t))
  ∧ (∀ before after : State,
       let program :=
         after.store.slot0.code ≠ before.store.slot0.code ∨ after.store.slot1.code ≠ before.store.slot1.code
           ∨ after.runState ≠ before.runState ∨ after.doorHold ≠ before.doorHold ∨ after.tankHold ≠ before.tankHold
           ∨ after.probeHold ≠ before.probeHold ∨ after.activeRun.map Prod.fst ≠ before.activeRun.map Prod.fst
           ∨ after.seq.prompt ≠ before.seq.prompt ∨ after.report.chainRefusal ≠ before.report.chainRefusal
       let water :=
         after.scaleWarning ≠ before.scaleWarning ∨ after.scaleLock ≠ before.scaleLock
           ∨ after.scale.rinseOwed ≠ before.scale.rinseOwed ∨ after.scale.soakCount ≠ before.scale.soakCount
       let fault := ∃ k ∈ FaultKind.all, after.faults.get k ≠ before.faults.get k
       let hand (k : ReportKind) (s : State) : State :=
         { s with bus := s.bus.hand (.report k) (reportFrames (s.contents k)), freeIndex := s.freeIndex + 16 }
       let first := if program then hand .program after else after
       let second := if water then hand .water first else first
       (after.inService = false → before.reported after = after)
       ∧ (after.inService = true → before.reported after = if fault then hand .fault second else second))
  ∧ (∀ bytes : List Byte, 1 ≤ bytes.length → bytes.length ≤ 75 →
       let page (size i : Nat) : List Byte := (List.range size).map (fun j => bytes.getD (i * size + j) 0#8)
       let n := (bytes.length + 6) / 7
       let m := (bytes.length + 4) / 5
       reportFrames bytes = (List.range n).map (fun i => BitVec.ofNat 8 (i * 16 + n) :: page 7 i)
       ∧ queryFrames bytes = (List.range m).map (fun i => [16#8, 0#8, BitVec.ofNat 8 (i * 16 + m)] ++ page 5 i))
  ∧ ∀ s : State,
      let byte (n : Nat) : Byte := BitVec.ofNat 8 n
      let word (n : Nat) : List Byte := [byte (n / 256), byte n]
      let flag (b : Bool) (weight : Nat) : Nat := if b then weight else 0
      let tenths (n : Nat) (v : Option Int) : List Byte :=
        match v with
        | some t => word (t % 65536).toNat
        | none => [s.freeByte n, s.freeByte (n + 1)]
      let four (v : PerLoad Nat) : List Byte := [byte v.top, byte v.bottom, byte v.ring, byte v.boiler]
      let modes : List Mode :=
        [.convection, .topBottom, .grill, .bottomHeat, .steam, .combi, .reheat, .proof, .keepWarm, .wait, .drain, .fill, .soak,
          .rinse]
      let boilers : List BoilerState := [.empty, .filling, .heating, .ready, .steaming, .draining, .standing, .off]
      let shares : List ShareState := [.listen, .steady, .asking, .isolated, .unshared, .quiet]
      let answers : List AnswerCode :=
        [.ok, .clamped, .busy, .notReady, .notLoading, .badMode, .badField, .badIndex, .outOfOrder, .notOriginator, .notPermitted,
          .unknownSource, .scaleLock, .rinseOwed, .faultBlock, .stalePrompt, .noProgram]
      let kind (k : ProgramKind) : Nat := if k = .service then 1 else 0
      let outcome (o : ProgramOutcome) : Nat :=
        match o with
        | .finished => 16
        | .aborted c => 32 + [AbortCause.stopped, .fault, .timeout].idxOf c
      let header (code : Nat) (p : Program) (o : Nat) : List Byte :=
        [byte (code * 32 + kind p.kind * 16 + flag p.chain 8), byte (p.stepCount * 16 + (p.steps.filter Option.isSome).length)]
          ++ word p.tag ++ [byte p.originator, byte o]
      let slot (n : Nat) (v : Slot) : List Byte :=
        match v with
        | .empty =>
          [s.freeByte n &&& 0x18#8, s.freeByte (n + 1), s.freeByte (n + 2), s.freeByte (n + 3), s.freeByte (n + 4), 0#8]
        | .loading p => header 1 p 0
        | .ready p => header 2 p 0
        | .active p => header 3 p 0
        | .done p o => header 4 p (outcome o)
      let run :=
        byte (32 * (match s.runState with
            | none => 0
            | some v => 1 + [RunState.running, .held, .paused, .stopping].idxOf v)
          + flag s.climate.venting 16 + flag s.doorHold 4 + flag s.tankHold 2 + flag s.probeHold 1)
      let position := s.activeRun.map Prod.fst
      s.contents .climate =
          tenths 0 s.climate.cavityReading ++ [byte (s.climate.humidityReading.getD 255)]
            ++ [byte ([CoreStatus.absent, .present, .shorted].idxOf s.climate.coreStatus)] ++ tenths 2 s.climate.coreReading
            ++ [byte ((s.climate.mode.map modes.idxOf).getD 15), byte (s.climate.setpoint.getD 255)]
            ++ [byte (s.climate.humidityTarget.getD 255), run]
            ++ [byte (flag (decide (s.climate.door = some .opened)) 128 + flag (decide (s.climate.flapCommand = .opened)) 64
              + flag (decide (s.climate.flapDriven = .opened)) 32 + flag s.climate.coolingFan 16 + flag s.lampOn 8
              + flag s.climate.degraded 4 + s.convectionFan)]
            ++ [byte s.climate.lastDemand, byte s.climate.lastBoilerDemand]
            ++ four s.load.last.taken ++ four s.load.last.alloc ++ four s.load.last.conducted
            ++ [byte (flag s.load.last.limited 1)]
      ∧ s.contents .program =
          slot 0 s.store.slot0 ++ slot 5 s.store.slot1
            ++ [run, byte ((position.map (fun p => p.slot.number)).getD 255), byte ((position.map Position.step).getD 255)]
            ++ [byte ((position.map (fun p =>
              [Phase.promptIn, .prepare, .preheat, .count, .promptOut, .vent].idxOf p.phase)).getD 255)]
            ++ [byte ((s.seq.workKind.map [EndKind.timed, .banded, .core, .promptOnly].idxOf).getD 15 * 16
              + flag s.scale.drainOnStop 1)]
            ++ word s.seq.elapsed ++ word (s.remaining.getD 0) ++ [byte (s.seq.prompt.getD 255)]
            ++ word (s.seq.promptTimer.getD 65535) ++ word (s.seq.interruption.getD 65535)
            ++ [byte (s.store.lastOutcome.slot * 128 + kind s.store.lastOutcome.kind * 64)]
            ++ [byte (match s.store.lastOutcome.value with
              | .ended o => outcome o
              | .powerDownNone => 35)]
            ++ word s.store.lastOutcome.tag ++ [byte ((s.report.chainRefusal.map answers.idxOf).getD 255)]
      ∧ s.contents .water =
          [byte (boilers.idxOf s.steam.boiler * 32 + flag s.steam.soakHeating 16 + flag (decide (s.steam.low = some .wet)) 8
            + flag (decide (s.steam.high = some .wet)) 4 + flag s.steam.owed.isSome 2)]
            ++ tenths 0 s.steam.boilerReading
            ++ [byte ((match s.steam.tank with
                | some (.present level) => 128 + 32 * [TankLevel.empty, .low, .ok].idxOf level
                | _ => 96)
              + 8 * (match s.tankWait with
                | none => 0
                | some c => 1 + [TankWait.absent, .empty, .budget].idxOf c))]
            ++ [byte s.steam.strokes, byte s.steam.rinsePass, byte ((s.steam.drainTimer.map CycleTimer.seconds).getD 255)]
            ++ [byte ((s.steam.runOn.map CycleTimer.seconds).getD 255)] ++ word s.steam.millilitres
            ++ [byte s.scale.hardness, byte (s.scale.load / 65536), byte (s.scale.load / 256), byte s.scale.load]
            ++ [byte (flag s.scaleWarning 4 + flag s.scaleLock 2 + flag s.scale.rinseOwed 1)] ++ word s.scale.soakCount
      ∧ s.contents .share =
          [byte (shares.idxOf s.share.state * 32 + s.startup.limitClass)] ++ word s.share.hold ++ word s.share.applied
            ++ word s.share.ask ++ word s.load.ceiling ++ [byte s.rank] ++ word s.share.draw.toNat
            ++ [byte s.share.denyCount, byte (flag s.share.starved 128 + flag s.share.tableFull 64 + s.share.coolDown)]
            ++ [byte (s.share.peers.filter (fun p => decide (p.silent ≤ 2))).length]
      ∧ s.contents .fault =
          (FaultKind.all.map s.faults.get).flatMap
              (fun r => [byte (flag r.active 128 + flag r.latched 64), byte r.count])
            ++ [byte s.bus.badFrames, byte s.bus.dropped, byte s.bus.broken]
      ∧ [ReportKind.climate, .program, .water, .share, .fault].map (fun k => (s.contents k).length) = [26, 31, 17, 15, 25]

/-! ## The share engine -/

/-- ANNOUNCEMENT_RECEIVED: the entry of the station is updated, or a new one joins at the end; a full table gives up its earliest
GONE entry of the highest silent count, with the LOADING slots of that station and the staging entries that name them, or else
sets TABLE_FULL. -/
def Obligations.AnnouncementReceived : Prop :=
  ∀ (src : Nat) (payload : List Byte) (s : State), s.receives = true → payload.length = 6 → src ≠ s.station →
    let a := Announcement.ofPayload payload
    (1 ≤ a.station ∧ a.station ≤ 30) → a.station = src → PeersLegal s.station s.share.peers →
    let new : Peer :=
      { station := a.station, kind := a.kind, hold := a.hold, rank := a.rank, draw := a.draw, asking := a.asking
        candidate := a.ask, repeats := 1, settled := none, silent := 0 }
    let known := ∃ p ∈ s.share.peers, p.station = src
    ∃ t, exec (.announcementReceived src payload) s = .next (s.reported t)
      ∧ t.bus.link = .idle ∧ t.share.lfsr = lfsrNext s.share.lfsr
      ∧ (known →
          t.share.peers = s.share.peers.map (fun p =>
            if p.station = src then
              let repeats := if a.ask = p.candidate then min 3 (p.repeats + 1) else 1
              { station := src, kind := a.kind, hold := a.hold, rank := a.rank, draw := a.draw, asking := a.asking
                candidate := a.ask, repeats := repeats, settled := if repeats = 3 then some a.ask else p.settled
                silent := 0 }
            else p)
          ∧ Only [.link, .lfsr, .peers] s t ∧ t.share.tableFull = s.share.tableFull
          ∧ t.share.newcomer = s.share.newcomer)
      ∧ (¬known → s.share.peers.length < 15 →
          t.share.peers = s.share.peers ++ [new] ∧ Only [.link, .lfsr, .peers] s t
          ∧ t.share.tableFull = s.share.tableFull ∧ t.share.newcomer = s.share.newcomer)
      ∧ (¬known → s.share.peers.length = 15 → (∀ p ∈ s.share.peers, p.silent ≤ 2) →
          t.share.peers = s.share.peers ∧ t.share.tableFull = true ∧ t.share.newcomer = 0
          ∧ Only [.link, .lfsr, .peers] s t)
      ∧ (¬known → s.share.peers.length = 15 → ∀ l g r, s.share.peers = l ++ g :: r → 3 ≤ g.silent →
          (∀ p ∈ l, p.silent < g.silent) → (∀ p ∈ r, p.silent ≤ g.silent) →
          t.share.peers = l ++ r ++ [new] ∧ t.share.tableFull = s.share.tableFull ∧ t.share.newcomer = s.share.newcomer
          ∧ (∀ ix, (∃ p, s.store.slot ix = .loading p ∧ p.originator = g.station) → t.store.slot ix = .empty)
          ∧ (∀ ix, (¬∃ p, s.store.slot ix = .loading p ∧ p.originator = g.station) → t.store.slot ix = s.store.slot ix)
          ∧ (let emptied (v : Slot) : Bool :=
              match v with
              | .loading p => decide (p.originator = g.station)
              | _ => false
            t.store.staging = s.store.staging.filter (fun e =>
              !((emptied s.store.slot0 && decide (e.slot = 0)) || (emptied s.store.slot1 && decide (e.slot = 1)))))
          ∧ Only [.link, .lfsr, .peers, .slots, .staging] s t)

/-- Frames that are not taken: a good frame of another station that is an announcement the share engine ignores, is for another
destination, of an unknown kind or class, or a request to all stations ends the frame and advances the LFSR; a request with no
payload also ends QUIET; a bad or abandoned frame is counted, and after an abandoned one no frame is taken before a quiet gap.
-/
def Obligations.FramesThatAreNotTaken : Prop :=
  ∀ s : State, s.receives = true →
    let ended : State :=
      { s with bus := { s.bus with link := .idle, awaitGap := false }, share := { s.share with lfsr := lfsrNext s.share.lfsr } }
    (∀ src payload, src ≠ s.station →
      (payload.length = 6 →
        (Announcement.ofPayload payload).station = 0 ∨ (Announcement.ofPayload payload).station = 31
          ∨ (Announcement.ofPayload payload).station ≠ src) →
      exec (.announcementIgnored src payload) s = .next ended)
    ∧ (∀ f : RxFrame, f.src ≠ s.station →
        (f.dst ≠ s.station ∧ f.dst ≠ 0) ∨ ¬((f.cls = 0 ∧ f.kind = 0) ∨ (f.cls = 1 ∧ f.kind = 0 ∧ f.dst = s.station))
          ∨ (f.cls = 0 ∧ f.kind = 0 ∧ f.payload.length ≠ 6) →
        exec (.frameNotAccepted f) s = .next ended ∧ exec (.frameDropped f) s = .next ended)
    ∧ (∀ f : RxFrame, f.src ≠ s.station → f.cls = 1 → f.kind = 0 → f.dst = s.station → f.payload = [] →
        exec (.frameDropped f) s = .next s.heard)
    ∧ exec .badFrame s
        = .next { s with bus := { s.bus with link := .idle, awaitGap := false, badFrames := min 255 (s.bus.badFrames + 1) } }
    ∧ exec .frameAbandoned s
        = .next
            { s with bus := { s.bus with link := .receiving, awaitGap := true, badFrames := min 255 (s.bus.badFrames + 1) } }
    ∧ (let waits : State := { s with bus := { s.bus with link := .receiving, awaitGap := true } }
      (∀ f, exec (.frameNotAccepted f) waits = .next waits ∧ exec (.frameDropped f) waits = .next waits)
        ∧ exec .badFrame waits = .next waits ∧ exec .frameAbandoned waits = .next waits)

/-- DUPLICATE_STATION: a good frame with the part's own source while it does not send makes the record active, not latched, with
count 1 more; further such frames change nothing of it. Nothing but RESET ends it. -/
def Obligations.DuplicateStationStaysUntilReset : Prop :=
  (∀ (cls kind dst : Nat) (payload : List Byte) (s : State), s.receives = true →
    ∃ u, exec (.duplicateStation cls kind dst payload) s = .next (s.reported u.runSettle)
      ∧ u.faults.duplicateStation =
          (if s.faults.duplicateStation.active then { s.faults.duplicateStation with latched := false }
            else ⟨true, false, min 255 (s.faults.duplicateStation.count + 1)⟩)
      ∧ u.bus.link = .idle ∧ u.share.lfsr = lfsrNext s.share.lfsr
      ∧ Only [.link, .lfsr, .queue, .sharing, .ceiling, .withdrawn, .fault .duplicateStation] s u)
    ∧ ∀ (c : Instr) (s t : State), (∀ a b d e, c ≠ .reset a b d e) → s.faults.duplicateStation.active = true →
        exec c s = .next t → t.faults.duplicateStation.active = true

/-- ANNOUNCE_TICK ages the peer table in every share state; an entry removed takes the LOADING slots of its station with it, and
the staging entries that name them. The rows for an entry removed, TABLE_FULL cleared, the end of
LISTEN and the entry to QUIET are that tick. Outside QUIET the tick hands the part's announcement, with the values its walks have
left. In QUIET nothing else of the share engine changes. LISTEN_END and QUIET_ENTRY. The
tick that brings the listen count to 3 leaves LISTEN: to UNSHARED without a limit, to ASKING with a ceiling above 0, else to
STEADY. The tick that brings the quiet count to 120 at rest enters QUIET. -/
def Obligations.AnnounceTickAgesAndLeavesListen : Prop :=
  (∀ s : State, s.inService = true →
     let aged := s.share.peers.map (fun p => { p with silent := min 7 (p.silent + 1) })
     let kept := aged.filter (fun p => decide (p.silent ≠ 7))
     let news := min 7 (s.share.newcomer + 1)
     let clears := s.share.tableFull = true ∧ (kept.length < 15 ∨ ∃ p ∈ kept, 3 ≤ p.silent) ∧ news = 7
     ∃ t, exec .announceTick s = .next (s.reported t)
       ∧ (t.share.peers = kept ∧ t.share.newcomer = news
         ∧ (t.share.tableFull = true ↔ s.share.tableFull = true ∧ ¬clears))
       ∧ (∀ ix p, s.store.slot ix = .loading p → (∃ q ∈ aged, q.silent = 7 ∧ q.station = p.originator) →
           t.store.slot ix = .empty)
       ∧ (∀ ix, (¬∃ p, s.store.slot ix = .loading p ∧ ∃ q ∈ aged, q.silent = 7 ∧ q.station = p.originator) →
           t.store.slot ix = s.store.slot ix)
       ∧ (let emptied (v : Slot) : Bool :=
           match v with
           | .loading p => aged.any (fun q => decide (q.silent = 7) && decide (q.station = p.originator))
           | _ => false
         t.store.staging = s.store.staging.filter (fun e =>
           !((emptied s.store.slot0 && decide (e.slot = 0)) || (emptied s.store.slot1 && decide (e.slot = 1)))))
       ∧ (s.share.state = .quiet → Only [.peers, .slots, .staging] s t)
       ∧ (s.share.state = .quiet → t.bus = s.bus)
       ∧ (s.share.state ≠ .quiet → ¬(s.share.state = .listen ∧ 2 ≤ s.share.listenCount) → s.mainsOut = false →
           t.bus = s.bus.hand (.announce t.announcedAsk t.share.draw) [t.ownAnnouncement])
       ∧ Only [.peers, .slots, .staging, .coolDown, .sharing, .queue] s t
       ∧ (∀ p ∈ aged, p.silent = 7 → exec (.peerEntryRemoved p.station) s = exec .announceTick s)
       ∧ (∀ n, (¬∃ p ∈ aged, p.silent = 7 ∧ p.station = n) → exec (.peerEntryRemoved n) s = .next s)
       ∧ (clears → exec .tableFullCleared s = exec .announceTick s)
       ∧ (¬clears → exec .tableFullCleared s = .next s))
  ∧ (∀ s : State, s.inService = true → ¬(s.mainsOut = true ∧ s.cutOff = true) →
       (s.share.state = .listen → s.share.listenCount = 2 →
         ∃ t, exec .listenEnd s = .next (s.reported t) ∧ exec .announceTick s = exec .listenEnd s
           ∧ t.share.listenCount = 3
           ∧ (s.limit = none → t.share.state = .unshared)
           ∧ (s.limit ≠ none → s.load.ceiling = 0 → t.share.state = .steady)
           ∧ (s.limit ≠ none → 0 < s.load.ceiling →
               t.share.state = .asking ∧ t.share.ask = s.load.ceiling ∧ t.share.draw = s.share.lfsr ∧ t.share.ownCount = 0
                 ∧ t.share.denyCount = 0)
           ∧ (t.share.hold = s.share.hold ∧ t.share.applied = s.share.applied)
           ∧ Only [.sharing, .coolDown, .peers, .slots, .staging, .queue] s t)
       ∧ (¬(s.share.state = .listen ∧ s.share.listenCount = 2) → exec .listenEnd s = .next s)
       ∧ (s.share.state = .steady ∨ s.share.state = .unshared → s.seq.run = none → s.share.hold = 0 → s.load.ceiling = 0 →
           s.share.pendingCut = 0 → s.share.quietCount = 119 →
           ∃ t, exec .quietEntry s = .next (s.reported t) ∧ exec .announceTick s = exec .quietEntry s
             ∧ t.share.state = .quiet ∧ t.share.quietCount = 120 ∧ t.share.hold = 0
             ∧ Only [.sharing, .coolDown, .peers, .slots, .staging, .queue] s t)
       ∧ (s.share.state = .quiet ∨ s.share.quietCount + 1 < 120 → exec .quietEntry s = .next s))

/-- ANNOUNCE_TICK under a limit L in STEADY, ASKING and ISOLATED: the grant g is the part's need, at most what the free margin
leaves after the askers ahead; the yield y covers the urgent unmet need after the worse holders; the shed x covers the excess over
L after the worse holders; y and x are added to the pending reduction and start the cool-down. While MAINS is active what the
walks decide applies at once, and so does an entry to ISOLATED: the hold falls as a boundary would have it fall, the applied budget
takes the new hold, nothing stays pending, and an announcement is queued before the tick's own. LINK and DUPLICATE_STATION
becoming active do the same. The model's own in it: under MAINS any pending reduction goes at once and an entry to ISOLATED is
announced even where the hold does not fall (log 13); the ask register is kept where a full grant ends the round in STEADY
(log 40); the pending reduction is at most 2,047 (log 33). -/
def Obligations.AnnounceTickWalks : Prop :=
  (∀ (L : Nat) (s : State), s.inService = true → s.limit = some L →
    (s.share.state = .steady ∨ s.share.state = .asking ∨ s.share.state = .isolated) →
    s.share.pendingCut ≤ 2047 → PeersLegal s.station s.share.peers →
    let asking := s.share.state = .asking
    let isolated := s.share.state = .isolated
    let peerHolds := s.sumCounted Peer.hold (fun _ => true)
    let worseHolds := s.sumCounted Peer.hold (fun p => !s.ahead p)
    let margin : Int := (L : Int) - 15 - peerHolds - s.share.hold
    let need := s.share.ask - s.share.hold
    let permitted := asking ∧ s.share.ownCount = 3 ∧ s.share.coolDown = 0 ∧ s.share.tableFull = false
    let g := if permitted then min need (margin - s.sumCounted Peer.need s.ahead).toNat else 0
    let urgent := s.sumCounted Peer.need (fun p => decide (p.rank < s.rank)) - margin.toNat
    let y := if isolated then 0 else min (s.share.hold + g) (urgent - s.sumCounted Peer.hold (fun p => !s.ahead p))
    let left := s.share.hold + g - y
    let x := min left (left + peerHolds - L - worseHolds)
    let denied := min 255 (s.share.denyCount + 1)
    let walked : State :=
      { s with
        share :=
          { s.share with
            hold := s.share.hold + g
            pendingCut := min 2047 (s.share.pendingCut + y + x)
            coolDown := if 0 < y ∨ 0 < x then 6 else s.share.coolDown - 1
            denyCount := if permitted then (if 0 < g then 0 else denied) else s.share.denyCount
            starved := if permitted then (if 0 < g then false else s.share.starved || decide (16 ≤ denied)) else s.share.starved
            state := if asking ∧ 0 < g ∧ g = need then .steady else s.share.state } }
    let m := walked.mainsApply
    ∃ t, exec .announceTick s = .next (s.reported t)
      ∧ (t.share.hold = m.share.hold ∧ t.share.applied = m.share.applied ∧ t.share.pendingCut = m.share.pendingCut)
      ∧ (t.share.coolDown = m.share.coolDown ∧ t.share.denyCount = m.share.denyCount ∧ t.share.starved = m.share.starved)
      ∧ (t.share.ask = s.share.ask ∧ t.share.draw = s.share.draw ∧ t.share.ownCount = m.share.ownCount)
      ∧ (m.share.state ≠ .steady ∨ 0 < m.share.hold → t.share.state = m.share.state)
      ∧ t.bus = m.bus.hand (.announce m.announcedAsk m.share.draw) [m.ownAnnouncement]
      ∧ (s.mainsOut = false → m = walked)
      ∧ Only [.sharing, .coolDown, .peers, .slots, .staging, .queue] s t)
  ∧ (∀ s : State,
    let enters := (s.faults.link.active = true ∨ s.faults.duplicateStation.active = true) ∧ s.share.state ≠ .isolated
    let h : Share :=
      if enters then
        { s.share with
          state := .isolated, ownCount := 0, listenCount := 0, quietCount := 0, denyCount := 0, starved := false }
      else s.share
    let target := match s.limit with
      | none => s.load.ceiling
      | some L => min s.load.ceiling (L / 2)
    let cut := h.hold - h.pendingCut
    let hold := match h.state with
      | .steady => min cut s.load.ceiling
      | .asking => cut
      | .isolated => min target cut
      | .unshared => min s.load.ceiling h.hold
      | _ => h.hold
    let u : State := { s with share := { h with hold := hold, applied := hold, pendingCut := 0 } }
    (s.mainsOut = false → s.mainsApply = s)
    ∧ (s.mainsOut = true → ¬enters → hold = h.hold → s.mainsApply = s)
    ∧ (s.mainsOut = true → enters ∨ hold < h.hold →
        s.mainsApply = { u with bus := s.bus.hand (.announce u.announcedAsk u.share.draw) [u.ownAnnouncement] }))
  ∧ ∀ (k : FaultKind) (s : State), k = .link ∨ k = .duplicateStation → (s.faults.get k).active = false → s.Follows →
      s.raise k = State.mainsApply { s with faults := s.faults.set k ⟨true, false, min 255 ((s.faults.get k).count + 1)⟩ }

/-- Where a command leaves the hold higher than it was, either the share state it leaves is ISOLATED or UNSHARED, or there is a
limit L and the new hold, the holds of the counted peers and the reserve of 15 units together are at most L. -/
def Obligations.HoldRisesWithinTheReserve : Prop :=
  ∀ (c : Instr) (s t : State), exec c s = .next t → s.share.hold < t.share.hold →
    t.share.state = .isolated ∨ t.share.state = .unshared
      ∨ ∃ L, s.limit = some L ∧ t.share.hold + s.sumCounted Peer.hold (fun _ => true) + 15 ≤ L

/-- The share engine at a frame boundary: in STEADY and ASKING the pending reduction is taken off and, in STEADY, the hold
released to the ceiling; in ISOLATED and UNSHARED the hold follows its target; the applied budget takes the hold; a STEADY part
short of its ceiling starts an ask round; LINK or DUPLICATE_STATION takes any state to ISOLATED first. A hold that falls queues an
announcement with the new hold, and the start of a round queues one with the new ask and draw. The fields of the part's own
announcement by share state, their places in its six bytes, and the fields read from the six bytes of a peer's. -/
def Obligations.BoundarySettlesTheHold : Prop :=
  ∀ s : State,
    let t := s.shareBoundary
    let cut := s.share.hold - s.share.pendingCut
    let target := match s.limit with
      | none => s.load.ceiling
      | some L => min s.load.ceiling (L / 2)
    let isolated :=
      if 0 < s.share.pendingCut then min target cut
      else if 0 < s.share.coolDown then min target s.share.hold
      else target
    (s.cutOff = false →
      (s.share.state = .steady →
        t.share.hold = min cut s.load.ceiling ∧ t.share.applied = t.share.hold ∧ t.share.pendingCut = 0
        ∧ (t.share.hold < s.load.ceiling →
            t.share.state = .asking ∧ t.share.ask = s.load.ceiling ∧ t.share.draw = s.share.lfsr ∧ t.share.ownCount = 0
              ∧ t.share.denyCount = 0)
        ∧ (t.share.hold = s.load.ceiling → t.share.state = .steady ∧ t.share.ask = s.share.ask
              ∧ t.share.draw = s.share.draw))
      ∧ (s.share.state = .asking →
          t.share = { s.share with hold := cut, applied := cut, pendingCut := 0 })
      ∧ (s.share.state = .unshared →
          t.share = { s.share with hold := s.load.ceiling, applied := s.load.ceiling, pendingCut := 0 })
      ∧ (s.share.state = .isolated →
          t.share = { s.share with hold := isolated, applied := isolated, pendingCut := 0 })
      ∧ (s.share.state = .listen ∨ s.share.state = .quiet → t = s))
    ∧ (s.cutOff = true →
        t.share.state = .isolated ∧ t.share.hold = isolated ∧ t.share.applied = isolated ∧ t.share.pendingCut = 0
        ∧ (s.share.state ≠ .isolated →
            t.share.ownCount = 0 ∧ t.share.listenCount = 0 ∧ t.share.quietCount = 0 ∧ t.share.denyCount = 0
              ∧ t.share.starved = false))
    ∧ (let handed (u : State) (b : BusLink) := b.hand (.announce u.announcedAsk u.share.draw) [u.ownAnnouncement]
      let round := s.cutOff = false ∧ s.share.state = .steady ∧ t.share.hold < s.load.ceiling
      let settled : State :=
        { t with share := { t.share with draw := s.share.draw, state := if round then .steady else t.share.state } }
      let fallen := if t.share.hold < s.share.hold then handed settled s.bus else s.bus
      t.bus = if round then handed t fallen else fallen)
    ∧ Only [.sharing, .queue] s t
    ∧ (let asking := s.share.state = .asking ∨ (s.share.state = .listen ∧ 0 < s.load.ceiling)
      let shedding := 0 < s.share.pendingCut ∨ 0 < s.share.coolDown
      s.announcedAsk = (if s.share.state = .asking then s.share.ask else s.load.ceiling)
      ∧ (s.station < 32 → s.share.hold ≤ 2047 → s.announcedAsk ≤ 2047 → s.rank ≤ 3 →
          ∃ b0 b1 b2 b3 b4 b5 : Byte, s.ownAnnouncement = [b0, b1, b2, b3, b4, b5]
            ∧ b0.toNat * 2 ^ 40 + b1.toNat * 2 ^ 32 + b2.toNat * 2 ^ 24 + b3.toNat * 2 ^ 16 + b4.toNat * 2 ^ 8 + b5.toNat =
                s.station * 2 ^ 43 + 2 * 2 ^ 40 + s.share.hold * 2 ^ 29 + s.announcedAsk * 2 ^ 18 + s.rank * 2 ^ 16
                  + s.share.draw.toNat * 2 ^ 5 + (if asking then 16 else 0) + (if shedding then 8 else 0)
                  + (if s.share.state = .isolated then 4 else 0)))
    ∧ ∀ b0 b1 b2 b3 b4 b5 : Byte,
        let n := b0.toNat * 2 ^ 40 + b1.toNat * 2 ^ 32 + b2.toNat * 2 ^ 24 + b3.toNat * 2 ^ 16 + b4.toNat * 2 ^ 8 + b5.toNat
        Announcement.ofPayload [b0, b1, b2, b3, b4, b5] =
          { station := n / 2 ^ 43 % 32
            kind :=
              match n / 2 ^ 40 % 8 with
              | 0 => .panel
              | 1 => .cooktop
              | 2 => .oven
              | 3 => .hood
              | 4 => .module
              | _ => .other
            hold := n / 2 ^ 29 % 2048, ask := n / 2 ^ 18 % 2048, rank := n / 2 ^ 16 % 4, draw := n / 2 ^ 5 % 2048
            asking := decide (n / 2 ^ 4 % 2 = 1) }

/-! ## Crossings and frames -/

/-- The rows that a counted crossing brings about are that crossing, when their counter reaches its end at it; otherwise there is
no such event (log 2). -/
def Obligations.CounterEventsAreCrossings : Prop :=
  ∀ s : State,
    let second := s.crossingRuns = true ∧ s.perSecond ≤ s.seq.clock + 1
    (second → exec .second s = exec .zeroCrossing s) ∧ (¬second → exec .second s = .next s)
    ∧ (second → s.seq.promptTimer = some 3599 → exec .promptTimeout s = exec .zeroCrossing s)
    ∧ (¬(second ∧ s.seq.promptTimer = some 3599) → exec .promptTimeout s = .next s)
    ∧ (second → s.seq.interruption = some 1799 → exec .interruptionTimeout s = exec .zeroCrossing s)
    ∧ (¬(second ∧ s.seq.interruption = some 1799) → exec .interruptionTimeout s = .next s)
    ∧ (second → s.counts = true → s.countSecond.durationReached = true →
        exec (if s.serviceActive then .soakComplete else .stepCountEnd) s = exec .zeroCrossing s
        ∧ exec (if s.serviceActive then .stepCountEnd else .soakComplete) s = .next s)
    ∧ (¬(second ∧ s.counts = true ∧ s.countSecond.durationReached = true) →
        exec .stepCountEnd s = .next s ∧ exec .soakComplete s = .next s)
    ∧ (s.Reaches 60 s.load.doorTimer → exec .doorOpenMinute s = exec .zeroCrossing s)
    ∧ (¬s.Reaches 60 s.load.doorTimer → exec .doorOpenMinute s = .next s)
    ∧ (s.Reaches 20 s.climate.ventTimer → exec .ventComplete s = exec .zeroCrossing s)
    ∧ (¬s.Reaches 20 s.climate.ventTimer → exec .ventComplete s = .next s)
    ∧ (s.crossingRuns = true ∧ s.steam.boiler = .filling ∧ s.suspended = false ∧ s.steam.stroke = .running 24 →
        exec .strokeEnd s = exec .zeroCrossing s)
    ∧ (¬(s.crossingRuns = true ∧ s.steam.boiler = .filling ∧ s.suspended = false ∧ s.steam.stroke = .running 24) →
        exec .strokeEnd s = .next s)
    ∧ (s.Reaches 600 s.steam.coolWait ∧ s.boilerInUse = none → exec .coolWaitExpired s = exec .zeroCrossing s)
    ∧ (¬(s.Reaches 600 s.steam.coolWait ∧ s.boilerInUse = none) → exec .coolWaitExpired s = .next s)
    ∧ (s.valveOpen = true ∧ s.Reaches 20 s.steam.runOn → exec .drainComplete s = exec .zeroCrossing s)
    ∧ (¬(s.valveOpen = true ∧ s.Reaches 20 s.steam.runOn) → exec .drainComplete s = .next s)
    ∧ (s.valveOpen = true ∧ s.steam.runOn = none ∧ s.Reaches 90 s.steam.drainTimer →
        exec .drainTimeout s = exec .zeroCrossing s)
    ∧ (¬(s.valveOpen = true ∧ s.steam.runOn = none ∧ s.Reaches 90 s.steam.drainTimer) → exec .drainTimeout s = .next s)

/-- ZERO_CROSSING. Within a frame the cycle count advances, each gate follows its plan, its withdrawal and, for the boiler, the
LOW probe, what conducts is counted, and every timer counts. With no frame due it advances the LFSR alone; during the mains
measurement it is counted (log 12); a due boundary takes the inputs as they stand (log 9). Within a frame, and at a boundary that
begins one, `fireRest` is what the timers have reached, and then the examination of the door switch. -/
def Obligations.ZeroCrossing : Prop :=
  ∀ s : State,
    (s.startup.stage = .configFault → exec .zeroCrossing s = .next s)
    ∧ (s.startup.stage = .measuring →
        exec .zeroCrossing s = .next { s with startup := { s.startup with crossings := s.startup.crossings + 1 } })
    ∧ (s.inService = true → s.crossingRuns = false →
        exec .zeroCrossing s = .next { s with share := { s.share with lfsr := lfsrNext s.share.lfsr } })
    ∧ (s.boundaryDue = true → exec .zeroCrossing s = exec (.frameBoundary s.inputs 400) s)
    ∧ (s.InFrame →
        let k := s.load.cycle + 1
        let on (i : Load) : Bool :=
          decide (k ∈ s.load.plan.get i) && !s.load.withdrawn.get i && (decide (i ≠ .boiler) || decide (s.steam.low = some .wet))
        let steaming := s.steam.boiler = .steaming
        ∃ u, exec .zeroCrossing s = .next (s.reported (u.fireDrain.fireRest (decide (s.perSecond ≤ s.seq.clock + 1))))
          ∧ u = s.crossed
          ∧ u.share = { s.share with lfsr := lfsrNext s.share.lfsr }
          ∧ u.load =
              { s.load with
                cycle := k
                gates := ⟨on .top, on .bottom, on .ring, on .boiler⟩
                conducted :=
                  { top := s.load.conducted.top + (if on .top then 1 else 0)
                    bottom := s.load.conducted.bottom + (if on .bottom then 1 else 0)
                    ring := s.load.conducted.ring + (if on .ring then 1 else 0)
                    boiler := s.load.conducted.boiler + (if on .boiler then 1 else 0) }
                steamingCount := s.load.steamingCount + (if on .boiler = true ∧ steaming then 1 else 0)
                doorTimer := s.load.doorTimer.map (CycleTimer.tick s.perSecond 60) }
          ∧ u.climate = { s.climate with ventTimer := s.climate.ventTimer.map (CycleTimer.tick s.perSecond 20) }
          ∧ u.seq = { s.seq with clock := if s.perSecond ≤ s.seq.clock + 1 then 0 else s.seq.clock + 1 }
          ∧ (u.steam.coolWait = s.steam.coolWait.map (CycleTimer.tick s.perSecond 600)
            ∧ u.steam.drainTimer =
                (if s.valveOpen then s.steam.drainTimer.map (CycleTimer.tick s.perSecond 110) else s.steam.drainTimer)
            ∧ u.steam.runOn =
                (if s.valveOpen then s.steam.runOn.map (CycleTimer.tick s.perSecond 20) else s.steam.runOn))
          ∧ Only [.lfsr, .frame, .gates, .ventTimer, .doorTimer, .clock, .boiler, .scaleFlags, .writes] s u)
    ∧ ∀ (perSecond cap : Nat) (t : CycleTimer),
        t.tick perSecond cap =
          (if cap ≤ t.seconds then t
            else if perSecond ≤ t.cycles + 1 then ⟨t.seconds + 1, 0⟩ else ⟨t.seconds, t.cycles + 1⟩)

/-- FRAME_BOUNDARY. The frame in progress ends; a length outside 307 to 445 ms sets MAINS, and no frame begins. Otherwise the
crossing is counted, the sample taken and tested, the hold settled, the regulators run, the boiler's transition made, and the new
frame begins: demands forced, allocated to the budget, placed, and the gates of cycle 0 switched. The boiler's transition under
STEAM, one at most, where READY with a handed demand and below 90.0 °C goes to STEAMING by the model's choice (log 47), and the
demand the boiler states. -/
def Obligations.FrameBoundary : Prop :=
  (∀ s : State,
    let now := s.steam.boiler
    let demand := s.climate.lastBoilerDemand
    let atLeast (x : Int) := ∃ c, s.boilerInUse = some c ∧ x ≤ c
    let below (x : Int) := ∃ c, s.boilerInUse = some c ∧ c < x
    let goes (b : BoilerState) := s.boilerBoundary = { s with steam := { s.steam with boiler := b } }
    let paused := s.runState = some .paused
    (s.steam.request ≠ .steam ∨ (now ≠ .heating ∧ now ≠ .ready ∧ now ≠ .steaming) → s.boilerBoundary = s)
    ∧ (s.steam.request = .steam →
        (now = .heating → (atLeast 980 → goes .ready) ∧ (¬atLeast 980 → s.boilerBoundary = s))
        ∧ (now = .ready →
            (0 < demand → goes .steaming) ∧ (demand = 0 → below 900 → goes .heating)
            ∧ (demand = 0 → ¬below 900 → s.boilerBoundary = s))
        ∧ (now = .steaming → (demand = 0 → goes .ready) ∧ (0 < demand → s.boilerBoundary = s)))
    ∧ (paused → s.statedDemand = 0)
    ∧ (¬paused →
        (now = .heating → s.statedDemand = 20)
        ∧ (now = .ready → (below 990 → s.statedDemand = 4) ∧ (¬below 990 → s.statedDemand = 0))
        ∧ (now = .steaming → s.statedDemand = demand)
        ∧ (now = .off → s.steam.soakHeating = true →
            (below 570 → s.statedDemand = 20) ∧ (atLeast 570 → below 600 → s.statedDemand = 5)
            ∧ (¬below 600 → s.statedDemand = 0))
        ∧ (now = .off → s.steam.soakHeating = false → s.statedDemand = 0)
        ∧ (now = .empty ∨ now = .filling ∨ now = .draining ∨ now = .standing → s.statedDemand = 0)))
  ∧ ∀ (smp : Sample) (ms : Nat) (s : State),
    (s.boundaryDue = false → exec (.frameBoundary smp ms) s = .next s)
    ∧ (s.boundaryDue = true → s.load.running = true ∧ (ms < 307 ∨ 445 < ms) →
        exec (.frameBoundary smp ms) s = .next (s.reported ((s.advanceLfsr.endFrame).raise .mains).runSettle))
    ∧ (s.boundaryDue = true → ¬(s.load.running = true ∧ (ms < 307 ∨ 445 < ms)) →
        ∃ b t, exec (.frameBoundary smp ms) s
              = .next (s.reported (t.fireDrain.fireRest (decide (s.perSecond ≤ s.seq.clock + 1))))
          ∧ b = (((((((s.advanceLfsr.endFrame).countCrossing).sampleAll smp).sampleTests true).runSettle).shareBoundary).regulate).boilerBoundary.runSettle
          ∧ (let d := b.frameDemands b.statedDemand
            let cut (i : Load) := b.climate.door = some .opened ∨ b.loadCut i = true
            let boilerOff := b.steam.low ≠ some .wet ∨
              ¬(b.steam.boiler = .heating ∨ b.steam.boiler = .ready ∨ b.steam.boiler = .steaming
                ∨ b.steam.soakHeating = true)
            t.load.running = true ∧ t.load.cycle = 0
            ∧ t.load.taken =
                { top := if cut .top then 0 else d.top
                  bottom := if cut .bottom then 0 else d.bottom
                  ring := if cut .ring then 0 else d.ring
                  boiler :=
                    if cut .boiler ∨ boilerOff then 0
                    else if 600000 ≤ b.scale.load then min d.boiler 16 else d.boiler }
            ∧ t.load.alloc = allocate (ratings b.startup.variant) t.load.taken b.frameBudget
            ∧ (∀ i, t.load.plan.get i = placed i.index (t.load.alloc.get i))
            ∧ t.load.limited = decide (b.frameBudget < energy (ratings b.startup.variant) t.load.taken)
            ∧ (∀ i, t.load.gates.get i = true ↔
                0 ∈ t.load.plan.get i ∧ b.load.withdrawn.get i = false ∧ (i = .boiler → b.steam.low = some .wet))
            ∧ (∀ i, t.load.conducted.get i = b.load.conducted.get i + (if t.load.gates.get i then 1 else 0)))
          ∧ Only [.frame, .gates] b t)

/-- The end of a frame: the last-frame record takes it and its counts are cleared; the boiler's steaming energy goes into the
evaporation accumulator, whole millilitres are converted and add the hardness to the scale load; a crossing of the warning or the
lock requests a retained write. -/
def Obligations.FrameEndHandsOverTheSteamingEnergy : Prop :=
  ∀ s : State, s.load.running = true → s.scale.load ≤ 1000000 →
    let t := s.endFrame
    let threshold := match s.startup.freq with
      | some .hz60 => 156000
      | _ => 130000
    let boilerWatts := match s.startup.variant with
      | 0 => 1800
      | 1 => 1500
      | 2 => 2000
      | _ => 2400
    let total := s.steam.evaporation + boilerWatts * s.load.steamingCount
    let ml := total / threshold
    let crosses (level : Nat) := s.scale.load < level ∧ level ≤ t.scale.load
    t.load.last = ⟨s.load.taken, s.load.alloc, s.load.conducted, s.load.limited⟩
    ∧ (t.load.running = false ∧ t.load.conducted = ⟨0, 0, 0, 0⟩ ∧ t.load.steamingCount = 0
      ∧ t.load.withdrawn = ⟨false, false, false, false⟩)
    ∧ (t.load.taken = s.load.taken ∧ t.load.alloc = s.load.alloc ∧ t.load.plan = s.load.plan ∧ t.load.gates = s.load.gates)
    ∧ (t.steam.evaporation = total % threshold ∧ t.steam.millilitres = min 65535 (s.steam.millilitres + ml))
    ∧ t.scale.load = min 1000000 (s.scale.load + s.scale.hardness * ml)
    ∧ (¬crosses 600000 → ¬crosses 900000 → t.retained = s.retained)
    ∧ (ml = 1 → crosses 600000 ∨ crosses 900000 →
        t.retained =
          (match s.retained.writing with
            | none => { s.retained with writing := some ⟨s.scale.hardness, t.scale.load, s.scale.rinseOwed, s.scale.soakCount⟩ }
            | some _ =>
              { s.retained with
                pendingWrite := some ⟨s.scale.hardness, t.scale.load, s.scale.rinseOwed, s.scale.soakCount⟩ }))
    ∧ Only [.frame, .withdrawn, .evaporation, .millilitres, .scaleLoad, .writes, .ceiling, .sharing, .queue] s t

/-- The ceiling of a step: the formula from the ratings and the caps, and the two tables of ceilings. The ceiling of a situation:
0 with no slot ACTIVE and in a WAIT step, the base load when PAUSED or when the door has stood open 60 s, else the step's, in
every phase and run state. -/
def Obligations.Ceilings : Prop :=
  ((∀ (variant : Nat) (warning : Bool) (m : Mode), m ≠ .wait →
     let boiler := if warning then 16 else 20
     let cap (i : Load) : Nat :=
       match i with
       | .boiler =>
         match m with
         | .steam | .combi | .reheat | .proof | .fill | .soak => boiler
         | _ => 0
       | j => 20 * m.weight j / 4
     let watts :=
       Config.baseWatts variant + Config.topWatts variant * cap .top / 20 + Config.bottomWatts variant * cap .bottom / 20
         + Config.ringWatts variant * cap .ring / 20 + Config.boilerWatts variant * cap .boiler / 20
     stepCeiling variant warning m = (watts + 9) / 10)
   ∧ (∀ variant warning, stepCeiling variant warning .wait = 0)
   ∧ (let row (warning : Bool) (m : Mode) := [0, 1, 2, 3].map (fun v => stepCeiling v warning m)
     row false .convection = [198, 167, 219, 199] ∧ row false .topBottom = [231, 202, 259, 232]
       ∧ row false .grill = [148, 127, 169, 149] ∧ row false .bottomHeat = [118, 107, 129, 119]
       ∧ row false .steam = [188, 157, 209, 249] ∧ row false .combi = [378, 317, 419, 439]
       ∧ row false .reheat = [378, 317, 419, 439] ∧ row false .proof = [243, 207, 269, 304]
       ∧ row false .keepWarm = [133, 117, 149, 134] ∧ row false .fill = [188, 157, 209, 249]
       ∧ row false .soak = [188, 157, 209, 249] ∧ row false .drain = [8, 7, 9, 9] ∧ row false .rinse = [8, 7, 9, 9]
       ∧ row true .steam = [152, 127, 169, 201] ∧ row true .fill = [152, 127, 169, 201]
       ∧ row true .soak = [152, 127, 169, 201] ∧ row true .combi = [342, 287, 379, 391]
       ∧ row true .reheat = [342, 287, 379, 391] ∧ row true .proof = [207, 177, 229, 256])
   ∧ (∀ variant warning m i, Load.watts variant i * capOf warning m i % 20 = 0))
  ∧ (∀ s : State,
       let base := match s.startup.variant with
         | 0 => 8
         | 1 => 7
         | _ => 9
       (s.hasActive = false → s.ceilingNow = 0)
       ∧ ∀ r, s.activeStep = some r →
           (r.mode = .wait → s.ceilingNow = 0)
           ∧ (r.mode ≠ .wait → s.runState = some .paused → s.ceilingNow = base)
           ∧ (r.mode ≠ .wait → (∃ t, s.load.doorTimer = some t ∧ 60 ≤ t.seconds) → s.ceilingNow = base)
           ∧ (r.mode ≠ .wait → s.runState ≠ some .paused → (∀ t, s.load.doorTimer = some t → t.seconds < 60) →
               s.ceilingNow = stepCeiling s.startup.variant (decide (600000 ≤ s.scale.load)) r.mode))

/-- The frame budget and the requested energy: demands that fit are allocated whole; others are scaled, with the limited flag set.
A scaled allocation is the floor share of each load, then one top-up pass over BOILER, RING, TOP, BOTTOM, each taking the cycles
that the remainder pays for up to its demand. No allocation exceeds its demand, and no allocation's energy exceeds the budget. -/
def Obligations.AllocationWithinTheBudget : Prop :=
  (∀ (s : State) (d : PerLoad Nat),
     let v := s.startup.variant
     let base := if s.hasActive then (match v with | 0 => 80 | 1 => 70 | _ => 90) else 0
     let budget := (s.share.applied * 10 - base) * 20
     let p : PerLoad Nat := ⟨Config.topWatts v, Config.bottomWatts v, Config.ringWatts v, Config.boilerWatts v⟩
     let taken := s.takenDemands d
     let requested := p.top * taken.top + p.bottom * taken.bottom + p.ring * taken.ring + p.boiler * taken.boiler
     let t := (s.beginFrame d).load
     t.taken = taken
     ∧ (requested ≤ budget → t.alloc = taken ∧ t.limited = false)
     ∧ (budget < requested → t.limited = true ∧ t.alloc = scaled p taken budget)
     ∧ (s.share.applied = 0 → t.alloc = ⟨0, 0, 0, 0⟩ ∧ (t.limited = true ↔ taken ≠ ⟨0, 0, 0, 0⟩))
     ∧ (∀ i, t.alloc.get i ≤ taken.get i)
     ∧ p.top * t.alloc.top + p.bottom * t.alloc.bottom + p.ring * t.alloc.ring + p.boiler * t.alloc.boiler ≤ budget)
  ∧ (∀ (p d : PerLoad Nat) (budget : Nat), 0 < p.top → 0 < p.bottom → 0 < p.ring → 0 < p.boiler →
       let requested := p.top * d.top + p.bottom * d.bottom + p.ring * d.ring + p.boiler * d.boiler
       budget < requested →
       let share (n : Nat) := n * budget / requested
       let t := scaled p d budget
       ∃ rm kb kr kt km,
         rm + (p.top * share d.top + p.bottom * share d.bottom + p.ring * share d.ring + p.boiler * share d.boiler) = budget
         ∧ t = ⟨share d.top + kt, share d.bottom + km, share d.ring + kr, share d.boiler + kb⟩
         ∧ p.boiler * kb + p.ring * kr + p.top * kt + p.bottom * km ≤ rm
         ∧ (t.top ≤ d.top ∧ t.bottom ≤ d.bottom ∧ t.ring ≤ d.ring ∧ t.boiler ≤ d.boiler)
         ∧ (t.boiler = d.boiler ∨ rm - p.boiler * kb < p.boiler)
         ∧ (t.ring = d.ring ∨ rm - p.boiler * kb - p.ring * kr < p.ring)
         ∧ (t.top = d.top ∨ rm - p.boiler * kb - p.ring * kr - p.top * kt < p.top)
         ∧ (t.bottom = d.bottom ∨ rm - p.boiler * kb - p.ring * kr - p.top * kt - p.bottom * km < p.bottom))

/-- The placement of n on-cycles of load j: cycle k is marked by the floor rule with the offset of 5j; exactly n cycles are
marked; any two runs of cycles of one length, the frame taken round, hold marked cycles that differ by at most one. A boundary
plans this placement of each allocation, and a crossing within the frame keeps the plan. -/
def Obligations.PlacementIsEven : Prop :=
  (∀ (j n k : Nat), k < 20 →
    (k ∈ placed j n ↔ (k + 5 * j) % 20 * n / 20 < ((k + 5 * j) % 20 + 1) * n / 20))
  ∧ (∀ (j n : Nat), j < 4 → n ≤ 20 →
      (placed j n).length = n
      ∧ (n = 20 → placed j n = List.range 20) ∧ (n = 0 → placed j n = [])
      ∧ ∀ (a b len : Nat), a < 20 → b < 20 → len ≤ 20 →
          let inRun (start : Nat) := ((List.range len).filter (fun i => decide ((start + i) % 20 ∈ placed j n))).length
          inRun a ≤ inRun b + 1)
  ∧ (placed Load.top.index 1 = [19] ∧ placed Load.bottom.index 1 = [14] ∧ placed Load.ring.index 1 = [9]
    ∧ placed Load.boiler.index 1 = [4])
  ∧ (∀ (s : State) (d : PerLoad Nat) (i : Load),
      (s.beginFrame d).load.plan.get i = placed i.index ((s.beginFrame d).load.alloc.get i))
  ∧ (∀ s : State, s.InFrame → s.crossed.load.plan = s.load.plan)

/-! ## Climate and samples -/

/-- The regulators at a boundary: error, proportional term toward zero, integral part, demand clamped to 0 to 20; the integrators
move in RUNNING alone, not while pinned, nor while the boiler they drive does not steam; HUMIDITY_SENSOR puts the degraded duty in
place; the boiler demand is handed by the mode. With mode NONE, in WAIT and in the service modes h is 0 and the integrators are
held, and a service mode leaves the last boiler demand standing (log 35). The convection fan's speed and the lamp follow the door,
the record, the run state and the mains at once. -/
def Obligations.ClimateRegulators : Prop :=
  (∀ (s : State) (m : Mode), s.climate.mode = some m → m.heats = true →
     let t := s.regulate
     let zero := s.climate.door = some .opened ∨ s.climate.venting = true ∨ s.runState = some .paused
     let running := s.runState = some .running
     let steaming := s.steam.boiler = .steaming
     let e : Int :=
       match s.climate.setpoint, s.climate.lastCavity with
       | some sp, some c => max (-500) (min 500 (10 * (sp : Int) - c))
       | _, _ => 0
     let raw := Int.tdiv (2 * e) 10 + s.climate.tempI / 256
     let degraded := s.faults.humiditySensor.active = true ∧ m.humidityRegulated = true
     let eh : Int :=
       match s.climate.humidityTarget, s.climate.lastHumidity with
       | some target, some h => max (-50) (min 50 ((target : Int) - h))
       | _, _ => 0
     let ih := if degraded ∨ s.climate.degraded = true then 0 else s.climate.humI
     let rawh := Int.tdiv eh 2 + ih / 256
     (zero ∨ s.faults.cavitySensor.active = true → t.climate.lastDemand = 0 ∧ t.climate.tempI = s.climate.tempI)
     ∧ (¬zero → s.faults.cavitySensor.active = false →
         (t.climate.lastDemand : Int) = max 0 (min 20 raw)
         ∧ t.climate.tempI =
             (if running ∧ ¬(20 < raw ∧ 0 < e) ∧ ¬(raw < 0 ∧ e < 0) ∧ ¬(m = .steam ∧ ¬steaming)
               then max 0 (min 5120 (s.climate.tempI + 2 * e)) else s.climate.tempI))
     ∧ (m = .steam → t.climate.lastBoilerDemand = t.climate.lastDemand)
     ∧ (m.humid = false → t.climate.lastBoilerDemand = 0)
     ∧ (m.humidityRegulated = true →
         (zero → t.climate.lastBoilerDemand = 0 ∧ t.climate.humI = ih)
         ∧ (¬zero → degraded →
             t.climate.lastBoilerDemand = (s.climate.humidityTarget.getD 0 * 20 + 99) / 100 ∧ t.climate.humI = 0)
         ∧ (¬zero → ¬degraded →
             (t.climate.lastBoilerDemand : Int) = max 0 (min 20 rawh)
             ∧ t.climate.humI =
                 (if running ∧ steaming ∧ ¬(20 < rawh ∧ 0 < eh) ∧ ¬(rawh < 0 ∧ eh < 0)
                   then max 0 (min 5120 (ih + 8 * eh)) else ih)))
     ∧ (t.climate.degraded = true ↔ degraded)
     ∧ Only [.integrators, .demands] s t)
  ∧ (∀ s : State, (∀ m, s.climate.mode = some m → m.heats = false) →
      let t := s.regulate
      let service := ∃ m, s.climate.mode = some m ∧ m ≠ .wait
      (t.climate.lastDemand = 0 ∧ t.climate.tempI = s.climate.tempI ∧ t.climate.degraded = false)
      ∧ t.climate.humI = (if s.climate.degraded then 0 else s.climate.humI)
      ∧ (¬service → t.climate.lastBoilerDemand = 0)
      ∧ (service → t.climate.lastBoilerDemand = s.climate.lastBoilerDemand)
      ∧ Only [.integrators, .demands] s t)
  ∧ (∀ m : Mode, m.heats = false ↔ m = .wait ∨ m = .drain ∨ m = .fill ∨ m = .soak ∨ m = .rinse)
  ∧ ∀ s : State,
      let off := s.startup.stage = .configFault ∨ s.mainsOut = true
      s.convectionFan =
        (if off ∨ s.climate.door = some .opened then 0
          else if s.climate.venting then 2
          else if s.hasActive = false ∨ s.runState = some .paused then 0
          else
            match s.climate.mode with
            | some .convection | some .combi | some .reheat => 2
            | some .steam | some .proof => 1
            | _ => 0)
      ∧ (s.lampOn = true ↔ ¬off ∧ s.climate.door ≠ none ∧ (s.hasActive = true ∨ s.climate.door = some .opened))

/-- The demands handed for TOP, BOTTOM and RING: floor(h × w / 4) by the mode's weights, 0 for a load the mode does not drive; in
STEAM the boiler demand is h itself; the demand of a cap is reached exactly at h = 20. -/
def Obligations.WeightedDemands : Prop :=
  (∀ (s : State) (m : Mode) (boiler : Nat), s.climate.mode = some m →
    let h := s.climate.lastDemand
    let w : Nat × Nat × Nat :=
      match m with
      | .convection | .combi | .reheat => (0, 0, 4)
      | .topBottom => (4, 3, 0)
      | .grill => (4, 0, 0)
      | .bottomHeat => (0, 4, 0)
      | .proof => (0, 2, 0)
      | .keepWarm => (2, 2, 0)
      | .steam | .wait | .drain | .fill | .soak | .rinse => (0, 0, 0)
    s.frameDemands boiler = ⟨h * w.1 / 4, h * w.2.1 / 4, h * w.2.2 / 4, boiler⟩)
  ∧ (∀ s : State, s.climate.mode = some .steam → s.regulate.climate.lastBoilerDemand = s.regulate.climate.lastDemand)
  ∧ (∀ (s : State) (boiler : Nat), s.climate.mode = none → s.frameDemands boiler = ⟨0, 0, 0, boiler⟩)
  ∧ (∀ (m : Mode) (h : Nat), h ≤ 20 → ∀ i, i ≠ .boiler →
      h * m.weight i / 4 ≤ capOf false m i ∧ (0 < m.weight i → (h * m.weight i / 4 = capOf false m i ↔ h = 20)))

/-- SAMPLE_TICK while no frame runs: the readings, with the last valid ones kept over an invalid sample; the core probe status
after two samples that agree; the runs and records of the sensor, probe and over-temperature kinds; the cooling fan; then the
sequencer's tests. SENSOR_FAULT_RAISED and SENSOR_FAULT_ENDED are the sample that brings the bad or the good run of the sensor to
3: the record becomes active and is counted, or becomes inactive. SAMPLE_TICK while a frame runs takes no sample: it presents the
levels at the pins (log 7). -/
def Obligations.SamplesAndSensorFaults : Prop :=
  (∀ (smp : Sample) (s : State),
     (s.startup.stage = .configFault → exec (.sampleTick smp) s = .next s)
     ∧ (s.startup.stage ≠ .configFault → s.timerSamples = false →
         exec (.sampleTick smp) s = .next (s.reported { s with inputs := smp }))
     ∧ (s.timerSamples = true →
         let probe : CoreStatus :=
           match smp.core with
           | .openCircuit => .absent
           | .shorted => .shorted
           | .reading _ => .present
         let cavityOk := -200 ≤ smp.cavity ∧ smp.cavity ≤ 3200
         let boilerOk := -200 ≤ smp.boiler ∧ smp.boiler ≤ 2500
         let humidityOk := ∃ h, smp.humidity = some h ∧ h ≤ 100
         let bounded (valid high : Prop) [Decidable valid] [Decidable high] (k : FaultKind) : FaultRecord :=
           if valid then if high then (s.faults.get k).arise else (s.faults.get k).goes k else s.faults.get k
         ∃ v, exec (.sampleTick smp) s = .next (s.reported (v.sampleTests false).runSettle)
           ∧ v.inputs = smp
           ∧ (v.climate.cavityReading = some smp.cavity ∧ v.climate.humidityReading = smp.humidity
             ∧ v.steam.boilerReading = some smp.boiler)
           ∧ v.climate.lastCavity = (if cavityOk then some smp.cavity else s.climate.lastCavity)
           ∧ v.steam.lastBoiler = (if boilerOk then some smp.boiler else s.steam.lastBoiler)
           ∧ (humidityOk → v.climate.lastHumidity = smp.humidity)
           ∧ (¬humidityOk → v.climate.lastHumidity = s.climate.lastHumidity)
           ∧ v.climate.coreSeen = some probe
           ∧ v.climate.coreStatus = (if s.climate.coreSeen = some probe then probe else s.climate.coreStatus)
           ∧ (v.climate.coreStatus = .present →
               v.climate.coreReading =
                 (match smp.core with
                   | .reading c => some c
                   | _ => s.climate.coreReading))
           ∧ (v.climate.coreStatus ≠ .present → v.climate.coreReading = none)
           ∧ (v.faults.cavityRun =
                 (if cavityOk then ⟨0, min 3 (s.faults.cavityRun.good + 1)⟩ else ⟨min 3 (s.faults.cavityRun.bad + 1), 0⟩)
             ∧ v.faults.boilerRun =
                 (if boilerOk then ⟨0, min 3 (s.faults.boilerRun.good + 1)⟩ else ⟨min 3 (s.faults.boilerRun.bad + 1), 0⟩)
             ∧ (humidityOk → v.faults.humidityRun = ⟨0, min 3 (s.faults.humidityRun.good + 1)⟩)
             ∧ (¬humidityOk → v.faults.humidityRun = ⟨min 3 (s.faults.humidityRun.bad + 1), 0⟩))
           ∧ v.faults.cavityOverheat = bounded cavityOk (2800 < smp.cavity) .cavityOverheat
           ∧ v.faults.boilerDry = bounded boilerOk (1400 < smp.boiler) .boilerDry
           ∧ v.faults.coreProbeShort =
               (if v.climate.coreStatus = s.climate.coreStatus then s.faults.coreProbeShort
                 else if v.climate.coreStatus = .shorted then s.faults.coreProbeShort.arise
                 else s.faults.coreProbeShort.goes .coreProbeShort)
           ∧ (v.climate.coolingFan = true ↔
               v.mainsOut = false
                 ∧ (v.hasActive = true ∨ (∀ c, v.climate.lastCavity = some c → 700 < c)
                   ∨ v.faults.cavitySensor.active = true))
           ∧ Only (sampleAspects ++ sensorAspects ++ runAspects) s v))
  ∧ (∀ (k : SensorKind) (smp : Sample) (s : State),
       let valid : Prop :=
         match k with
         | .cavity => -200 ≤ smp.cavity ∧ smp.cavity ≤ 3200
         | .humidity => ∃ h, smp.humidity = some h ∧ h ≤ 100
         | .boiler => -200 ≤ smp.boiler ∧ smp.boiler ≤ 2500
       let kind : FaultKind :=
         match k with
         | .cavity => .cavitySensor
         | .humidity => .humiditySensor
         | .boiler => .boilerSensor
       let r := s.faults.get kind
       let raises := ¬valid ∧ (s.faults.run k).bad = 2 ∧ r.active = false
       let ends := valid ∧ (s.faults.run k).good = 2 ∧ r.active = true
       (raises →
         (s.timerSamples = true → exec (.sensorFaultRaised k smp) s = exec (.sampleTick smp) s)
         ∧ (s.timerSamples = false → exec (.sensorFaultRaised k smp) s = exec (.frameBoundary smp 400) s)
         ∧ (s.timerSamples = true ∨ s.boundaryDue = true →
             ∃ t, exec (.sensorFaultRaised k smp) s = .next t ∧ t.faults.get kind = ⟨true, false, min 255 (r.count + 1)⟩
               ∧ t.faults.run k = ⟨3, 0⟩ ∧ Only boundaryAspects s t))
       ∧ (¬raises → exec (.sensorFaultRaised k smp) s = .next s)
       ∧ (ends →
         (s.timerSamples = true → exec (.sensorFaultEnded k smp) s = exec (.sampleTick smp) s)
         ∧ (s.timerSamples = false → exec (.sensorFaultEnded k smp) s = exec (.frameBoundary smp 400) s)
         ∧ (s.timerSamples = true ∨ s.boundaryDue = true → r.latched = false →
             ∃ t, exec (.sensorFaultEnded k smp) s = .next t ∧ t.faults.get kind = ⟨false, false, r.count⟩
               ∧ t.faults.run k = ⟨0, 3⟩ ∧ Only boundaryAspects s t))
       ∧ (¬ends → exec (.sensorFaultEnded k smp) s = .next s))

/-- The sequencer's tests at a sample: PREHEAT ends at a boundary sample at or above the band while RUNNING; the COUNT of a CORE
step ends at its target while RUNNING, converts to TIMED or is held when its probe is lost, and is tested again from the sample
after the probe's return. -/
def Obligations.SampleTests : Prop :=
  ∀ (s : State) (r : StepRecord), s.activeStep = some r →
    let running := s.runState = some .running
    (s.phase = some .preheat →
      s.sampleTests false = s
      ∧ (∀ c sp, running → s.climate.lastCavity = some c → r.setpoint = some sp →
          10 * ((sp : Int) - r.band.getD 5) ≤ c → s.sampleTests true = s.toCount r)
      ∧ (¬running ∨ s.climate.lastCavity = none
          ∨ (∃ c sp, s.climate.lastCavity = some c ∧ r.setpoint = some sp ∧ c < 10 * ((sp : Int) - r.band.getD 5)) →
          s.sampleTests true = s))
    ∧ (s.phase = some .count → s.seq.workKind ≠ some .core → ∀ b, s.sampleTests b = s)
    ∧ (s.phase = some .count → s.seq.workKind = some .core → ∀ b,
        (s.seq.probeHold = true → s.climate.coreStatus = .present →
          s.sampleTests b = { s with seq := { s.seq with probeHold := false } })
        ∧ (s.seq.probeHold = true → s.climate.coreStatus ≠ .present → s.sampleTests b = s)
        ∧ (s.seq.probeHold = false → s.climate.coreStatus ≠ .present →
            (∀ d, r.fallback = some d →
              s.sampleTests b
                = { s with seq := { s.seq with workKind := some .timed, workDuration := some d, elapsed := 0 } })
            ∧ (r.fallback = none → s.sampleTests b = { s with seq := { s.seq with probeHold := true } }))
        ∧ (s.seq.probeHold = false → s.climate.coreStatus = .present → ∀ c target, s.climate.coreReading = some c →
            r.coreTarget = some target →
            (running → 10 * (target : Int) ≤ c → s.sampleTests b = s.endCount)
            ∧ (¬running ∨ c < 10 * (target : Int) → s.sampleTests b = s)))
    ∧ (s.phase ≠ some .preheat → s.phase ≠ some .count → ∀ b, s.sampleTests b = s)

/-! ## Faults -/

/-- The transitions of a fault record: a condition that arises, one that goes, and CLEAR_FAULTS; DUPLICATE_STATION does not go. -/
def Obligations.FaultRecordTransitions : Prop :=
  ∀ (k : FaultKind) (s : State),
    let r := s.faults.get k
    let latching := k = .cavityOverheat ∨ k = .boilerDry ∨ k = .drainTimeout ∨ k = .retainedRecord
    (r.active = false → (s.raise k).faults.get k = ⟨true, false, min 255 (r.count + 1)⟩)
    ∧ (r.active = true → (s.raise k).faults.get k = { r with latched := false })
    ∧ (r.active = true → r.latched = false → k ≠ .duplicateStation → ¬latching →
        (s.condGone k).faults.get k = { r with active := false })
    ∧ (r.active = true → r.latched = false → latching → (s.condGone k).faults.get k = { r with latched := true })
    ∧ (r.active = false ∨ r.latched = true ∨ k = .duplicateStation → (s.condGone k).faults.get k = r)
    ∧ (r.active = true → r.latched = true → (s.clearFaults).faults.get k = ⟨false, false, r.count⟩)
    ∧ (r.active = false ∨ r.latched = false → (s.clearFaults).faults.get k = r)
    ∧ ∀ j, j ≠ k → (s.raise k).faults.get j = s.faults.get j ∧ (s.condGone k).faults.get j = s.faults.get j

/-- A record that becomes active: the loads it cuts are withdrawn, the boiler is barred, and the ACTIVE program ends
ABORTED(FAULT), starts its forced drain, or goes on, by the kind of the fault and of the program. MAINS ends the frame and stops
the cooling fan; that it leaves no examination of the door pending is the model's choice (log 7), and that it takes a pending
reduction of the hold at once its reading (log 13). -/
def Obligations.FaultEffects : Prop :=
  ∀ (k : FaultKind) (s : State), (s.faults.get k).active = false →
    let t := s.raise k
    let heat := k = .cavityOverheat ∨ k = .boilerSensor ∨ k = .boilerDry
    let water := k = .boilerSensor ∨ k = .boilerDry
    let always := k = .cavityOverheat ∨ k = .drainTimeout ∨ k = .mains
    (∀ i, s.load.running = true → k ≠ .mains →
      (k = .cavityOverheat ∨ (k = .cavitySensor ∧ i ≠ .boiler) ∨ (water ∧ i = .boiler)) → t.load.withdrawn.get i = true)
    ∧ (heat → (t.steam.boiler ≠ .heating ∧ t.steam.boiler ≠ .ready ∧ t.steam.boiler ≠ .steaming)
        ∧ t.steam.soakHeating = false)
    ∧ (water → t.steam.boiler ≠ .filling)
    ∧ (k ≠ .mains → t.climate.doorPending = s.climate.doorPending)
    ∧ (k = .mains → t.load.gates = ⟨false, false, false, false⟩ ∧ t.load.running = false ∧ t.climate.coolingFan = false
        ∧ t.climate.doorPending = false
        ∧ (∀ c, t.steam.stroke ≠ .running c) ∧ (t.share.state = .steady → t.share.hold ≤ t.load.ceiling))
    ∧ (∀ at_ p, s.activeRun = some (at_, p) →
        let forced := p.kind = .service ∧ water ∧ s.seq.stopFlag = false ∧ s.scale.drainOnStop = true
        let ends :=
          (p.kind = .recipe ∧ (always ∨ k = .cavitySensor ∨ (water ∧ s.stepHumid = true)))
            ∨ (p.kind = .service
              ∧ (always ∨ (water ∧ s.seq.stopFlag = false ∧ s.scale.drainOnStop = false)))
        (ends → t.store.slot at_.slot = .done p (.aborted .fault) ∧ t.seq.run = none
          ∧ t.store.lastOutcome = ⟨at_.slot.number, p.tag, p.kind, .ended (.aborted .fault)⟩)
        ∧ (forced → t.activeRun = some ({ at_ with phase := .count }, p) ∧ t.seq.stopFlag = true
          ∧ t.seq.forcedCause = some .fault ∧ t.seq.pauseFlag = false ∧ t.seq.prompt = none
          ∧ t.seq.promptTimer = none ∧ t.steam.request = .drain)
        ∧ (¬ends → ¬forced → t.activeRun = some (at_, p) ∧ t.seq = s.seq))
    ∧ Only (.fault k :: (outageAspects ++ runAspects)) s t

/-- MAINS_LOSS sets MAINS with its effects; that it leaves no examination of the door pending is the model's choice (log 7), and
so is that it acts before the first frame boundary too (log 18). MAINS_RESTORED, 50 good cycles spanning 769 to 1,111 ms (an
operand, log 8), ends it, fixes a frequency where none was fixed, drives the flap to its command, and makes the next crossing a
frame boundary. -/
def Obligations.MainsLossAndReturn : Prop :=
  ∀ s : State, s.inService = true →
    (s.mainsOut = false → exec .mainsLoss s = .next (s.reported (s.raise .mains).runSettle)
      ∧ (s.raise .mains).climate.doorPending = false
      ∧ (s.raise .mains).faults.mains = ⟨true, false, min 255 (s.faults.mains.count + 1)⟩
      ∧ (s.load.running = true →
          (s.raise .mains).load.last = ⟨s.load.taken, s.load.alloc, s.load.conducted, s.load.limited⟩))
    ∧ (s.mainsOut = true → exec .mainsLoss s = .next s)
    ∧ (∀ ms, s.mainsOut = false ∨ ms < 769 ∨ 1111 < ms → exec (.mainsRestored ms) s = .next s)
    ∧ ∀ ms, s.mainsOut = true → 769 ≤ ms → ms ≤ 1111 → s.faults.mains.latched = false →
        ∃ u, exec (.mainsRestored ms) s = .next (s.reported u.runSettle)
          ∧ u.faults.mains = { s.faults.mains with active := false }
          ∧ u.startup = { s.startup with freq := some (s.startup.freq.getD (if 909 < ms then .hz50 else .hz60)) }
          ∧ (u.climate.flapDriven = s.climate.flapCommand ∧ u.climate.flapCommand = s.climate.flapCommand)
          ∧ (s.load.running = false → u.boundaryDue = true)
          ∧ Only [.startup, .fault .mains, .flap] s u

/-! ## The oven -/

/-- DOOR_OPEN and DOOR_CLOSE, the changes of the established door state. Opening withdraws every load, starts the door-open
seconds, hands a VAPOUR notice in a humid step, empties DONE slots, and leaves the flap; closing stops the seconds and takes the
flap to its command. Both end QUIET. Neither does anything before the state is established (log 32), nor does an examination of the raw switch at a
crossing; the second in a row that reads the opposite level is the door's event. -/
def Obligations.DoorOpensAndCloses : Prop :=
  ∀ s : State,
    (s.climate.door ≠ some .closed → exec .doorOpen s = .next s)
    ∧ (s.climate.door ≠ some .opened → exec .doorClose s = .next s)
    ∧ (s.climate.door = some .closed →
        ∃ u, exec .doorOpen s = .next (s.reported u.runSettle)
          ∧ u.climate = { s.climate with door := some .opened, doorPending := false }
          ∧ u.inputs = { s.inputs with door := .opened } ∧ u.store.staging = s.store.staging
          ∧ u.load.doorTimer = some ⟨0, 0⟩
          ∧ (s.load.running = true → ∀ i, u.load.withdrawn.get i = true)
          ∧ (∀ ix, (∃ p o, s.store.slot ix = .done p o) → u.store.slot ix = .empty)
          ∧ (∀ ix, (¬∃ p o, s.store.slot ix = .done p o) → u.store.slot ix = s.store.slot ix)
          ∧ u.store.lastOutcome = s.store.lastOutcome
          ∧ (s.share.state ≠ .quiet → u.share = s.share)
          ∧ (s.share.state ≠ .quiet → s.stepHumid = true → s.inService = true →
              u.bus = s.bus.hand .notice
                [[byteOf (if s.faults.humiditySensor.active then 100 else s.climate.lastHumidity.getD 100), 0#8, 1#8]])
          ∧ (s.share.state ≠ .quiet → s.stepHumid = false → u.bus = s.bus)
          ∧ (s.share.state = .quiet → u.share.quietCount = 0 ∧ u.share.hold = s.share.hold
              ∧ (s.limit = none → u.share.state = .unshared)
              ∧ (s.limit ≠ none → s.load.ceiling ≤ s.share.hold → u.share.state = .steady)
              ∧ (s.limit ≠ none → s.share.hold < s.load.ceiling → u.share.state = .asking))
          ∧ Only [.door, .doorPending, .inputs, .doorTimer, .withdrawn, .slots, .queue, .sharing] s u)
    ∧ (s.climate.door = some .opened →
        ∃ u, exec .doorClose s = .next (s.reported u.runSettle)
          ∧ u.climate.door = some .closed ∧ u.climate.doorPending = false ∧ u.load.doorTimer = none
          ∧ u.inputs = { s.inputs with door := .closed }
          ∧ u.climate.flapCommand =
              (if s.climate.venting = true then .opened
                else if s.climate.mode = some .steam ∨ s.climate.mode = some .combi ∨ s.climate.mode = some .reheat
                    ∨ s.climate.mode = some .proof then .closed
                else .opened)
          ∧ (s.inService = true → s.startup.freq ≠ none → s.mainsOut = false →
              u.climate.flapDriven = u.climate.flapCommand)
          ∧ (s.inService = false ∨ s.startup.freq = none ∨ s.mainsOut = true →
              u.climate.flapDriven = s.climate.flapDriven)
          ∧ (s.share.state ≠ .quiet → u.share = s.share ∧ u.bus = s.bus)
          ∧ (s.share.state = .quiet → u.share.quietCount = 0 ∧ u.share.hold = s.share.hold
              ∧ (s.limit = none → u.share.state = .unshared)
              ∧ (s.limit ≠ none → s.load.ceiling ≤ s.share.hold → u.share.state = .steady)
              ∧ (s.limit ≠ none → s.share.hold < s.load.ceiling → u.share.state = .asking))
          ∧ Only [.door, .doorPending, .inputs, .doorTimer, .flap, .queue, .sharing] s u)
    ∧ (s.climate.door = none → s.examineDoor = s)
    ∧ (s.climate.door = some s.inputs.door → s.examineDoor = { s with climate := { s.climate with doorPending := false } })
    ∧ (∀ d, s.climate.door = some d → s.inputs.door ≠ d →
        (s.climate.doorPending = false → s.examineDoor = { s with climate := { s.climate with doorPending := true } })
        ∧ (s.climate.doorPending = true → s.inputs.door = .opened → exec .doorOpen s = .next (s.reported s.examineDoor))
        ∧ (s.climate.doorPending = true → s.inputs.door = .closed → exec .doorClose s = .next (s.reported s.examineDoor)))

/-- The start of a VENT phase, and a vent already in progress, which goes on. DOOR_OPEN_MINUTE: the door-open seconds reach 60,
and the ceiling falls to the base load, but for no slot ACTIVE and a WAIT step; then the door is examined. VENT_COMPLETE: the
vent timer reaches 20 s, and the VENT phase ends; then the second, if one is due, and the examination of the door. -/
def Obligations.VentAndDoorMinute : Prop :=
  (∀ s : State,
     (s.climate.venting = true → s.beginVent = s)
     ∧ (s.climate.venting = false →
         let t := s.beginVent
         t.climate.venting = true ∧ t.climate.ventTimer = some ⟨0, 0⟩ ∧ t.climate.flapCommand = .opened
         ∧ (s.inService = true → s.startup.freq ≠ none → s.mainsOut = false → t.climate.flapDriven = .opened)
         ∧ (s.load.running = true → ∀ i, t.load.withdrawn.get i = true)
         ∧ (s.inService = true →
             t.bus = s.bus.hand .notice
               [[byteOf (if s.faults.humiditySensor.active then 100 else s.climate.lastHumidity.getD 100), byteOf 20, 0#8]])
         ∧ (t.climate.mode = s.climate.mode ∧ t.climate.setpoint = s.climate.setpoint)
         ∧ Only [.record, .ventTimer, .flap, .withdrawn, .queue] s t))
  ∧ (∀ s : State,
       (s.Reaches 60 s.load.doorTimer → s.Follows →
         ∃ u, exec .doorOpenMinute s = .next (s.reported u.examineDoor) ∧ u.load.doorTimer = some ⟨60, 0⟩
           ∧ (u.hasActive = false → u.load.ceiling = 0)
           ∧ (∀ r, u.activeStep = some r →
               u.load.ceiling =
                 (if r.mode = .wait then 0
                   else match s.startup.variant with
                     | 0 => 8
                     | 1 => 7
                     | _ => 9))
           ∧ Only crossingAspects s u)
       ∧ (s.Reaches 20 s.climate.ventTimer →
           let v := (s.crossed.fireDrain).runSettle
           (v.climate.ventTimer = some ⟨20, 0⟩ → v.phase = some .vent →
             exec .ventComplete s
               = .next (s.reported (State.fireLast s.secondDue (v.stepComplete).runSettle)))
           ∧ (s.boundaryDue = false → s.crossed.climate.ventTimer = some ⟨20, 0⟩)))

/-- LOW_DRY withdraws the boiler; a working boiler refills, soak heating ends and refills, a drain starts its run-on. LOW_WET in
EMPTY with no request finds water and owes its drain; it ends a run-on, or times the drain out at 90 s or more. -/
def Obligations.LowProbe : Prop :=
  ∀ s : State,
    (s.steam.low ≠ some .wet → exec .lowDry s = .next s)
    ∧ (s.steam.low ≠ some .dry → exec .lowWet s = .next s)
    ∧ (s.steam.low = some .wet →
        ∃ u, exec .lowDry s = .next (s.reported u.runSettle)
          ∧ u.steam.low = some .dry
          ∧ (s.load.running = true → u.load.withdrawn.boiler = true)
          ∧ (s.steam.boiler = .heating ∨ s.steam.boiler = .ready ∨ s.steam.boiler = .steaming →
              s.barsFilling = false → s.steam.high ≠ some .wet →
              u.steam.boiler = .filling ∧ u.steam.strokes = 0
              ∧ u.steam.fillWait =
                  (match s.steam.tank with
                    | some (.present .empty) => some .empty
                    | some (.present _) => none
                    | _ => some .absent)
              ∧ (u.steam.stroke = .awaiting ↔ u.steam.fillWait = none))
          ∧ (s.steam.boiler = .draining → u.steam.runOn = some ⟨0, 0⟩ ∧ u.steam.boiler = .draining)
          ∧ (s.steam.boiler = .off → (s.steam.request ≠ .soak ∨ s.steam.high ≠ some .wet → u.steam.soakHeating = false)
              ∧ (s.steam.request ≠ .soak → u.steam.boiler = .off)
              ∧ (s.steam.request = .soak → s.mustDrainFirst = false → s.barsFilling = false → s.steam.high ≠ some .wet →
                  u.steam.boiler = .filling ∧ u.steam.strokes = 0))
          ∧ (s.steam.boiler = .empty ∨ s.steam.boiler = .filling ∨ s.steam.boiler = .standing →
              u.steam = { s.steam with low := some .dry })
          ∧ Only [.probes, .boiler, .withdrawn, .scaleFlags, .writes] s u)
    ∧ (s.steam.low = some .dry →
        let overdue := s.steam.boiler = .draining ∧ s.steam.runOn ≠ none
          ∧ ∃ d, s.steam.drainTimer = some d ∧ 90 ≤ d.seconds
        ∃ u, exec .lowWet s = .next (s.reported u.runSettle)
          ∧ u.steam.low = some .wet
          ∧ (¬overdue → s.steam.boiler = .draining → u.steam = { s.steam with low := some .wet, runOn := none })
          ∧ (s.steam.boiler = .empty → s.steam.request = .none →
              u.steam.boiler = .off ∧ u.steam.owed = some .waterFound ∧ u.steam.drainStarted = true
                ∧ u.steam.coolWait = some ⟨0, 0⟩)
          ∧ (s.steam.boiler = .empty → s.steam.request ≠ .none → u.steam = { s.steam with low := some .wet })
          ∧ (s.steam.boiler ≠ .empty → s.steam.boiler ≠ .draining → u.steam = { s.steam with low := some .wet })
          ∧ (overdue →
              u.steam.boiler = .off ∧ u.steam.owed = some .timedOut ∧ u.steam.drainTimer = none ∧ u.steam.runOn = none
              ∧ (s.faults.drainTimeout.active = false →
                  u.faults.drainTimeout = ⟨true, true, min 255 (s.faults.drainTimeout.count + 1)⟩))
          ∧ (¬overdue → Only [.probes, .boiler, .withdrawn] s u)
          ∧ Only (.probes :: .fault .drainTimeout :: runAspects) s u)

/-- HIGH_WET ends a fill, as the request in force gives; HIGH_DRY changes the probe alone. -/
def Obligations.HighProbe : Prop :=
  ∀ s : State,
    (s.steam.high = some .wet →
      exec .highDry s = .next { s with steam := { s.steam with high := some .dry } })
    ∧ (s.steam.high ≠ some .wet → exec .highDry s = .next s)
    ∧ (s.steam.high ≠ some .dry → exec .highWet s = .next s)
    ∧ (s.steam.high = some .dry →
        ∃ u, exec .highWet s = .next (s.reported u.runSettle)
          ∧ u.steam.high = some .wet
          ∧ (s.steam.boiler ≠ .filling → u = { s with steam := { s.steam with high := some .wet } })
          ∧ (s.steam.boiler = .filling →
              (u.steam.stroke = .idle ∧ u.steam.fillWait = none ∧ u.steam.strokes = s.steam.strokes)
              ∧ (s.steam.request = .steam →
                  u.steam.boiler =
                    (if s.barsHeating then .off
                      else if ∃ c, s.boilerInUse = some c ∧ 980 ≤ c then .ready else .heating))
              ∧ (s.steam.request = .fill →
                  u.steam.boiler = .off ∧ u.steam.handed = some .fillComplete
                  ∧ (s.steam.strokes = 0 → u.scale.rinseOwed = true
                      ∧ (s.scale.rinseOwed = false → u.scale.drainOnStop = true))
                  ∧ (s.steam.strokes ≠ 0 → u.scale = s.scale))
              ∧ (s.steam.request = .soak →
                  u.steam.boiler = .off
                  ∧ (u.steam.soakHeating = true ↔
                      (s.barsHeating = false ∧ s.suspended = false) ∨ s.steam.soakHeating = true))
              ∧ (s.steam.request = .rinse →
                  u.steam.boiler = .off ∧ u.steam.drainStarted = true ∧ u.steam.drainServes = true
                    ∧ u.steam.coolWait = some ⟨0, 0⟩)
              ∧ (s.steam.request = .none ∨ s.steam.request = .drain →
                  u.steam.boiler = (if s.steam.low = some .wet then .off else .empty)))
          ∧ Only [.probes, .boiler, .scaleFlags, .writes, .withdrawn] s u)

/-- TANK_ARRIVES, TANK_REMOVED and TANK_LEVEL_CHANGE: a waiting fill resumes with a fresh stroke budget or keeps waiting; a fill
in progress stops and waits; with the tank removed the drain valve is closed. -/
def Obligations.TankEvents : Prop :=
  ∀ s : State,
    let filling := s.steam.boiler = .filling
    (∀ level, s.steam.tank ≠ some .absent → exec (.tankArrives level) s = .next s)
    ∧ (∀ level, s.steam.tank = some .absent →
        let w := { s.steam with tank := some (.present level) }
        (¬filling ∨ s.steam.fillWait = none →
          exec (.tankArrives level) s = .next (s.reported (State.runSettle { s with steam := w })))
        ∧ (filling → s.steam.fillWait ≠ none → level = .empty →
          exec (.tankArrives level) s
            = .next (s.reported (State.runSettle { s with steam := { w with fillWait := some .empty, stroke := .idle } })))
        ∧ (filling → s.steam.fillWait ≠ none → level ≠ .empty →
          exec (.tankArrives level) s
            = .next (s.reported
                (State.runSettle { s with steam := { w with fillWait := none, strokes := 0, stroke := .awaiting } }))))
    ∧ ((∀ level, s.steam.tank ≠ some (.present level)) → exec .tankRemoved s = .next s)
    ∧ ((∃ level, s.steam.tank = some (.present level)) →
        let w := { s.steam with tank := some .absent }
        (filling →
          exec .tankRemoved s
            = .next (s.reported (State.runSettle { s with steam := { w with fillWait := some .absent, stroke := .idle } })))
        ∧ (¬filling → exec .tankRemoved s = .next (s.reported (State.runSettle { s with steam := w })))
        ∧ State.drainValveOpen { s with steam := w } = false)
    ∧ (∀ level, (∀ old, s.steam.tank ≠ some (.present old)) ∨ s.steam.tank = some (.present level) →
        exec (.tankLevelChange level) s = .next s)
    ∧ (∀ level old, s.steam.tank = some (.present old) → old ≠ level →
        let w := { s.steam with tank := some (.present level) }
        (filling → level = .empty → s.steam.fillWait = none →
          exec (.tankLevelChange level) s
            = .next (s.reported (State.runSettle { s with steam := { w with fillWait := some .empty, stroke := .idle } })))
        ∧ (filling → level ≠ .empty → s.steam.fillWait = some .empty →
          exec (.tankLevelChange level) s
            = .next (s.reported
                (State.runSettle { s with steam := { w with fillWait := none, strokes := 0, stroke := .awaiting } })))
        ∧ (¬filling ∨ (level = .empty ∧ s.steam.fillWait ≠ none) ∨ (level ≠ .empty ∧ s.steam.fillWait ≠ some .empty) →
          exec (.tankLevelChange level) s = .next (s.reported (State.runSettle { s with steam := w }))))

/-- STROKE_END: 25 cycles end the stroke; the next begins at once and is counted, or the 80th ends the budget and the fill waits.
A stroke that begins under FILL sets rinse-owed and drain-on-stop, where rinse-owed is clear, and requests a retained write. The
pump runs during a stroke, while the mains is present. -/
def Obligations.PumpStrokes : Prop :=
  ∀ s : State,
    let under := s.steam.request = .fill ∧ s.scale.rinseOwed = false
    let begun (t : State) :=
      t.steam.stroke = .running 0 ∧ t.steam.strokes = s.steam.strokes + 1 ∧ t.steam.fillWait = s.steam.fillWait
      ∧ (under → t.scale = { s.scale with rinseOwed := true, drainOnStop := true }
          ∧ t.retained =
              s.retained.request ⟨s.scale.hardness, s.scale.load, true, s.scale.soakCount⟩)
      ∧ (¬under → t.scale = s.scale ∧ t.retained = s.retained)
    let pumping := s.steam.boiler = .filling ∧ s.suspended = false
    ((¬pumping ∨ s.steam.stroke = .idle) → s.strokeCrossing = s)
    ∧ (pumping → s.steam.stroke = .awaiting → begun s.strokeCrossing)
    ∧ (∀ c, pumping → s.steam.stroke = .running c → c < 24 →
        s.strokeCrossing = { s with steam := { s.steam with stroke := .running (c + 1) } })
    ∧ (pumping → s.steam.stroke = .running 24 → s.steam.strokes < 80 → begun s.strokeCrossing)
    ∧ (pumping → s.steam.stroke = .running 24 → 80 ≤ s.steam.strokes →
        s.strokeCrossing = { s with steam := { s.steam with stroke := .idle, fillWait := some .budget } })
    ∧ (s.InFrame → pumping → s.steam.stroke = .running 24 →
        ∃ u, exec .strokeEnd s = .next (s.reported (u.fireDrain.fireRest s.secondDue))
          ∧ (s.steam.strokes < 80 →
              u.steam.stroke = .running 0 ∧ u.steam.strokes = s.steam.strokes + 1
              ∧ (under → u.scale = { s.scale with rinseOwed := true, drainOnStop := true })
              ∧ (¬under → u.scale = s.scale))
          ∧ (80 ≤ s.steam.strokes →
              u.steam.stroke = .idle ∧ u.steam.fillWait = some .budget ∧ u.steam.strokes = s.steam.strokes
              ∧ u.scale = s.scale)
          ∧ Only [.lfsr, .frame, .gates, .ventTimer, .doorTimer, .clock, .boiler, .scaleFlags, .writes] s u)
    ∧ (s.pumpOn = true ↔
        s.startup.stage ≠ .configFault ∧ s.mainsOut = false ∧ s.steam.boiler = .filling ∧ ∃ c, s.steam.stroke = .running c)

/-- A started drain opens its valve when the boiler is cool, the tank present, and neither DRAIN_TIMEOUT nor MAINS active:
DRAIN_VALVE_OPENS is the sample that cools the boiler to 80.0 °C, COOL_WAIT_EXPIRED the crossing that ends the wait of 600 s
without a valid temperature. The valve stands open while DRAINING, but for an absent tank and MAINS. -/
def Obligations.DrainValveOpens : Prop :=
  (∀ s : State,
    (s.valveDue = true ↔
      s.inService = true ∧ s.steam.drainStarted = true ∧ s.tankPresent = true
      ∧ s.faults.drainTimeout.active = false ∧ s.mainsOut = false
      ∧ ((∃ c, s.boilerInUse = some c ∧ c ≤ 800)
        ∨ (s.boilerInUse = none ∧ ∃ w, s.steam.coolWait = some w ∧ 600 ≤ w.seconds)))
    ∧ (s.drainValveOpen = true ↔
        s.startup.stage ≠ .configFault ∧ s.mainsOut = false ∧ s.steam.boiler = .draining
        ∧ ∃ level, s.steam.tank = some (.present level)))
  ∧ (∀ s : State, s.valveDue = true →
      let t := s.openValve
      t.steam.boiler = .draining ∧ t.steam.drainTimer = some ⟨0, 0⟩ ∧ t.steam.drainStarted = false
      ∧ t.steam.coolWait = none
      ∧ t.steam.runOn = (if s.steam.low = some .wet then none else some ⟨0, 0⟩)
      ∧ t.drainValveOpen = true ∧ Only [.boiler] s t)
  ∧ (∀ (smp : Sample) (s : State), s.timerSamples = true → s.steam.drainStarted = true →
      let v := (s.sampleAll smp).sampleTests false
      v.valveDue = true → v.steam.handed = none →
      ∃ t, exec (.drainValveOpens smp) s = .next (s.reported t) ∧ t.steam = v.openValve.steam
        ∧ exec (.sampleTick smp) s = exec (.drainValveOpens smp) s ∧ Only runAspects v t)
  ∧ (∀ (smp : Sample) (s : State), s.steam.drainStarted = true → s.boundaryDue = true → s.timerSamples = false →
      (s.boundaryCrossing smp 400).steam.boiler = .draining →
      exec (.drainValveOpens smp) s = exec (.frameBoundary smp 400) s)
  ∧ (∀ (smp : Sample) (s : State), s.steam.drainStarted = false → exec (.drainValveOpens smp) s = .next s)
  ∧ (∀ s : State, s.Reaches 600 s.steam.coolWait → s.boilerInUse = none → s.boundaryDue = false →
      s.steam.drainStarted = true → s.steam.handed = none → s.steam.boiler ≠ .draining → s.tankPresent = true →
      s.faults.drainTimeout.active = false →
      ∃ u, exec .coolWaitExpired s = .next (s.reported (u.fireRest s.secondDue))
        ∧ u.steam.coolWait = some ⟨600, 0⟩ ∧ u.valveDue = true
        ∧ (u.runSettle).steam = u.openValve.steam ∧ (u.runSettle).steam.boiler = .draining
        ∧ Only [.lfsr, .frame, .gates, .ventTimer, .doorTimer, .clock, .boiler, .scaleFlags, .writes] s u)

/-- DRAIN_COMPLETE: the run-on reaches 20 s; the boiler is EMPTY, the accumulator 0 and nothing owed. A drain of the DRAIN request
hands drain complete. A drain of the RINSE request counts its pass: the first goes on to a fill, which HIGH wet ends at once with the
second drain and which does not start while filling is barred; the second is the rinse's end. After any other drain the waiting
request is served. DRAIN_TIMEOUT: the drain timer reaches 90 s with LOW wet; the boiler is OFF with
its drain owed and the fault latched. The boiler requests: what one handed leaves of the request before, of a started drain and of
an owed one, which it clears unless that is the start-up drain or one for water found (log 22); a drain of the request before is
given up unless owed (log 21), a fill in progress goes on but under NONE and DRAIN (log 24), a DRAIN takes the drain that is
DRAINING for its own (log 20). How the request in force is served by the boiler as it stands: not behind a drain in hand or an owed
one, nor within a fill. -/
def Obligations.DrainEnds : Prop :=
  (∀ s : State,
    (s.handRequest s.steam.request = s)
    ∧ ∀ req : BoilerRequest, req ≠ s.steam.request →
      let working := s.steam.boiler = .heating ∨ s.steam.boiler = .ready ∨ s.steam.boiler = .steaming
      let clears := req ≠ .none ∧ s.steam.boiler ≠ .draining
        ∧ (s.steam.owed = some .endOfProgram ∨ s.steam.owed = some .timedOut)
      ∃ v, s.handRequest req = v.serve
        ∧ v.steam.request = req
        ∧ (v.steam.used = true ↔ s.steam.used = true ∨ (req ≠ .none ∧ s.hasActive = true))
        ∧ v.steam.rinsePass = (if req = .rinse then 0 else s.steam.rinsePass)
        ∧ (clears → v.steam.owed = none) ∧ (¬clears → v.steam.owed = s.steam.owed)
        ∧ (v.steam.drainStarted = true ↔ s.steam.drainStarted = true ∧ v.steam.owed ≠ none)
        ∧ (s.steam.drainStarted = true → v.steam.owed = none → v.steam.coolWait = none)
        ∧ (v.steam.drainServes = true ↔ s.steam.boiler = .draining ∧ req = .drain)
        ∧ (v.steam.soakHeating = true ↔ s.steam.soakHeating = true ∧ req = .soak)
        ∧ (working → req ≠ .steam → v.steam.boiler = .off)
        ∧ (s.steam.boiler = .filling → req = .none ∨ req = .drain →
            v.steam.boiler = (if s.steam.low = some .wet then .off else .empty)
            ∧ v.steam.stroke = .idle ∧ v.steam.fillWait = none)
        ∧ (¬(working ∧ req ≠ .steam) → ¬(s.steam.boiler = .filling ∧ (req = .none ∨ req = .drain)) →
            v.steam.boiler = s.steam.boiler ∧ v.steam.stroke = s.steam.stroke ∧ v.steam.fillWait = s.steam.fillWait)
        ∧ (v.steam.strokes = s.steam.strokes ∧ v.steam.drainTimer = s.steam.drainTimer ∧ v.steam.runOn = s.steam.runOn
          ∧ v.steam.handed = s.steam.handed)
        ∧ Only [.boiler, .withdrawn] s v)
  ∧ (∀ s : State,
    let t := s.serve
    let req := s.steam.request
    let wet := s.steam.low = some .wet
    let working := s.steam.boiler = .heating ∨ s.steam.boiler = .ready ∨ s.steam.boiler = .steaming
    let waits := s.steam.drainStarted = true ∨ s.steam.owed ≠ none ∨ s.steam.boiler = .draining ∨ s.steam.boiler = .standing
      ∨ s.steam.boiler = .filling
    let noFill := s.faults.boilerSensor.active = true ∨ s.faults.boilerDry.active = true
    let noHeat := s.faults.cavityOverheat.active = true ∨ noFill
    let fills := req = .fill ∨ req = .rinse ∨ (req = .soak ∧ ¬wet)
      ∨ (req = .steam ∧ ¬working ∧ ¬(s.steam.boiler = .off ∧ wet))
    let heats (b : BoilerState) :=
      (noHeat → b = .off) ∧ (¬noHeat → (∃ c, s.boilerInUse = some c ∧ 980 ≤ c) → b = .ready)
        ∧ (¬noHeat → (¬∃ c, s.boilerInUse = some c ∧ 980 ≤ c) → b = .heating)
    let soaks := t.steam.boiler = .off
      ∧ (t.steam.soakHeating = true ↔ s.steam.soakHeating = true ∨ (¬noHeat ∧ s.runState ≠ some .paused))
    let drains := t.steam.drainStarted = true ∧ t.steam.drainServes = true ∧ t.steam.coolWait = some ⟨0, 0⟩
      ∧ t.steam.soakHeating = false
    (waits ∨ req = .none ∨ (req = .steam ∧ working) → t = s)
    ∧ (¬waits →
        (req = .steam → s.steam.boiler = .off → wet →
          ∃ b, t = { s with steam := { s.steam with boiler := b } } ∧ heats b)
        ∧ (req = .soak → wet → soaks)
        ∧ (req = .drain → drains ∧ (working → t.steam.boiler = .off) ∧ (¬working → t.steam.boiler = s.steam.boiler))
        ∧ (fills → noFill → t = s)
        ∧ (fills → ¬noFill → s.steam.high ≠ some .wet →
            t.steam.boiler = .filling ∧ t.steam.strokes = 0
            ∧ t.steam.fillWait =
                (match s.steam.tank with
                  | some (.present .empty) => some .empty
                  | some (.present _) => none
                  | _ => some .absent)
            ∧ (t.steam.stroke = .awaiting ↔ t.steam.fillWait = none))
        ∧ (fills → ¬noFill → s.steam.high = some .wet →
            t.steam.strokes = 0 ∧ t.steam.stroke = .idle ∧ t.steam.fillWait = none
            ∧ (req = .steam → heats t.steam.boiler)
            ∧ (req = .fill → t.steam.boiler = .off ∧ t.steam.handed = some .fillComplete ∧ t.scale.rinseOwed = true
                ∧ (s.scale.rinseOwed = false → t.scale.drainOnStop = true))
            ∧ (req = .soak → soaks)
            ∧ (req = .rinse → t.steam.boiler = .off ∧ drains)))
    ∧ Only [.boiler, .withdrawn, .scaleFlags, .writes] s t)
  ∧ ∀ s : State,
    (s.valveOpen = true → s.Reaches 20 s.steam.runOn →
      let v := s.crossed
      let u := v.drainEnds
      (v.steam.boiler = .draining → (∃ r, v.steam.runOn = some r ∧ 20 ≤ r.seconds) →
        exec .drainComplete s = .next (s.reported (u.fireRest s.secondDue))
        ∧ (u.steam.evaporation = 0 ∧ u.steam.owed = none ∧ u.steam.drainTimer = none ∧ u.steam.runOn = none)
        ∧ (v.steam.drainServes = false →
            u = State.serve
              { v with
                steam :=
                  { v.steam with
                    drainTimer := none, runOn := none, drainServes := false, boiler := .empty, evaporation := 0
                    owed := none } })
        ∧ (v.steam.drainServes = false → v.steam.request = .none → u.steam.boiler = .empty)
        ∧ (v.steam.drainServes = true → v.steam.request = .drain →
            u.steam.boiler = .empty ∧ u.steam.handed = some .drainComplete)
        ∧ (v.steam.drainServes = true → v.steam.request = .rinse → u.steam.rinsePass = v.steam.rinsePass + 1
            ∧ (v.steam.rinsePass = 0 → v.barsFilling = true →
                u.steam.boiler = .empty ∧ u.steam.handed = v.steam.handed ∧ u.scale = v.scale)
            ∧ (v.steam.rinsePass = 0 → v.steam.high ≠ some .wet → v.barsFilling = false →
                u.steam.boiler = .filling ∧ u.steam.strokes = 0 ∧ u.steam.handed = v.steam.handed ∧ u.scale = v.scale)
            ∧ (v.steam.rinsePass = 0 → v.steam.high = some .wet → v.barsFilling = false →
                u.steam.boiler = .off ∧ u.steam.drainStarted = true ∧ u.steam.drainServes = true
                ∧ u.steam.coolWait = some ⟨0, 0⟩ ∧ u.steam.handed = v.steam.handed ∧ u.scale = v.scale)
            ∧ (v.steam.rinsePass = 1 → u.steam.boiler = .empty ∧ u.steam.handed = some .rinseComplete
                ∧ u.scale = { v.scale with rinseOwed := false, drainOnStop := false }
                ∧ u.retained = v.retained.request ⟨v.scale.hardness, v.scale.load, false, v.scale.soakCount⟩))
        ∧ Only [.boiler, .evaporation, .withdrawn, .scaleFlags, .writes] v u)
      ∧ (s.boundaryDue = false → v.steam.boiler = .draining ∧ v.steam.runOn = some ⟨20, 0⟩))
    ∧ (s.valveOpen = true → s.steam.runOn = none → s.Reaches 90 s.steam.drainTimer →
      let v := s.crossed
      let u := v.drainTimeoutEvent
      (v.steam.boiler = .draining → v.steam.runOn = none → (∃ d, v.steam.drainTimer = some d ∧ 90 ≤ d.seconds) →
        exec .drainTimeout s = .next (s.reported (u.fireRest s.secondDue))
        ∧ (u.steam.boiler = .off ∧ u.steam.owed = some .timedOut ∧ u.steam.drainTimer = none ∧ u.steam.runOn = none)
        ∧ (v.faults.drainTimeout.active = false →
            u.faults.drainTimeout = ⟨true, true, min 255 (v.faults.drainTimeout.count + 1)⟩)
        ∧ (v.faults.drainTimeout.active = false → ∀ at_ p, v.activeRun = some (at_, p) →
            u.store.slot at_.slot = .done p (.aborted .fault) ∧ u.seq.run = none)
        ∧ Only (.fault .drainTimeout :: runAspects) v u)
      ∧ (s.boundaryDue = false →
          v.steam.boiler = .draining ∧ v.steam.runOn = none ∧ v.steam.drainTimer = some ⟨90, 0⟩))

/-! ## The sequencer -/

/-- A second of the sequencer: elapsed moves when the step counts, the prompt and interruption timers always; then COUNT ends at
the duration, or a timer at its limit ends the program ABORTED(TIMEOUT). The rows SECOND, STEP_COUNT_END, SOAK_COMPLETE,
PROMPT_TIMEOUT and INTERRUPTION_TIMEOUT run it on the state that the crossing has left by then; the examination of the door ends
the crossing. -/
def Obligations.Second : Prop :=
  ∀ s : State,
    let t := s.countSecond
    let timers :=
      t.seq.promptTimer = s.seq.promptTimer.map (fun n => min 3600 (n + 1))
        ∧ t.seq.interruption = s.seq.interruption.map (fun n => min 1800 (n + 1))
    let late := t.seq.promptTimer = some 3600 ∨ t.seq.interruption = some 1800
    let v := s.beforeSecond
    let w := v.countSecond
    let reached := v.counts = true ∧ w.durationReached = true
    (timers ∧ t = { s with seq := { s.seq with
        elapsed := t.seq.elapsed, promptTimer := t.seq.promptTimer, interruption := t.seq.interruption } })
    ∧ (∀ at_ p r, s.activeRun = some (at_, p) → p.step at_.step = some r →
        let running := s.runState = some .running
        let inBand := ∃ c sp, s.climate.lastCavity = some c ∧ r.setpoint = some sp
          ∧ c - 10 * (sp : Int) ≤ 10 * (r.band.getD 5 : Int) ∧ 10 * (sp : Int) - c ≤ 10 * (r.band.getD 5 : Int)
        let warm := ∃ c, s.boilerInUse = some c ∧ 550 ≤ c
        let counted :=
          (p.kind = .recipe ∧ at_.phase = .count ∧ running ∧ (s.seq.workKind ≠ some .banded ∨ inBand))
            ∨ (p.kind = .service ∧ r.mode = .soak ∧ running ∧ s.steam.soakHeating = true ∧ warm)
        let ended := counted ∧ ∃ d, (if r.mode = .soak then r.duration else s.seq.workDuration) = some d
          ∧ d ≤ min 65535 (s.seq.elapsed + 1)
        (s.counts = true ↔ counted)
        ∧ (counted → t.seq.elapsed = min 65535 (s.seq.elapsed + 1)) ∧ (¬counted → t.seq.elapsed = s.seq.elapsed)
        ∧ (ended → r.mode ≠ .soak → s.secondEvent = t.endCount.runSettle)
        ∧ (ended → r.mode = .soak →
            ∃ u, s.secondEvent = u.stepComplete.runSettle
              ∧ u.scale = { s.scale with load := 0, soakCount := min 65535 (s.scale.soakCount + 1) }
              ∧ u.retained = s.retained.request ⟨s.scale.hardness, 0, s.scale.rinseOwed, u.scale.soakCount⟩
              ∧ Only [.scaleLoad, .soakCount, .writes, .ceiling, .sharing, .queue, .freeIndex] t u)
        ∧ (¬ended → late → s.secondEvent = (t.endAborted .timeout).runSettle)
        ∧ (¬ended → ¬late → s.secondEvent = t))
    ∧ (s.activeRun = none → s.seq.promptTimer = none → s.seq.interruption = none → s.secondEvent = s)
    ∧ (s.secondDue = true → exec .second s = .next (s.reported v.secondEvent.examineDoor))
    ∧ (s.countEndDue = true → s.serviceActive = false → reached → (∀ r, v.activeStep = some r → r.mode ≠ .soak) →
        exec .stepCountEnd s = .next (s.reported w.endCount.runSettle.examineDoor))
    ∧ (s.countEndDue = true → s.serviceActive = true → reached → (∃ r, v.activeStep = some r ∧ r.mode = .soak) →
        exec .soakComplete s = .next (s.reported w.soakDone.stepComplete.runSettle.examineDoor))
    ∧ (s.secondDue = true → s.seq.promptTimer = some 3599 → v.seq.promptTimer = some 3599 → ¬reached →
        exec .promptTimeout s = .next (s.reported (w.endAborted .timeout).runSettle.examineDoor))
    ∧ (s.secondDue = true → s.seq.interruption = some 1799 → v.seq.interruption = some 1799 → ¬reached →
        exec .interruptionTimeout s = .next (s.reported (w.endAborted .timeout).runSettle.examineDoor))

/-- What an event leaves due is done within it, one thing at a time: the valve that may open, the completion handed by the steam
generator, the end of PREPARE; then the ceiling and the interruption timer follow. The timer follows the run state before each
thing too, so that the end of PREPARE, which finds the program RUNNING, finds the timer idle. Where the slots are legal nothing
stays due, however much the event has left. A ceiling that changes takes the share engine from STEADY to an ask round where it is
above the hold, and in ASKING back to STEADY at or below the hold, to a new round above it at another value than the latched ask;
every other state it leaves (what follows under MAINS, in part the reading of log 13, stands in AnnounceTickWalks). -/
def Obligations.Settling : Prop :=
  ∀ s : State,
    (s.NothingDue → s.settleOnce = s ∧ s.runSettle = (s.updateCeiling).keepInterruption)
    ∧ (let turn := s.keepInterruption.settleOnce
      (¬s.NothingDue → turn.NothingDue → s.runSettle = (turn.updateCeiling).keepInterruption)
      ∧ (s.StoreLegal → ¬s.NothingDue → s.runSettle = turn.runSettle)
      ∧ (s.valveDue = false → s.steam.handed = none → s.prepareDue = true → turn.seq.interruption = none))
    ∧ (s.StoreLegal → s.runSettle.NothingDue)
    ∧ (s.valveDue = true → s.settleOnce = s.openValve)
    ∧ (s.valveDue = false → ∀ x, s.steam.handed = some x →
        let t : State := { s with steam := { s.steam with handed := none } }
        (s.serviceActive = false → s.settleOnce = t)
        ∧ (s.serviceActive = true → s.seq.stopFlag = false → s.settleOnce = t.stepComplete)
        ∧ (s.serviceActive = true → s.seq.stopFlag = true → x = .drainComplete →
            s.settleOnce = t.endAborted (s.seq.forcedCause.getD .stopped))
        ∧ (s.serviceActive = true → s.seq.stopFlag = true → x ≠ .drainComplete → s.settleOnce = t))
    ∧ (s.valveDue = false → s.steam.handed = none →
        (s.prepareDue = true ↔
          s.phase = some .prepare ∧ (s.steam.boiler = .ready ∨ s.steam.boiler = .steaming) ∧ s.runState = some .running)
        ∧ ∀ r, s.activeStep = some r → s.prepareDue = true → s.settleOnce = s.toPreheat r)
    ∧ (s.keepInterruption = { s with seq := { s.seq with
          interruption :=
            if s.runState = some .held ∨ s.runState = some .paused then some (s.seq.interruption.getD 0) else none } })
    ∧ (s.updateCeiling.load = { s.load with ceiling := s.ceilingNow })
    ∧ (s.ceilingNow = s.load.ceiling → s.updateCeiling = s)
    ∧ (s.ceilingNow ≠ s.load.ceiling →
        let h := s.share
        let c := s.ceilingNow
        let changed (share : Share) : State := { s with load := { s.load with ceiling := c }, share := share }
        let asks (x : State) : State := { x with bus := s.bus.hand (.announce c h.lfsr) [x.ownAnnouncement] }
        let round (deny : Nat) (starved : Bool) : State :=
          asks (changed
            { h with
              state := .asking, ask := c, draw := h.lfsr, ownCount := 0, denyCount := deny, starved := starved })
        (h.state = .steady → c ≤ h.hold → s.updateCeiling = (changed h).mainsApply)
        ∧ (h.state = .steady → h.hold < c → s.updateCeiling = (round 0 false).mainsApply)
        ∧ (h.state = .asking → c ≤ h.hold →
            s.updateCeiling = (changed { h with state := .steady, denyCount := 0, starved := false }).mainsApply)
        ∧ (h.state = .asking → h.hold < c → c = h.ask → s.updateCeiling = (changed h).mainsApply)
        ∧ (h.state = .asking → h.hold < c → c ≠ h.ask → s.updateCeiling = (round h.denyCount h.starved).mainsApply)
        ∧ (h.state ≠ .steady → h.state ≠ .asking → s.updateCeiling = (changed h).mainsApply))
    ∧ s.runSettle.Follows
    ∧ Only runAspects s s.runSettle

/-- The end of a program: the slot is DONE with its outcome, the last-outcome record is set, every load is withdrawn, nothing of
the program stays in the sequencer or the climate record, the boiler request is NONE with a drain owed of a used boiler, and a
retained write is requested. -/
def Obligations.ProgramEnds : Prop :=
  ∀ (o : ProgramOutcome) (s : State),
    (s.activeRun = none → s.endProgram o = s)
    ∧ ∀ at_ p, s.activeRun = some (at_, p) →
        let t := s.endProgram o
        t.store =
            { slot0 := if at_.slot = .s0 then .done p o else s.store.slot0
              slot1 := if at_.slot = .s1 then .done p o else s.store.slot1
              staging := s.store.staging
              lastOutcome := ⟨if at_.slot = .s0 then 0 else 1, p.tag, p.kind, .ended o⟩ }
        ∧ t.seq =
            { run := none, pauseFlag := false, stopFlag := false, forcedCause := none, probeHold := false, workKind := none
              workDuration := none, elapsed := 0, prompt := none, promptTimer := none, interruption := none
              clock := s.seq.clock }
        ∧ (t.climate.mode = none ∧ t.climate.setpoint = none ∧ t.climate.humidityTarget = none ∧ t.climate.venting = false
          ∧ t.climate.ventTimer = none ∧ t.climate.flapCommand = .opened)
        ∧ (t.steam.request = .none ∧ t.steam.used = false ∧ t.steam.handed = none)
        ∧ (s.steam.request ≠ .none → t.steam.boiler ≠ .filling ∧ t.steam.boiler ≠ .heating ∧ t.steam.boiler ≠ .ready
            ∧ t.steam.boiler ≠ .steaming ∧ t.steam.soakHeating = false)
        ∧ (s.steam.used = true → t.steam.boiler ≠ .empty → t.steam.owed = some (s.steam.owed.getD .endOfProgram))
        ∧ (s.steam.used = false → t.steam.owed = s.steam.owed)
        ∧ t.scale = { s.scale with drainOnStop := false }
        ∧ t.retained = s.retained.request ⟨s.scale.hardness, s.scale.load, s.scale.rinseOwed, s.scale.soakCount⟩
        ∧ (s.load.running = true → ∀ i, t.load.withdrawn.get i = true)
        ∧ t.load.ceiling = 0
        ∧ Only runAspects s t

/-- The steps of a program: a completed step gives the next, or the end of the program with its chain; a step is entered with its
working copy, its climate record and its first phase, but for a humid step under a boiler fault; the temperature integrator is
kept between modes that drive the same loads, the humidity integrator between humidity-regulated modes. Before the chain is
examined an end-of-program drain with its conditions met opens its valve (log 51). PROMPT_IN leads to PREPARE in a humid step, from
there or from PROMPT_IN the way goes to PREHEAT in a step that has one, and from there to COUNT, each with its boiler request, its
prompt and its probe test; COUNT ends in PROMPT_OUT, in VENT where the oven dries, or in the step's completion. -/
def Obligations.StepsAndPhases : Prop :=
  ∀ (s : State) (at_ : Position) (p : Program), s.activeRun = some (at_, p) →
    let last := p.stepCount ≤ at_.step + 1
    let boilerFault :=
      s.faults.boilerSensor.active = true ∨ s.faults.boilerDry.active = true ∨ s.faults.drainTimeout.active = true
    let regulated (m : Mode) := m = .combi ∨ m = .reheat ∨ m = .proof
    let bothHumid (m : Mode) := regulated m ∧ ∃ old, s.climate.mode = some old ∧ regulated old
    let sameLoads (m : Mode) := ∀ i, 0 < m.weight i ↔ ∃ old, s.climate.mode = some old ∧ 0 < old.weight i
    (s.seq.stopFlag = true → s.stepComplete = s.endAborted .stopped)
    ∧ (s.seq.stopFlag = false → last →
        let e := s.endProgram .finished
        let f := if e.valveDue then e.openValve else e
        (∀ q, f.store.slot at_.slot.other = .ready q → q.chain = true →
          (f.startRefusal q = none → s.stepComplete = f.startProgram at_.slot.other q)
          ∧ (∀ a, f.startRefusal q = some a →
              s.stepComplete = { f with report := { f.report with chainRefusal := some a } }))
        ∧ ((¬∃ q, f.store.slot at_.slot.other = .ready q ∧ q.chain = true) → s.stepComplete = f))
    ∧ (s.seq.stopFlag = false → ¬last → ∀ r, p.step (at_.step + 1) = some r →
        (p.kind = .recipe → r.mode.humid = true → boilerFault → s.stepComplete = s.endAborted .fault)
        ∧ (p.kind = .recipe → ¬(r.mode.humid = true ∧ boilerFault) →
            let phase : Phase :=
              if r.promptIn.isSome then .promptIn else if r.mode.humid then .prepare
                else if r.preheat then .preheat else .count
            let t := s.stepComplete
            let timedKind := r.endKind = some .timed ∨ r.endKind = some .banded
            let lost := phase = .count ∧ r.endKind = some .core ∧ s.climate.coreStatus ≠ .present
            t.seq.run = some ⟨at_.slot, at_.step + 1, phase⟩
            ∧ t.store.slot at_.slot = .active p
            ∧ (t.climate.mode = some r.mode ∧ t.climate.setpoint = r.setpoint ∧ t.climate.venting = false)
            ∧ t.climate.humidityTarget =
                (match r.mode with
                  | .reheat => some 50
                  | .proof => some (r.humidity.getD 75)
                  | .combi => r.humidity
                  | _ => none)
            ∧ (sameLoads r.mode → t.climate.tempI = s.climate.tempI) ∧ (¬sameLoads r.mode → t.climate.tempI = 0)
            ∧ (bothHumid r.mode → t.climate.humI = s.climate.humI) ∧ (¬bothHumid r.mode → t.climate.humI = 0)
            ∧ t.steam.request = (if phase = .promptIn then .none else r.mode.request)
            ∧ t.seq.elapsed = 0
            ∧ (¬lost → t.seq.workKind = r.endKind ∧ t.seq.probeHold = false
                ∧ t.seq.workDuration = if timedKind then r.duration else none)
            ∧ (lost → ∀ d, r.fallback = some d →
                t.seq.workKind = some .timed ∧ t.seq.workDuration = some d ∧ t.seq.probeHold = false)
            ∧ (lost → r.fallback = none → t.seq.workKind = some .core ∧ t.seq.probeHold = true)
            ∧ (phase = .promptIn → t.seq.prompt = r.promptIn ∧ t.seq.promptTimer = some 0)
            ∧ (phase = .count → r.endKind = some .promptOnly →
                t.seq.prompt = r.promptOut ∧ t.seq.promptTimer = some 0)
            ∧ (phase ≠ .promptIn → ¬(phase = .count ∧ r.endKind = some .promptOnly) →
                t.seq.prompt = none ∧ t.seq.promptTimer = none))
        ∧ (p.kind = .service →
            let t := s.stepComplete
            t.seq.run = some ⟨at_.slot, at_.step + 1, .count⟩ ∧ t.climate.mode = some r.mode
            ∧ (sameLoads r.mode → t.climate.tempI = s.climate.tempI) ∧ (¬sameLoads r.mode → t.climate.tempI = 0)
            ∧ (bothHumid r.mode → t.climate.humI = s.climate.humI) ∧ (¬bothHumid r.mode → t.climate.humI = 0)
            ∧ t.steam.request = r.mode.request ∧ (r.mode = .rinse → t.scale.drainOnStop = true)))
    ∧ (∀ r : StepRecord,
        let entered (phase : Phase) : State := { s with seq := { s.seq with run := some { at_ with phase := phase } } }
        let lost := r.endKind = some .core ∧ s.climate.coreStatus ≠ .present
        let t := s.toCount r
        (r.mode.humid = true → s.toPrepare r = (entered .prepare).handRequest .steam)
        ∧ (r.mode.humid = false → s.toPrepare r = s.toPreheat r)
        ∧ (r.preheat = true → s.toPreheat r = (entered .preheat).handRequest r.mode.request)
        ∧ (r.preheat = false → s.toPreheat r = s.toCount r)
        ∧ (t.seq.run = some { at_ with phase := .count } ∧ t.steam = ((entered .count).handRequest r.mode.request).steam)
        ∧ (r.endKind = some .promptOnly → t.seq.prompt = r.promptOut ∧ t.seq.promptTimer = some 0)
        ∧ (r.endKind ≠ some .promptOnly → t.seq.prompt = s.seq.prompt ∧ t.seq.promptTimer = s.seq.promptTimer)
        ∧ (¬lost → t.seq.workKind = s.seq.workKind ∧ t.seq.workDuration = s.seq.workDuration ∧ t.seq.elapsed = s.seq.elapsed
            ∧ t.seq.probeHold = s.seq.probeHold)
        ∧ (lost → ∀ d, r.fallback = some d →
            t.seq.workKind = some .timed ∧ t.seq.workDuration = some d ∧ t.seq.elapsed = 0
              ∧ t.seq.probeHold = s.seq.probeHold)
        ∧ (lost → r.fallback = none → t.seq.workKind = s.seq.workKind ∧ t.seq.workDuration = s.seq.workDuration
              ∧ t.seq.elapsed = s.seq.elapsed ∧ t.seq.probeHold = true)
        ∧ (t.seq.pauseFlag = s.seq.pauseFlag ∧ t.seq.stopFlag = s.seq.stopFlag ∧ t.seq.forcedCause = s.seq.forcedCause
          ∧ t.seq.interruption = s.seq.interruption)
        ∧ Only [.program, .boiler, .withdrawn, .scaleFlags, .writes] s t)
    ∧ (∀ m : Mode,
        (m = .steam ∨ m = .combi ∨ m = .reheat ∨ m = .proof → m.humid = true ∧ m.request = .steam)
        ∧ (m = .drain → m.request = .drain) ∧ (m = .fill → m.request = .fill) ∧ (m = .soak → m.request = .soak)
        ∧ (m = .rinse → m.request = .rinse)
        ∧ (m = .convection ∨ m = .topBottom ∨ m = .grill ∨ m = .bottomHeat ∨ m = .keepWarm ∨ m = .wait →
            m.humid = false ∧ m.request = .none))
    ∧ (∀ r, p.step at_.step = some r →
        let u : State := { s with seq := { s.seq with probeHold := false } }
        let dries := s.stepHumid = true ∧ ∀ q, p.step (at_.step + 1) = some q → q.mode.humid = false
        (r.promptOut.isSome = true → r.endKind ≠ some .promptOnly →
          let t := s.endCount
          t.seq.run = some { at_ with phase := .promptOut } ∧ t.seq.prompt = r.promptOut ∧ t.seq.promptTimer = some 0
          ∧ t.steam.request = .none ∧ t.seq.probeHold = false)
        ∧ (r.promptOut.isSome = false ∨ r.endKind = some .promptOnly →
            (dries → s.endCount = u.toVent) ∧ (¬dries → s.endCount = u.stepComplete))
        ∧ (dries →
            let t := s.toVent
            t.seq.run = some { at_ with phase := .vent } ∧ t.steam.request = .none ∧ t.climate.venting = true))

/-- RETAINED_WRITE_COMPLETE: a read-back that matches puts the contents into the record and latches a present RETAINED_RECORD; one
that does not leaves the record torn and the write starts again; a pending request is then written. -/
def Obligations.RetainedWrite : Prop :=
  ∀ s : State,
    (∀ good, s.retained.writing = none → exec (.retainedWriteComplete good) s = .next s)
    ∧ ∀ c, s.retained.writing = some c →
        (let r := s.faults.retainedRecord
          let ends := r.active = true ∧ r.latched = false
          let stored : Retained := { stored := .written c c.check, writing := s.retained.pendingWrite, pendingWrite := none }
          (¬ends → exec (.retainedWriteComplete true) s = .next { s with retained := stored })
          ∧ (ends →
              exec (.retainedWriteComplete true) s
                = .next (s.reported
                    { s with retained := stored, faults := { s.faults with retainedRecord := { r with latched := true } } })))
        ∧ exec (.retainedWriteComplete false) s
            = .next
                { s with
                  retained :=
                    { stored := .written c (~~~ c.check), writing := some (s.retained.pendingWrite.getD c)
                      pendingWrite := none } }

/-! ## The requests -/

/-- The path of a request: its row of the table is the arrival of its frame; it ends QUIET; DUPLICATE_STATION drops all but STOP;
then the source, the code and the payload length are checked, where a STEP_PART_A is dropped without an answer; an answer carries
the code, the answer code's number and its data. The conditions that come with a CLEAR_FAULTS (log 52) have no effect where it is
dropped or refused. -/
def Obligations.RequestPath : Prop :=
  ∀ (src : Nat) (code : Byte) (body : List Byte) (s : State), s.receives = true → src ≠ s.station →
    let h := s.heard
    let frame := exec (.requestUnknownCode src code body) s
    let n := code.toNat
    let lengths := [0, 4, 7, 8, 2, 1, 1, 1, 1, 7, 2, 2, 2, 2, 1, 1, 2]
    let duplicate := s.faults.duplicateStation.active = true
    let dropped := duplicate ∧ n ≠ 7
    let peer := s.countedPeers.find? (fun p => decide (p.station = src))
    let known := ∃ p, peer = some p ∧ (p.kind = .panel ∨ p.kind = .module)
    let data : List Byte :=
      if n = 3 ∨ n = 4 ∨ n = 10 ∨ n = 11 ∨ n = 12 then body.take 1
        else if n = 15 then activeFaultBytes s.faults else []
    let refused (a : AnswerCode) : Prop :=
      (n = 2 → frame = .next (s.reported h)) ∧ (n ≠ 2 → frame = .next (s.reported (h.answer src code a data)))
    (h.bus.link = .idle ∧ h.share.lfsr = lfsrNext s.share.lfsr ∧ h.share.state ≠ .quiet
      ∧ (s.share.state ≠ .quiet → Only [.link, .lfsr] s h) ∧ Only [.link, .lfsr, .sharing, .queue] s h)
    ∧ (dropped → frame = .next (s.reported h))
    ∧ (¬dropped → peer = none → refused .unknownSource)
    ∧ (¬dropped → (∃ p, peer = some p ∧ p.kind ≠ .panel ∧ p.kind ≠ .module) → refused .notPermitted)
    ∧ (¬dropped → known → lengths[n]? ≠ some (body.length + 1) → refused .badField)
    ∧ (∀ a d, (h.answer src code a d).bus = h.bus.hand (.answer src) [code :: BitVec.ofNat 8 a.number :: d]
        ∧ Only [.queue] h (h.answer src code a d))
    ∧ [AnswerCode.ok, .clamped, .busy, .notReady, .notLoading, .badMode, .badField, .badIndex, .outOfOrder, .notOriginator,
        .notPermitted, .unknownSource, .scaleLock, .rinseOwed, .faultBlock, .stalePrompt, .noProgram].map AnswerCode.number
        = List.range 17
    ∧ (exec (.loadHeader src body) s = exec (.requestUnknownCode src 1#8 body) s
      ∧ exec (.stepPartA src body) s = exec (.requestUnknownCode src 2#8 body) s
      ∧ exec (.stepPartB src body) s = exec (.requestUnknownCode src 3#8 body) s
      ∧ exec (.start src body) s = exec (.requestUnknownCode src 4#8 body) s
      ∧ exec (.pause src body) s = exec (.requestUnknownCode src 5#8 body) s
      ∧ exec (.continue_ src body) s = exec (.requestUnknownCode src 6#8 body) s
      ∧ exec (.stop src body) s = exec (.requestUnknownCode src 7#8 body) s
      ∧ exec (.skip src body) s = exec (.requestUnknownCode src 8#8 body) s
      ∧ exec (.adjust src body) s = exec (.requestUnknownCode src 9#8 body) s
      ∧ exec (.confirm src body) s = exec (.requestUnknownCode src 10#8 body) s
      ∧ exec (.clear src body) s = exec (.requestUnknownCode src 11#8 body) s
      ∧ exec (.discard src body) s = exec (.requestUnknownCode src 12#8 body) s
      ∧ exec (.setHardness src body) s = exec (.requestUnknownCode src 13#8 body) s
      ∧ exec (.startDescale src body) s = exec (.requestUnknownCode src 14#8 body) s
      ∧ exec (.clearFaults src ⟨body, .nothing⟩) s = exec (.requestUnknownCode src 15#8 body) s
      ∧ exec (.query src body) s = exec (.requestUnknownCode src 16#8 body) s)
    ∧ ∀ back : Returning, duplicate ∨ ¬known ∨ body ≠ [] →
        exec (.clearFaults src ⟨body, back⟩) s = exec (.requestUnknownCode src 15#8 body) s

/-- LOAD_HEADER takes the lowest EMPTY slot into LOADING for its source. STEP_PART_A is staged in the table of two, newest last,
in place of its source's entry or of the oldest. -/
def Obligations.LoadHeaderAndStepPartA : Prop :=
  ∀ (src : Nat) (s : State), s.TakesFrom src →
    let h := s.heard
    (∀ b hi lo : Byte,
      let count := b.toNat % 16
      let run := exec (.loadHeader src [b, hi, lo]) s;
      let p : Program :=
        { kind := .recipe, stepCount := count, chain := decide (b.toNat / 64 % 2 = 1), tag := hi.toNat * 256 + lo.toNat
          originator := src, steps := List.replicate count none }
      (128 ≤ b.toNat → run = .next (s.reported (h.answer src 1#8 .notPermitted [])))
      ∧ (b.toNat < 128 → count = 0 ∨ 12 < count → run = .next (s.reported (h.answer src 1#8 .badField [])))
      ∧ (b.toNat < 128 → 1 ≤ count → count ≤ 12 →
          (s.store.slot0 = .empty →
            run = .next (s.reported
              (State.answer src 1#8 .ok [0#8] { h with store := { h.store with slot0 := .loading p } })))
          ∧ (s.store.slot0 ≠ .empty → s.store.slot1 = .empty →
            run = .next (s.reported
              (State.answer src 1#8 .ok [1#8] { h with store := { h.store with slot1 := .loading p } })))
          ∧ (s.store.slot0 ≠ .empty → s.store.slot1 ≠ .empty →
            run = .next (s.reported (h.answer src 1#8 .busy [])))))
    ∧ (∀ si m sp hu d1 d0 : Byte,
      let e : Staged :=
        { src := src, slot := si.toNat / 16, index := si.toNat % 16
          half :=
            { modeCode := m.toNat / 16, endCode := m.toNat / 2 % 8, durationPresent := decide (m.toNat % 2 = 1)
              setpoint := sp.toNat, humidity := hu.toNat, duration := d1.toNat * 256 + d0.toNat } }
      let others := s.store.staging.filter (fun x => decide (x.src ≠ src))
      exec (.stepPartA src [si, m, sp, hu, d1, d0]) s
        = .next (s.reported
            { h with store := { h.store with
                staging := (if others.length < 2 then others else others.drop 1) ++ [e] } }))

/-- STEP_PART_B joins the staged half of its source, checks the slot and then the fields, and stores the step, brought in range
and without what it cannot use, CLAMPED where that changed it; the slot with its last step loaded is READY. -/
def Obligations.StepPartB : Prop :=
  ∀ (src : Nat) (s : State) (si b2 b3 f1 f0 pin pout : Byte), s.TakesFrom src →
    let h := s.heard
    let run := exec (.stepPartB src [si, b2, b3, f1, f0, pin, pout]) s;
    let entry := s.store.staging.find? (fun e => decide (e.src = src))
    let n := si.toNat / 16
    let i := si.toNat % 16
    (entry = none → run = .next (s.reported (h.answer src 3#8 .outOfOrder [si])))
    ∧ ∀ e, entry = some e →
        (¬(e.slot = n ∧ e.index = i) → run = .next (s.reported (h.answer src 3#8 .outOfOrder [si])))
        ∧ (e.slot = n → e.index = i →
          let freed : State := { h with store := { h.store with staging := h.store.staging.filter (fun x => decide (x.src ≠ src)) } }
          let refused (a : AnswerCode) : Prop := run = .next (s.reported (freed.answer src 3#8 a [si]))
          (2 ≤ n → refused .badIndex)
          ∧ ∀ ix : SlotIx, ix.number = n →
            ((¬∃ p, s.store.slot ix = .loading p) → refused .notLoading)
            ∧ ∀ p, s.store.slot ix = .loading p →
              (src ≠ p.originator → refused .notOriginator)
              ∧ (src = p.originator → p.stepCount ≤ i → refused .badIndex)
              ∧ (src = p.originator → i < p.stepCount →
                let a := e.half
                let target := b2.toNat % 128
                let rank := b3.toNat / 32
                let band := b3.toNat % 32
                let fallback := f1.toNat * 256 + f0.toNat
                (9 < a.modeCode → refused .badMode)
                ∧ ∀ m, Mode.ofCode a.modeCode = some m → a.modeCode ≤ 9 →
                  let timed := a.endCode = 0 ∨ a.endCode = 1
                  let bad :=
                    3 < a.endCode ∨ (a.endCode = 1 ∧ m = .wait) ∨ (m = .combi ∧ a.humidity = 255)
                      ∨ (timed ∧ a.durationPresent = false) ∨ (a.endCode = 2 ∧ target = 0)
                      ∨ (a.endCode = 3 ∧ pout.toNat = 255) ∨ (a.durationPresent = true ∧ a.duration = 0)
                      ∨ (240 ≤ pin.toNat ∧ pin.toNat ≤ 254) ∨ (240 ≤ pout.toNat ∧ pout.toNat ≤ 254) ∨ 3 < rank
                  let humidity := if a.humidity = 255 then none else some a.humidity
                  let r : StepRecord :=
                    { mode := m
                      setpoint := m.setpointRange.map (fun g => max g.1 (min g.2 a.setpoint))
                      humidity :=
                        match m with
                        | .combi => humidity.map (fun v => max 20 (min 90 v))
                        | .proof => humidity.map (fun v => max 60 (min 90 v))
                        | _ => none
                      endKind := EndKind.ofCode a.endCode
                      duration := if timed then some a.duration else none
                      band := if m = .wait ∨ band = 0 then none else some (max 1 (min 20 band))
                      coreTarget := if a.endCode = 2 ∧ target ≠ 0 then some (max 30 (min 99 target)) else none
                      fallback := if a.endCode = 2 ∧ fallback ≠ 0 then some fallback else none
                      preheat := decide (128 ≤ b2.toNat ∧ m ≠ .wait)
                      promptIn := if pin.toNat = 255 then none else some pin.toNat
                      promptOut := if pout.toNat = 255 then none else some pout.toNat
                      rank := rank }
                  let changed :=
                    (m ≠ .wait ∧ r.setpoint ≠ some a.setpoint)
                      ∨ (r.humidity ≠ humidity ∧ ¬(m = .reheat ∧ humidity = some 50))
                      ∨ (a.durationPresent = true ∧ ¬timed) ∨ (band ≠ 0 ∧ r.band ≠ some band)
                      ∨ (target ≠ 0 ∧ r.coreTarget ≠ some target) ∨ (fallback ≠ 0 ∧ a.endCode ≠ 2)
                      ∨ (128 ≤ b2.toNat ∧ m = .wait)
                  let q : Program := { p with steps := p.steps.set i (some r) }
                  (bad → refused .badField)
                  ∧ (¬bad →
                    ∃ u x, run = .next (s.reported (u.answer src 3#8 x [si]))
                      ∧ (changed → x = .clamped) ∧ (¬changed → x = .ok)
                      ∧ (q.complete = true → u.store.slot ix = .ready q
                          ∧ u.store.staging = freed.store.staging.filter (fun z => decide (z.slot ≠ n)))
                      ∧ (q.complete = false → u.store.slot ix = .loading q ∧ u.store.staging = freed.store.staging)
                      ∧ u.store.slot ix.other = s.store.slot ix.other ∧ u.store.lastOutcome = s.store.lastOutcome
                      ∧ Only [.slots, .staging] freed u)))

/-- START makes the start checks in order; a program that passes them starts: its slot is ACTIVE, integrators and millilitres are
0, no refusal of a chained start stands any more, and its step 0 is entered. -/
def Obligations.Start : Prop :=
  ∀ (src : Nat) (n : Byte) (s : State), s.TakesFrom src →
    let h := s.heard
    let run := exec (.start src [n]) s;
    let refused (a : AnswerCode) : Prop := run = .next (s.reported (h.answer src 4#8 a [n]))
    let on (k : FaultKind) : Prop := (s.faults.get k).active = true
    (2 ≤ n.toNat → refused .badIndex)
    ∧ ∀ ix : SlotIx, ix.number = n.toNat →
      ((¬∃ p, s.store.slot ix = .ready p) → refused .notReady)
      ∧ ∀ p, s.store.slot ix = .ready p →
        let heating := ∃ r ∈ p.records, r.mode.service = false ∧ r.mode ≠ .wait
        let humid := ∃ r ∈ p.records, r.mode.humid = true
        let r4 := heating ∧ (on .cavitySensor ∨ on .cavityOverheat ∨ on .mains)
        let r5 := humid ∧ s.scale.rinseOwed = true
        let r6 := humid ∧ 900000 ≤ s.scale.load
        let r7 := humid ∧ (on .boilerSensor ∨ on .boilerDry ∨ on .drainTimeout)
        (s.hasActive = true → refused .busy)
        ∧ (s.hasActive = false →
          (r4 → refused .faultBlock) ∧ (¬r4 → r5 → refused .rinseOwed) ∧ (¬r4 → ¬r5 → r6 → refused .scaleLock)
          ∧ (¬r4 → ¬r5 → ¬r6 → r7 → refused .faultBlock)
          ∧ (¬r4 → ¬r5 → ¬r6 → ¬r7 → p.kind = .recipe → ∀ r, p.step 0 = some r →
            let phase : Phase :=
              if r.promptIn.isSome then .promptIn else if r.mode.humid then .prepare
                else if r.preheat then .preheat else .count
            ∃ u, run = .next (s.reported (u.runSettle.answer src 4#8 .ok [n]))
              ∧ (u.store.slot ix = .active p ∧ u.store.slot ix.other = s.store.slot ix.other)
              ∧ u.seq.run = some ⟨ix, 0, phase⟩
              ∧ (u.seq.pauseFlag = false ∧ u.seq.stopFlag = false ∧ u.seq.interruption = none ∧ u.seq.elapsed = 0)
              ∧ (u.climate.mode = some r.mode ∧ u.climate.setpoint = r.setpoint ∧ u.climate.tempI = 0 ∧ u.climate.humI = 0)
              ∧ u.steam.millilitres = 0
              ∧ u.steam.request = (if phase = .promptIn then .none else r.mode.request)
              ∧ u.report.chainRefusal = none
              ∧ (u.climate.coolingFan = true ↔ s.climate.coolingFan = true ∨ ¬on .mains)
              ∧ Only runAspects h u))

/-- PAUSE withdraws every load, ends soak heating and cuts a stroke short; CONTINUE clears the pause, and the run state follows
from the hold causes. -/
def Obligations.PauseAndContinue : Prop :=
  ∀ (src : Nat) (s : State), s.TakesFrom src →
    let h := s.heard
    (let run := exec (.pause src []) s;
      (s.hasActive = false → run = .next (s.reported (h.answer src 5#8 .noProgram [])))
      ∧ (s.runState = some .stopping → run = .next (s.reported (h.answer src 5#8 .notPermitted [])))
      ∧ (s.runState = some .paused → run = .next (s.reported (h.answer src 5#8 .ok [])))
      ∧ (s.runState = some .running ∨ s.runState = some .held →
          ∃ u, run = .next (s.reported (u.runSettle.answer src 5#8 .ok []))
            ∧ u.seq = { s.seq with pauseFlag := true } ∧ u.runState = some .paused
            ∧ (s.load.running = true → ∀ i, u.load.withdrawn.get i = true)
            ∧ (u.steam.soakHeating = false ∧ (∀ c, u.steam.stroke ≠ .running c) ∧ u.statedDemand = 0
              ∧ u.steam.boiler = s.steam.boiler ∧ u.steam.request = s.steam.request)
            ∧ (∀ r, u.activeStep = some r →
                u.ceilingNow =
                  (if r.mode = .wait then 0
                    else match s.startup.variant with
                      | 0 => 8
                      | 1 => 7
                      | _ => 9))
            ∧ Only [.program, .withdrawn, .boiler] h u))
    ∧ (let run := exec (.continue_ src []) s;
      (s.hasActive = false → run = .next (s.reported (h.answer src 6#8 .noProgram [])))
      ∧ (s.runState = some .running ∨ s.runState = some .held ∨ s.runState = some .stopping →
          run = .next (s.reported (h.answer src 6#8 .ok [])))
      ∧ (s.runState = some .paused →
          ∃ u, run = .next (s.reported (u.runSettle.answer src 6#8 .ok []))
            ∧ u.seq = { s.seq with pauseFlag := false }
            ∧ u.runState = some (if u.doorHold = true ∨ u.tankHold = true ∨ u.probeHold = true then .held else .running)
            ∧ (s.steam.request ≠ .soak → u = { h with seq := { h.seq with pauseFlag := false } })
            ∧ (s.steam.request = .soak → s.steam.boiler = .off → s.steam.low = some .wet → s.mustDrainFirst = false →
                s.barsHeating = false → u.steam.soakHeating = true ∧ u.steam.boiler = .off)
            ∧ Only [.program, .withdrawn, .boiler, .scaleFlags, .writes] h u))

/-- STOP, taken even under DUPLICATE_STATION: a dry step and a service program without drain-on-stop end ABORTED(STOPPED); a humid
step is STOPPING in its VENT; with drain-on-stop a forced drain starts. -/
def Obligations.Stop : Prop :=
  ∀ (src : Nat) (s : State), s.receives = true → src ≠ s.station →
    (∃ p, s.countedPeers.find? (fun p => decide (p.station = src)) = some p ∧ (p.kind = .panel ∨ p.kind = .module)) →
    let h := s.heard
    let run := exec (.stop src []) s;
    (s.activeRun = none → run = .next (s.reported (h.answer src 7#8 .noProgram [])))
    ∧ ∀ at_ p, s.activeRun = some (at_, p) →
      (s.seq.stopFlag = true → run = .next (s.reported (h.answer src 7#8 .ok [])))
      ∧ (s.seq.stopFlag = false →
        ((p.kind = .recipe ∧ s.stepHumid = false) ∨ (p.kind = .service ∧ s.scale.drainOnStop = false) →
          run = .next (s.reported ((h.endAborted .stopped).runSettle.answer src 7#8 .ok [])))
        ∧ (p.kind = .recipe → s.stepHumid = true →
          ∃ u, run = .next (s.reported (u.runSettle.answer src 7#8 .ok []))
            ∧ u.seq =
                { s.seq with
                  run := some { at_ with phase := .vent }, stopFlag := true, pauseFlag := false, probeHold := false
                  prompt := none, promptTimer := none }
            ∧ (at_.phase = .vent → Only [.program] h u)
            ∧ (at_.phase ≠ .vent → u.steam.request = .none ∧ u.climate.venting = true
              ∧ (s.climate.venting = false → u.climate.ventTimer = some ⟨0, 0⟩
                ∧ (s.load.running = true → ∀ i, u.load.withdrawn.get i = true)))
            ∧ Only runAspects h u)
        ∧ (p.kind = .service → s.scale.drainOnStop = true →
          ∃ u, run = .next (s.reported (u.runSettle.answer src 7#8 .ok []))
            ∧ u.seq =
                { s.seq with
                  run := some { at_ with phase := .count }, stopFlag := true, forcedCause := some .stopped
                  pauseFlag := false, interruption := none, prompt := none, promptTimer := none }
            ∧ u.steam.request = .drain ∧ u.scale = s.scale
            ∧ Only [.program, .boiler, .withdrawn, .scaleFlags, .writes] h u))

/-- SKIP passes over every phase but VENT. CONFIRM completes the waiting prompt of its code, and its phase ends. -/
def Obligations.SkipAndConfirm : Prop :=
  ∀ (src : Nat) (s : State), s.TakesFrom src →
    let h := s.heard
    let noPrompt : State := { h with seq := { h.seq with prompt := none, promptTimer := none } }
    let noCause : State := { h with seq := { h.seq with prompt := none, promptTimer := none, probeHold := false } }
    let follows (at_ : Position) (p : Program) (x u : State) : Prop :=
      let dries := x.stepHumid = true ∧ ∀ q, p.step (at_.step + 1) = some q → q.mode.humid = false
      (dries → u = x.toVent) ∧ (¬dries → u = x.stepComplete)
    (let run := exec (.skip src []) s;
      let refused (a : AnswerCode) : Prop := run = .next (s.reported (h.answer src 8#8 a []))
      (s.activeRun = none → refused .noProgram)
      ∧ ∀ at_ p, s.activeRun = some (at_, p) →
        (p.kind = .service → refused .notPermitted)
        ∧ (p.kind = .recipe → src ≠ p.originator → refused .notOriginator)
        ∧ (p.kind = .recipe → src = p.originator → s.seq.stopFlag = true ∨ at_.phase = .vent → refused .notPermitted)
        ∧ (p.kind = .recipe → src = p.originator → s.seq.stopFlag = false → at_.phase ≠ .vent →
          ∃ u, run = .next (s.reported (u.runSettle.answer src 8#8 .ok [])) ∧ follows at_ p noCause u
            ∧ Only runAspects h u))
    ∧ ∀ n : Byte,
      let run := exec (.confirm src [n]) s;
      (s.activeRun = none ∨ s.seq.stopFlag = true ∨ s.seq.prompt ≠ some n.toNat →
        run = .next (s.reported (h.answer src 10#8 .stalePrompt [n])))
      ∧ ∀ at_ p r, s.activeRun = some (at_, p) → p.step at_.step = some r → s.seq.stopFlag = false →
        s.seq.prompt = some n.toNat →
        ∃ u, run = .next (s.reported (u.runSettle.answer src 10#8 .ok [n]))
          ∧ (at_.phase = .promptIn → u = noPrompt.toPrepare r)
          ∧ (at_.phase = .promptOut → follows at_ p noPrompt u)
          ∧ (at_.phase = .count → follows at_ p noCause u)
          ∧ (at_.phase = .promptIn →
              u.seq.prompt = none ∨ (r.endKind = some .promptOnly ∧ u.seq.prompt = r.promptOut))
          ∧ Only runAspects h u

/-- ADJUST: the checks in order, then every field carried is applied to the step record, the working copy and the climate record
together, CLAMPED where a value was brought into range. Bits 7 to 4 of the presence byte are ignored (log 34). -/
def Obligations.Adjust : Prop :=
  ∀ (src : Nat) (s : State) (bits sp hu t1 t0 ct : Byte), s.TakesFrom src →
    let h := s.heard
    let run := exec (.adjust src [bits, sp, hu, t1, t0, ct]) s;
    let refused (a : AnswerCode) : Prop := run = .next (s.reported (h.answer src 9#8 a []))
    let hasSp := bits.toNat / 8 % 2 = 1
    let hasHu := bits.toNat / 4 % 2 = 1
    let hasTime := bits.toNat / 2 % 2 = 1
    let hasCore := bits.toNat % 2 = 1
    let v := t1.toNat * 256 + t0.toNat
    (s.activeRun = none → refused .noProgram)
    ∧ ∀ at_ p r, s.activeRun = some (at_, p) → p.step at_.step = some r →
      (p.kind = .service → refused .notPermitted)
      ∧ (p.kind = .recipe → src ≠ p.originator → refused .notOriginator)
      ∧ (p.kind = .recipe → src = p.originator → s.seq.stopFlag = true → refused .notPermitted)
      ∧ (p.kind = .recipe → src = p.originator → s.seq.stopFlag = false →
        let timed := s.seq.workKind = some .timed ∨ s.seq.workKind = some .banded
        let bad :=
          (¬hasSp ∧ ¬hasHu ∧ ¬hasTime ∧ ¬hasCore) ∨ (hasSp ∧ r.mode = .wait)
            ∨ (hasHu ∧ r.mode ≠ .combi ∧ r.mode ≠ .proof) ∨ (hasTime ∧ ¬(timed ∧ 1 ≤ v))
            ∨ (hasCore ∧ s.seq.workKind ≠ some .core)
        let low := if r.mode = .combi then 20 else 60
        let setpoint := if hasSp then r.mode.setpointRange.map (fun g => max g.1 (min g.2 sp.toNat)) else r.setpoint
        let humidity := if hasHu then some (max low (min 90 hu.toNat)) else r.humidity
        let core := if hasCore then some (max 30 (min 99 ct.toNat)) else r.coreTarget
        let work := if s.seq.elapsed + v ≤ 65535 then s.seq.elapsed + v else 65535
        let elapsed := if s.seq.elapsed + v ≤ 65535 then s.seq.elapsed else 65535 - v
        let after : StepRecord :=
          { r with
            setpoint := setpoint, humidity := humidity, coreTarget := core
            duration := if hasTime ∧ s.seq.workKind = r.endKind then some work else r.duration }
        let changed := (hasSp ∧ setpoint ≠ some sp.toNat) ∨ (hasHu ∧ humidity ≠ some hu.toNat)
          ∨ (hasCore ∧ core ≠ some ct.toNat)
        (bad → refused .badField)
        ∧ (¬bad →
          ∃ u x, run = .next (s.reported (u.answer src 9#8 x []))
            ∧ (changed → x = .clamped) ∧ (¬changed → x = .ok)
            ∧ u.store.slot at_.slot = .active { p with steps := p.steps.set at_.step (some after) }
            ∧ u.store.slot at_.slot.other = s.store.slot at_.slot.other
            ∧ (u.climate.setpoint = setpoint ∧ u.climate.tempI = s.climate.tempI ∧ u.climate.humI = s.climate.humI)
            ∧ (r.mode = .combi → u.climate.humidityTarget = humidity)
            ∧ (r.mode = .proof → u.climate.humidityTarget = some (humidity.getD 75))
            ∧ (hasTime → u.seq = { s.seq with workDuration := some work, elapsed := elapsed })
            ∧ (¬hasTime → u.seq = s.seq)
            ∧ Only [.slots, .program, .record] h u))

/-- DISCARD and CLEAR of a slot: the first row of their tables that applies gives the outcome, and the slot becomes EMPTY. DISCARD
frees the staging entries that name it, CLEAR leaves the staging table as it is. -/
def Obligations.DiscardAndClear : Prop :=
  ∀ (src : Nat) (n : Byte) (s : State), s.TakesFrom src →
    let h := s.heard
    let emptied (ix : SlotIx) (u : State) : Prop :=
      u.store.slot ix = .empty ∧ u.store.slot ix.other = s.store.slot ix.other ∧ u.store.lastOutcome = s.store.lastOutcome
    let discard := exec (.discard src [n]) s;
    let clear := exec (.clear src [n]) s;
    let dAnswer (a : AnswerCode) : Prop := discard = .next (s.reported (h.answer src 12#8 a [n]))
    let cAnswer (a : AnswerCode) : Prop := clear = .next (s.reported (h.answer src 11#8 a [n]))
    (2 ≤ n.toNat → dAnswer .badIndex ∧ cAnswer .badIndex)
    ∧ ∀ ix : SlotIx, ix.number = n.toNat →
      (s.store.slot ix = .empty → dAnswer .ok ∧ cAnswer .ok)
      ∧ (∀ p, s.store.slot ix = .active p → dAnswer .busy ∧ cAnswer .notReady)
      ∧ (∀ p o, s.store.slot ix = .done p o →
          dAnswer .notPermitted
          ∧ ∃ u, clear = .next (s.reported (u.answer src 11#8 .ok [n])) ∧ emptied ix u
              ∧ u.store.staging = s.store.staging ∧ Only [.slots] h u)
      ∧ (∀ p, s.store.slot ix = .loading p ∨ s.store.slot ix = .ready p →
          cAnswer .notReady ∧ (src ≠ p.originator → dAnswer .notOriginator)
          ∧ (src = p.originator →
              ∃ u, discard = .next (s.reported (u.answer src 12#8 .ok [n])) ∧ emptied ix u
                ∧ u.store.staging = s.store.staging.filter (fun e => decide (e.slot ≠ ix.number))
                ∧ Only [.slots, .staging] h u))

/-- SET_HARDNESS takes a value up to 30, CLAMPED above, with a retained write where it changes; START_DESCALE generates the
rinse-only program while rinse-owed is set, the descale program otherwise, and starts it in the lowest EMPTY slot. -/
def Obligations.HardnessAndDescale : Prop :=
  ∀ (src : Nat) (s : State), s.TakesFrom src →
    let h := s.heard
    (∀ n : Byte,
      let run := exec (.setHardness src [n]) s;
      let v := min 30 n.toNat
      let t : State := { h with scale := { h.scale with hardness := v } }
      let x : AnswerCode := if 30 < n.toNat then .clamped else .ok
      (s.serviceActive = true → run = .next (s.reported (h.answer src 13#8 .busy [])))
      ∧ (s.serviceActive = false → v = s.scale.hardness → run = .next (s.reported (h.answer src 13#8 x [])))
      ∧ (s.serviceActive = false → v ≠ s.scale.hardness →
          run = .next (s.reported (State.answer src 13#8 x []
            { t with retained := s.retained.request ⟨v, s.scale.load, s.scale.rinseOwed, s.scale.soakCount⟩ }))))
    ∧ (let run := exec (.startDescale src []) s;
      let refused (a : AnswerCode) : Prop := run = .next (s.reported (h.answer src 14#8 a []))
      let on (k : FaultKind) : Prop := (s.faults.get k).active = true
      let blocked := on .mains ∨ on .cavityOverheat ∨ on .boilerSensor ∨ on .boilerDry ∨ on .drainTimeout
      let step (m : Mode) (e : Option EndKind) (prompt duration : Option Nat) : StepRecord :=
        { mode := m, setpoint := none, humidity := none, endKind := e, duration := duration, band := none
          coreTarget := none, fallback := none, preheat := false, promptIn := none, promptOut := prompt, rank := 3 }
      let soakSeconds :=
        if s.scale.load = 0 then 600 else if s.scale.load ≤ 300000 then 1200
          else if s.scale.load ≤ 600000 then 1800 else 2400
      let rinse :=
        [step .drain none none none, step .wait (some .promptOnly) (some 241) none, step .rinse none none none,
          step .wait (some .promptOnly) (some 242) none]
      let steps :=
        if s.scale.rinseOwed then rinse
          else [step .drain none none none, step .wait (some .promptOnly) (some 240) none, step .fill none none none,
            step .soak none none (some soakSeconds)] ++ rinse
      let p : Program :=
        { kind := .service, stepCount := if s.scale.rinseOwed then 4 else 8, chain := false, tag := 0
          originator := s.station, steps := steps.map some }
      (s.hasActive = true → refused .busy)
      ∧ (s.hasActive = false → s.store.slot0 ≠ .empty → s.store.slot1 ≠ .empty → refused .busy)
      ∧ ∀ ix : SlotIx, s.hasActive = false → s.store.slot ix = .empty → (ix = .s1 → s.store.slot0 ≠ .empty) →
        (blocked → refused .faultBlock)
        ∧ (¬blocked →
          ∃ u, run = .next (s.reported (u.runSettle.answer src 14#8 .ok [BitVec.ofNat 8 ix.number]))
            ∧ (u.store.slot ix = .active p ∧ u.store.slot ix.other = s.store.slot ix.other)
            ∧ u.seq.run = some ⟨ix, 0, .count⟩
            ∧ (u.seq.pauseFlag = false ∧ u.seq.stopFlag = false ∧ u.seq.prompt = none ∧ u.seq.elapsed = 0)
            ∧ (u.climate.mode = some .drain ∧ u.climate.setpoint = none ∧ u.climate.tempI = 0 ∧ u.climate.humI = 0)
            ∧ (u.steam.request = .drain ∧ u.steam.millilitres = 0)
            ∧ (u.scale.drainOnStop = false ∧ u.scale.load = s.scale.load ∧ u.scale.rinseOwed = s.scale.rinseOwed)
            ∧ u.report.chainRefusal = none
            ∧ Only runAspects h u))

/-- CLEAR_FAULTS makes every latched record inactive and answers with the kinds active after it, the first of the table in the
highest bit. An owed drain that had timed out starts, its cool-wait timer from 0 at the clear (log 50). The boiler request in
force is served again once no fault bars heating. A cleared CAVITY_OVERHEAT or BOILER_DRY whose condition returns at that instant
is active again with its count incremented, and the answer lists it; which of them return is the command's operand (log 52).
QUERY answers with the contents of its report kind. -/
def Obligations.ClearFaultsAndQuery : Prop :=
  ∀ (src : Nat) (s : State), s.TakesFrom src →
    let h := s.heard
    let cleared (k : FaultKind) : Prop := (s.faults.get k).active = true ∧ (s.faults.get k).latched = true
    (∃ u : State,
      (∀ k, u.faults.get k =
          (if cleared k then ⟨false, false, (s.faults.get k).count⟩ else s.faults.get k))
      ∧ (cleared .drainTimeout → s.steam.owed = some .timedOut →
          s.steam.drainStarted = false → u.steam.drainStarted = true ∧ u.steam.coolWait = some ⟨0, 0⟩)
      ∧ (cleared .boilerDry ∨ cleared .cavityOverheat → u.barsHeating = false → s.mustDrainFirst = false →
        s.suspended = false → s.steam.boiler = .off →
        (s.steam.low = some .wet → s.steam.request = .steam →
            u.steam.boiler = if ∃ c, u.boilerInUse = some c ∧ 980 ≤ c then .ready else .heating)
        ∧ (s.steam.low = some .wet → s.steam.request = .soak → u.steam.boiler = .off ∧ u.steam.soakHeating = true)
        ∧ (s.steam.low ≠ some .wet → s.steam.high ≠ some .wet → s.steam.request = .steam ∨ s.steam.request = .soak →
            u.steam.boiler = .filling ∧ u.steam.strokes = 0)
        ∧ (s.steam.request = .none → u.steam.boiler = .off))
      ∧ ((∀ k, ¬cleared k) → u = h)
      ∧ Only (faultAspects ++ runAspects) h u
      ∧ ∀ back : Returning,
        let dry : Prop := back.boilerDry = true ∧ cleared .boilerDry
        let hot : Prop := back.cavityOverheat = true ∧ cleared .cavityOverheat
        let w : State := if hot then (u.runSettle.raise .cavityOverheat).runSettle else u.runSettle
        let v : State := if dry then (w.raise .boilerDry).runSettle else w
        (∀ k, v.faults.get k =
          if (k = .cavityOverheat ∧ hot) ∨ (k = .boilerDry ∧ dry) then ⟨true, false, min 255 ((s.faults.get k).count + 1)⟩
            else u.faults.get k)
        ∧ ∃ hi lo : Byte, exec (.clearFaults src ⟨[], back⟩) s = .next (s.reported (v.answer src 15#8 .ok [hi, lo]))
          ∧ ∀ i k, FaultKind.all[i]? = some k →
              ((hi.toNat * 256 + lo.toNat).testBit (15 - i) = true ↔ (v.faults.get k).active = true))
    ∧ ∀ n : Byte,
      (5 ≤ n.toNat → exec (.query src [n]) s = .next (s.reported (h.answer src 16#8 .badField [])))
      ∧ ∀ k : ReportKind, [ReportKind.climate, .program, .water, .share, .fault][n.toNat]? = some k →
          ∃ t, exec (.query src [n]) s = .next (s.reported t)
            ∧ t.bus = h.bus.hand (.answer src) (queryFrames (h.contents k))
            ∧ Only [.queue, .freeIndex] h t
end

