-- ==== Sys2Proof/Laws/State.lean ====
section
/-! SUPPORT. What each block update leaves in each block: one equation per field and update. -/

namespace Sys2Proof.Machine.State

-- Each proof is done before the next begins, so that few are held in memory at once.
set_option Elab.async false

@[simp] theorem mapStartup_pending (f : Startup → Startup) (s : State) : (s.mapStartup f).pending = s.pending := rfl
@[simp] theorem mapStartup_startup (f : Startup → Startup) (s : State) : (s.mapStartup f).startup = f s.startup := rfl
@[simp] theorem mapStartup_share (f : Startup → Startup) (s : State) : (s.mapStartup f).share = s.share := rfl
@[simp] theorem mapStartup_load (f : Startup → Startup) (s : State) : (s.mapStartup f).load = s.load := rfl
@[simp] theorem mapStartup_climate (f : Startup → Startup) (s : State) : (s.mapStartup f).climate = s.climate := rfl
@[simp] theorem mapStartup_steam (f : Startup → Startup) (s : State) : (s.mapStartup f).steam = s.steam := rfl
@[simp] theorem mapStartup_scale (f : Startup → Startup) (s : State) : (s.mapStartup f).scale = s.scale := rfl
@[simp] theorem mapStartup_store (f : Startup → Startup) (s : State) : (s.mapStartup f).store = s.store := rfl
@[simp] theorem mapStartup_seq (f : Startup → Startup) (s : State) : (s.mapStartup f).seq = s.seq := rfl
@[simp] theorem mapStartup_faults (f : Startup → Startup) (s : State) : (s.mapStartup f).faults = s.faults := rfl
@[simp] theorem mapStartup_bus (f : Startup → Startup) (s : State) : (s.mapStartup f).bus = s.bus := rfl
@[simp] theorem mapStartup_report (f : Startup → Startup) (s : State) : (s.mapStartup f).report = s.report := rfl
@[simp] theorem mapStartup_retained (f : Startup → Startup) (s : State) : (s.mapStartup f).retained = s.retained := rfl
@[simp] theorem mapStartup_inputs (f : Startup → Startup) (s : State) : (s.mapStartup f).inputs = s.inputs := rfl
@[simp] theorem mapStartup_freeIndex (f : Startup → Startup) (s : State) : (s.mapStartup f).freeIndex = s.freeIndex := rfl
@[simp] theorem mapShare_pending (f : Share → Share) (s : State) : (s.mapShare f).pending = s.pending := rfl
@[simp] theorem mapShare_startup (f : Share → Share) (s : State) : (s.mapShare f).startup = s.startup := rfl
@[simp] theorem mapShare_share (f : Share → Share) (s : State) : (s.mapShare f).share = f s.share := rfl
@[simp] theorem mapShare_load (f : Share → Share) (s : State) : (s.mapShare f).load = s.load := rfl
@[simp] theorem mapShare_climate (f : Share → Share) (s : State) : (s.mapShare f).climate = s.climate := rfl
@[simp] theorem mapShare_steam (f : Share → Share) (s : State) : (s.mapShare f).steam = s.steam := rfl
@[simp] theorem mapShare_scale (f : Share → Share) (s : State) : (s.mapShare f).scale = s.scale := rfl
@[simp] theorem mapShare_store (f : Share → Share) (s : State) : (s.mapShare f).store = s.store := rfl
@[simp] theorem mapShare_seq (f : Share → Share) (s : State) : (s.mapShare f).seq = s.seq := rfl
@[simp] theorem mapShare_faults (f : Share → Share) (s : State) : (s.mapShare f).faults = s.faults := rfl
@[simp] theorem mapShare_bus (f : Share → Share) (s : State) : (s.mapShare f).bus = s.bus := rfl
@[simp] theorem mapShare_report (f : Share → Share) (s : State) : (s.mapShare f).report = s.report := rfl
@[simp] theorem mapShare_retained (f : Share → Share) (s : State) : (s.mapShare f).retained = s.retained := rfl
@[simp] theorem mapShare_inputs (f : Share → Share) (s : State) : (s.mapShare f).inputs = s.inputs := rfl
@[simp] theorem mapShare_freeIndex (f : Share → Share) (s : State) : (s.mapShare f).freeIndex = s.freeIndex := rfl
@[simp] theorem mapLoad_pending (f : LoadFrame → LoadFrame) (s : State) : (s.mapLoad f).pending = s.pending := rfl
@[simp] theorem mapLoad_startup (f : LoadFrame → LoadFrame) (s : State) : (s.mapLoad f).startup = s.startup := rfl
@[simp] theorem mapLoad_share (f : LoadFrame → LoadFrame) (s : State) : (s.mapLoad f).share = s.share := rfl
@[simp] theorem mapLoad_load (f : LoadFrame → LoadFrame) (s : State) : (s.mapLoad f).load = f s.load := rfl
@[simp] theorem mapLoad_climate (f : LoadFrame → LoadFrame) (s : State) : (s.mapLoad f).climate = s.climate := rfl
@[simp] theorem mapLoad_steam (f : LoadFrame → LoadFrame) (s : State) : (s.mapLoad f).steam = s.steam := rfl
@[simp] theorem mapLoad_scale (f : LoadFrame → LoadFrame) (s : State) : (s.mapLoad f).scale = s.scale := rfl
@[simp] theorem mapLoad_store (f : LoadFrame → LoadFrame) (s : State) : (s.mapLoad f).store = s.store := rfl
@[simp] theorem mapLoad_seq (f : LoadFrame → LoadFrame) (s : State) : (s.mapLoad f).seq = s.seq := rfl
@[simp] theorem mapLoad_faults (f : LoadFrame → LoadFrame) (s : State) : (s.mapLoad f).faults = s.faults := rfl
@[simp] theorem mapLoad_bus (f : LoadFrame → LoadFrame) (s : State) : (s.mapLoad f).bus = s.bus := rfl
@[simp] theorem mapLoad_report (f : LoadFrame → LoadFrame) (s : State) : (s.mapLoad f).report = s.report := rfl
@[simp] theorem mapLoad_retained (f : LoadFrame → LoadFrame) (s : State) : (s.mapLoad f).retained = s.retained := rfl
@[simp] theorem mapLoad_inputs (f : LoadFrame → LoadFrame) (s : State) : (s.mapLoad f).inputs = s.inputs := rfl
@[simp] theorem mapLoad_freeIndex (f : LoadFrame → LoadFrame) (s : State) : (s.mapLoad f).freeIndex = s.freeIndex := rfl
@[simp] theorem mapClimate_pending (f : Climate → Climate) (s : State) : (s.mapClimate f).pending = s.pending := rfl
@[simp] theorem mapClimate_startup (f : Climate → Climate) (s : State) : (s.mapClimate f).startup = s.startup := rfl
@[simp] theorem mapClimate_share (f : Climate → Climate) (s : State) : (s.mapClimate f).share = s.share := rfl
@[simp] theorem mapClimate_load (f : Climate → Climate) (s : State) : (s.mapClimate f).load = s.load := rfl
@[simp] theorem mapClimate_climate (f : Climate → Climate) (s : State) : (s.mapClimate f).climate = f s.climate := rfl
@[simp] theorem mapClimate_steam (f : Climate → Climate) (s : State) : (s.mapClimate f).steam = s.steam := rfl
@[simp] theorem mapClimate_scale (f : Climate → Climate) (s : State) : (s.mapClimate f).scale = s.scale := rfl
@[simp] theorem mapClimate_store (f : Climate → Climate) (s : State) : (s.mapClimate f).store = s.store := rfl
@[simp] theorem mapClimate_seq (f : Climate → Climate) (s : State) : (s.mapClimate f).seq = s.seq := rfl
@[simp] theorem mapClimate_faults (f : Climate → Climate) (s : State) : (s.mapClimate f).faults = s.faults := rfl
@[simp] theorem mapClimate_bus (f : Climate → Climate) (s : State) : (s.mapClimate f).bus = s.bus := rfl
@[simp] theorem mapClimate_report (f : Climate → Climate) (s : State) : (s.mapClimate f).report = s.report := rfl
@[simp] theorem mapClimate_retained (f : Climate → Climate) (s : State) : (s.mapClimate f).retained = s.retained := rfl
@[simp] theorem mapClimate_inputs (f : Climate → Climate) (s : State) : (s.mapClimate f).inputs = s.inputs := rfl
@[simp] theorem mapClimate_freeIndex (f : Climate → Climate) (s : State) : (s.mapClimate f).freeIndex = s.freeIndex := rfl
@[simp] theorem mapSteam_pending (f : Steam → Steam) (s : State) : (s.mapSteam f).pending = s.pending := rfl
@[simp] theorem mapSteam_startup (f : Steam → Steam) (s : State) : (s.mapSteam f).startup = s.startup := rfl
@[simp] theorem mapSteam_share (f : Steam → Steam) (s : State) : (s.mapSteam f).share = s.share := rfl
@[simp] theorem mapSteam_load (f : Steam → Steam) (s : State) : (s.mapSteam f).load = s.load := rfl
@[simp] theorem mapSteam_climate (f : Steam → Steam) (s : State) : (s.mapSteam f).climate = s.climate := rfl
@[simp] theorem mapSteam_steam (f : Steam → Steam) (s : State) : (s.mapSteam f).steam = f s.steam := rfl
@[simp] theorem mapSteam_scale (f : Steam → Steam) (s : State) : (s.mapSteam f).scale = s.scale := rfl
@[simp] theorem mapSteam_store (f : Steam → Steam) (s : State) : (s.mapSteam f).store = s.store := rfl
@[simp] theorem mapSteam_seq (f : Steam → Steam) (s : State) : (s.mapSteam f).seq = s.seq := rfl
@[simp] theorem mapSteam_faults (f : Steam → Steam) (s : State) : (s.mapSteam f).faults = s.faults := rfl
@[simp] theorem mapSteam_bus (f : Steam → Steam) (s : State) : (s.mapSteam f).bus = s.bus := rfl
@[simp] theorem mapSteam_report (f : Steam → Steam) (s : State) : (s.mapSteam f).report = s.report := rfl
@[simp] theorem mapSteam_retained (f : Steam → Steam) (s : State) : (s.mapSteam f).retained = s.retained := rfl
@[simp] theorem mapSteam_inputs (f : Steam → Steam) (s : State) : (s.mapSteam f).inputs = s.inputs := rfl
@[simp] theorem mapSteam_freeIndex (f : Steam → Steam) (s : State) : (s.mapSteam f).freeIndex = s.freeIndex := rfl
@[simp] theorem mapScale_pending (f : Scale → Scale) (s : State) : (s.mapScale f).pending = s.pending := rfl
@[simp] theorem mapScale_startup (f : Scale → Scale) (s : State) : (s.mapScale f).startup = s.startup := rfl
@[simp] theorem mapScale_share (f : Scale → Scale) (s : State) : (s.mapScale f).share = s.share := rfl
@[simp] theorem mapScale_load (f : Scale → Scale) (s : State) : (s.mapScale f).load = s.load := rfl
@[simp] theorem mapScale_climate (f : Scale → Scale) (s : State) : (s.mapScale f).climate = s.climate := rfl
@[simp] theorem mapScale_steam (f : Scale → Scale) (s : State) : (s.mapScale f).steam = s.steam := rfl
@[simp] theorem mapScale_scale (f : Scale → Scale) (s : State) : (s.mapScale f).scale = f s.scale := rfl
@[simp] theorem mapScale_store (f : Scale → Scale) (s : State) : (s.mapScale f).store = s.store := rfl
@[simp] theorem mapScale_seq (f : Scale → Scale) (s : State) : (s.mapScale f).seq = s.seq := rfl
@[simp] theorem mapScale_faults (f : Scale → Scale) (s : State) : (s.mapScale f).faults = s.faults := rfl
@[simp] theorem mapScale_bus (f : Scale → Scale) (s : State) : (s.mapScale f).bus = s.bus := rfl
@[simp] theorem mapScale_report (f : Scale → Scale) (s : State) : (s.mapScale f).report = s.report := rfl
@[simp] theorem mapScale_retained (f : Scale → Scale) (s : State) : (s.mapScale f).retained = s.retained := rfl
@[simp] theorem mapScale_inputs (f : Scale → Scale) (s : State) : (s.mapScale f).inputs = s.inputs := rfl
@[simp] theorem mapScale_freeIndex (f : Scale → Scale) (s : State) : (s.mapScale f).freeIndex = s.freeIndex := rfl
@[simp] theorem mapStore_pending (f : Store → Store) (s : State) : (s.mapStore f).pending = s.pending := rfl
@[simp] theorem mapStore_startup (f : Store → Store) (s : State) : (s.mapStore f).startup = s.startup := rfl
@[simp] theorem mapStore_share (f : Store → Store) (s : State) : (s.mapStore f).share = s.share := rfl
@[simp] theorem mapStore_load (f : Store → Store) (s : State) : (s.mapStore f).load = s.load := rfl
@[simp] theorem mapStore_climate (f : Store → Store) (s : State) : (s.mapStore f).climate = s.climate := rfl
@[simp] theorem mapStore_steam (f : Store → Store) (s : State) : (s.mapStore f).steam = s.steam := rfl
@[simp] theorem mapStore_scale (f : Store → Store) (s : State) : (s.mapStore f).scale = s.scale := rfl
@[simp] theorem mapStore_store (f : Store → Store) (s : State) : (s.mapStore f).store = f s.store := rfl
@[simp] theorem mapStore_seq (f : Store → Store) (s : State) : (s.mapStore f).seq = s.seq := rfl
@[simp] theorem mapStore_faults (f : Store → Store) (s : State) : (s.mapStore f).faults = s.faults := rfl
@[simp] theorem mapStore_bus (f : Store → Store) (s : State) : (s.mapStore f).bus = s.bus := rfl
@[simp] theorem mapStore_report (f : Store → Store) (s : State) : (s.mapStore f).report = s.report := rfl
@[simp] theorem mapStore_retained (f : Store → Store) (s : State) : (s.mapStore f).retained = s.retained := rfl
@[simp] theorem mapStore_inputs (f : Store → Store) (s : State) : (s.mapStore f).inputs = s.inputs := rfl
@[simp] theorem mapStore_freeIndex (f : Store → Store) (s : State) : (s.mapStore f).freeIndex = s.freeIndex := rfl
@[simp] theorem mapSeq_pending (f : Sequencer → Sequencer) (s : State) : (s.mapSeq f).pending = s.pending := rfl
@[simp] theorem mapSeq_startup (f : Sequencer → Sequencer) (s : State) : (s.mapSeq f).startup = s.startup := rfl
@[simp] theorem mapSeq_share (f : Sequencer → Sequencer) (s : State) : (s.mapSeq f).share = s.share := rfl
@[simp] theorem mapSeq_load (f : Sequencer → Sequencer) (s : State) : (s.mapSeq f).load = s.load := rfl
@[simp] theorem mapSeq_climate (f : Sequencer → Sequencer) (s : State) : (s.mapSeq f).climate = s.climate := rfl
@[simp] theorem mapSeq_steam (f : Sequencer → Sequencer) (s : State) : (s.mapSeq f).steam = s.steam := rfl
@[simp] theorem mapSeq_scale (f : Sequencer → Sequencer) (s : State) : (s.mapSeq f).scale = s.scale := rfl
@[simp] theorem mapSeq_store (f : Sequencer → Sequencer) (s : State) : (s.mapSeq f).store = s.store := rfl
@[simp] theorem mapSeq_seq (f : Sequencer → Sequencer) (s : State) : (s.mapSeq f).seq = f s.seq := rfl
@[simp] theorem mapSeq_faults (f : Sequencer → Sequencer) (s : State) : (s.mapSeq f).faults = s.faults := rfl
@[simp] theorem mapSeq_bus (f : Sequencer → Sequencer) (s : State) : (s.mapSeq f).bus = s.bus := rfl
@[simp] theorem mapSeq_report (f : Sequencer → Sequencer) (s : State) : (s.mapSeq f).report = s.report := rfl
@[simp] theorem mapSeq_retained (f : Sequencer → Sequencer) (s : State) : (s.mapSeq f).retained = s.retained := rfl
@[simp] theorem mapSeq_inputs (f : Sequencer → Sequencer) (s : State) : (s.mapSeq f).inputs = s.inputs := rfl
@[simp] theorem mapSeq_freeIndex (f : Sequencer → Sequencer) (s : State) : (s.mapSeq f).freeIndex = s.freeIndex := rfl
@[simp] theorem mapFaults_pending (f : FaultSet → FaultSet) (s : State) : (s.mapFaults f).pending = s.pending := rfl
@[simp] theorem mapFaults_startup (f : FaultSet → FaultSet) (s : State) : (s.mapFaults f).startup = s.startup := rfl
@[simp] theorem mapFaults_share (f : FaultSet → FaultSet) (s : State) : (s.mapFaults f).share = s.share := rfl
@[simp] theorem mapFaults_load (f : FaultSet → FaultSet) (s : State) : (s.mapFaults f).load = s.load := rfl
@[simp] theorem mapFaults_climate (f : FaultSet → FaultSet) (s : State) : (s.mapFaults f).climate = s.climate := rfl
@[simp] theorem mapFaults_steam (f : FaultSet → FaultSet) (s : State) : (s.mapFaults f).steam = s.steam := rfl
@[simp] theorem mapFaults_scale (f : FaultSet → FaultSet) (s : State) : (s.mapFaults f).scale = s.scale := rfl
@[simp] theorem mapFaults_store (f : FaultSet → FaultSet) (s : State) : (s.mapFaults f).store = s.store := rfl
@[simp] theorem mapFaults_seq (f : FaultSet → FaultSet) (s : State) : (s.mapFaults f).seq = s.seq := rfl
@[simp] theorem mapFaults_faults (f : FaultSet → FaultSet) (s : State) : (s.mapFaults f).faults = f s.faults := rfl
@[simp] theorem mapFaults_bus (f : FaultSet → FaultSet) (s : State) : (s.mapFaults f).bus = s.bus := rfl
@[simp] theorem mapFaults_report (f : FaultSet → FaultSet) (s : State) : (s.mapFaults f).report = s.report := rfl
@[simp] theorem mapFaults_retained (f : FaultSet → FaultSet) (s : State) : (s.mapFaults f).retained = s.retained := rfl
@[simp] theorem mapFaults_inputs (f : FaultSet → FaultSet) (s : State) : (s.mapFaults f).inputs = s.inputs := rfl
@[simp] theorem mapFaults_freeIndex (f : FaultSet → FaultSet) (s : State) : (s.mapFaults f).freeIndex = s.freeIndex := rfl
@[simp] theorem mapBus_pending (f : BusLink → BusLink) (s : State) : (s.mapBus f).pending = s.pending := rfl
@[simp] theorem mapBus_startup (f : BusLink → BusLink) (s : State) : (s.mapBus f).startup = s.startup := rfl
@[simp] theorem mapBus_share (f : BusLink → BusLink) (s : State) : (s.mapBus f).share = s.share := rfl
@[simp] theorem mapBus_load (f : BusLink → BusLink) (s : State) : (s.mapBus f).load = s.load := rfl
@[simp] theorem mapBus_climate (f : BusLink → BusLink) (s : State) : (s.mapBus f).climate = s.climate := rfl
@[simp] theorem mapBus_steam (f : BusLink → BusLink) (s : State) : (s.mapBus f).steam = s.steam := rfl
@[simp] theorem mapBus_scale (f : BusLink → BusLink) (s : State) : (s.mapBus f).scale = s.scale := rfl
@[simp] theorem mapBus_store (f : BusLink → BusLink) (s : State) : (s.mapBus f).store = s.store := rfl
@[simp] theorem mapBus_seq (f : BusLink → BusLink) (s : State) : (s.mapBus f).seq = s.seq := rfl
@[simp] theorem mapBus_faults (f : BusLink → BusLink) (s : State) : (s.mapBus f).faults = s.faults := rfl
@[simp] theorem mapBus_bus (f : BusLink → BusLink) (s : State) : (s.mapBus f).bus = f s.bus := rfl
@[simp] theorem mapBus_report (f : BusLink → BusLink) (s : State) : (s.mapBus f).report = s.report := rfl
@[simp] theorem mapBus_retained (f : BusLink → BusLink) (s : State) : (s.mapBus f).retained = s.retained := rfl
@[simp] theorem mapBus_inputs (f : BusLink → BusLink) (s : State) : (s.mapBus f).inputs = s.inputs := rfl
@[simp] theorem mapBus_freeIndex (f : BusLink → BusLink) (s : State) : (s.mapBus f).freeIndex = s.freeIndex := rfl
@[simp] theorem mapReport_pending (f : ReportUnit → ReportUnit) (s : State) : (s.mapReport f).pending = s.pending := rfl
@[simp] theorem mapReport_startup (f : ReportUnit → ReportUnit) (s : State) : (s.mapReport f).startup = s.startup := rfl
@[simp] theorem mapReport_share (f : ReportUnit → ReportUnit) (s : State) : (s.mapReport f).share = s.share := rfl
@[simp] theorem mapReport_load (f : ReportUnit → ReportUnit) (s : State) : (s.mapReport f).load = s.load := rfl
@[simp] theorem mapReport_climate (f : ReportUnit → ReportUnit) (s : State) : (s.mapReport f).climate = s.climate := rfl
@[simp] theorem mapReport_steam (f : ReportUnit → ReportUnit) (s : State) : (s.mapReport f).steam = s.steam := rfl
@[simp] theorem mapReport_scale (f : ReportUnit → ReportUnit) (s : State) : (s.mapReport f).scale = s.scale := rfl
@[simp] theorem mapReport_store (f : ReportUnit → ReportUnit) (s : State) : (s.mapReport f).store = s.store := rfl
@[simp] theorem mapReport_seq (f : ReportUnit → ReportUnit) (s : State) : (s.mapReport f).seq = s.seq := rfl
@[simp] theorem mapReport_faults (f : ReportUnit → ReportUnit) (s : State) : (s.mapReport f).faults = s.faults := rfl
@[simp] theorem mapReport_bus (f : ReportUnit → ReportUnit) (s : State) : (s.mapReport f).bus = s.bus := rfl
@[simp] theorem mapReport_report (f : ReportUnit → ReportUnit) (s : State) : (s.mapReport f).report = f s.report := rfl
@[simp] theorem mapReport_retained (f : ReportUnit → ReportUnit) (s : State) : (s.mapReport f).retained = s.retained := rfl
@[simp] theorem mapReport_inputs (f : ReportUnit → ReportUnit) (s : State) : (s.mapReport f).inputs = s.inputs := rfl
@[simp] theorem mapReport_freeIndex (f : ReportUnit → ReportUnit) (s : State) : (s.mapReport f).freeIndex = s.freeIndex := rfl
@[simp] theorem mapRetained_pending (f : Retained → Retained) (s : State) : (s.mapRetained f).pending = s.pending := rfl
@[simp] theorem mapRetained_startup (f : Retained → Retained) (s : State) : (s.mapRetained f).startup = s.startup := rfl
@[simp] theorem mapRetained_share (f : Retained → Retained) (s : State) : (s.mapRetained f).share = s.share := rfl
@[simp] theorem mapRetained_load (f : Retained → Retained) (s : State) : (s.mapRetained f).load = s.load := rfl
@[simp] theorem mapRetained_climate (f : Retained → Retained) (s : State) : (s.mapRetained f).climate = s.climate := rfl
@[simp] theorem mapRetained_steam (f : Retained → Retained) (s : State) : (s.mapRetained f).steam = s.steam := rfl
@[simp] theorem mapRetained_scale (f : Retained → Retained) (s : State) : (s.mapRetained f).scale = s.scale := rfl
@[simp] theorem mapRetained_store (f : Retained → Retained) (s : State) : (s.mapRetained f).store = s.store := rfl
@[simp] theorem mapRetained_seq (f : Retained → Retained) (s : State) : (s.mapRetained f).seq = s.seq := rfl
@[simp] theorem mapRetained_faults (f : Retained → Retained) (s : State) : (s.mapRetained f).faults = s.faults := rfl
@[simp] theorem mapRetained_bus (f : Retained → Retained) (s : State) : (s.mapRetained f).bus = s.bus := rfl
@[simp] theorem mapRetained_report (f : Retained → Retained) (s : State) : (s.mapRetained f).report = s.report := rfl
@[simp] theorem mapRetained_retained (f : Retained → Retained) (s : State) : (s.mapRetained f).retained = f s.retained := rfl
@[simp] theorem mapRetained_inputs (f : Retained → Retained) (s : State) : (s.mapRetained f).inputs = s.inputs := rfl
@[simp] theorem mapRetained_freeIndex (f : Retained → Retained) (s : State) : (s.mapRetained f).freeIndex = s.freeIndex := rfl
@[simp] theorem setInputs_pending (i : Sample) (s : State) : (s.setInputs i).pending = s.pending := rfl
@[simp] theorem setInputs_startup (i : Sample) (s : State) : (s.setInputs i).startup = s.startup := rfl
@[simp] theorem setInputs_share (i : Sample) (s : State) : (s.setInputs i).share = s.share := rfl
@[simp] theorem setInputs_load (i : Sample) (s : State) : (s.setInputs i).load = s.load := rfl
@[simp] theorem setInputs_climate (i : Sample) (s : State) : (s.setInputs i).climate = s.climate := rfl
@[simp] theorem setInputs_steam (i : Sample) (s : State) : (s.setInputs i).steam = s.steam := rfl
@[simp] theorem setInputs_scale (i : Sample) (s : State) : (s.setInputs i).scale = s.scale := rfl
@[simp] theorem setInputs_store (i : Sample) (s : State) : (s.setInputs i).store = s.store := rfl
@[simp] theorem setInputs_seq (i : Sample) (s : State) : (s.setInputs i).seq = s.seq := rfl
@[simp] theorem setInputs_faults (i : Sample) (s : State) : (s.setInputs i).faults = s.faults := rfl
@[simp] theorem setInputs_bus (i : Sample) (s : State) : (s.setInputs i).bus = s.bus := rfl
@[simp] theorem setInputs_report (i : Sample) (s : State) : (s.setInputs i).report = s.report := rfl
@[simp] theorem setInputs_retained (i : Sample) (s : State) : (s.setInputs i).retained = s.retained := rfl
@[simp] theorem setInputs_inputs (i : Sample) (s : State) : (s.setInputs i).inputs = i := rfl
@[simp] theorem setInputs_freeIndex (i : Sample) (s : State) : (s.setInputs i).freeIndex = s.freeIndex := rfl
@[simp] theorem setPending_pending (q : List Instr) (s : State) : (s.setPending q).pending = q := rfl
@[simp] theorem setPending_startup (q : List Instr) (s : State) : (s.setPending q).startup = s.startup := rfl
@[simp] theorem setPending_share (q : List Instr) (s : State) : (s.setPending q).share = s.share := rfl
@[simp] theorem setPending_load (q : List Instr) (s : State) : (s.setPending q).load = s.load := rfl
@[simp] theorem setPending_climate (q : List Instr) (s : State) : (s.setPending q).climate = s.climate := rfl
@[simp] theorem setPending_steam (q : List Instr) (s : State) : (s.setPending q).steam = s.steam := rfl
@[simp] theorem setPending_scale (q : List Instr) (s : State) : (s.setPending q).scale = s.scale := rfl
@[simp] theorem setPending_store (q : List Instr) (s : State) : (s.setPending q).store = s.store := rfl
@[simp] theorem setPending_seq (q : List Instr) (s : State) : (s.setPending q).seq = s.seq := rfl
@[simp] theorem setPending_faults (q : List Instr) (s : State) : (s.setPending q).faults = s.faults := rfl
@[simp] theorem setPending_bus (q : List Instr) (s : State) : (s.setPending q).bus = s.bus := rfl
@[simp] theorem setPending_report (q : List Instr) (s : State) : (s.setPending q).report = s.report := rfl
@[simp] theorem setPending_retained (q : List Instr) (s : State) : (s.setPending q).retained = s.retained := rfl
@[simp] theorem setPending_inputs (q : List Instr) (s : State) : (s.setPending q).inputs = s.inputs := rfl
@[simp] theorem setPending_freeIndex (q : List Instr) (s : State) : (s.setPending q).freeIndex = s.freeIndex := rfl
@[simp] theorem drawFree_pending (n : Nat) (s : State) : (s.drawFree n).pending = s.pending := rfl
@[simp] theorem drawFree_startup (n : Nat) (s : State) : (s.drawFree n).startup = s.startup := rfl
@[simp] theorem drawFree_share (n : Nat) (s : State) : (s.drawFree n).share = s.share := rfl
@[simp] theorem drawFree_load (n : Nat) (s : State) : (s.drawFree n).load = s.load := rfl
@[simp] theorem drawFree_climate (n : Nat) (s : State) : (s.drawFree n).climate = s.climate := rfl
@[simp] theorem drawFree_steam (n : Nat) (s : State) : (s.drawFree n).steam = s.steam := rfl
@[simp] theorem drawFree_scale (n : Nat) (s : State) : (s.drawFree n).scale = s.scale := rfl
@[simp] theorem drawFree_store (n : Nat) (s : State) : (s.drawFree n).store = s.store := rfl
@[simp] theorem drawFree_seq (n : Nat) (s : State) : (s.drawFree n).seq = s.seq := rfl
@[simp] theorem drawFree_faults (n : Nat) (s : State) : (s.drawFree n).faults = s.faults := rfl
@[simp] theorem drawFree_bus (n : Nat) (s : State) : (s.drawFree n).bus = s.bus := rfl
@[simp] theorem drawFree_report (n : Nat) (s : State) : (s.drawFree n).report = s.report := rfl
@[simp] theorem drawFree_retained (n : Nat) (s : State) : (s.drawFree n).retained = s.retained := rfl
@[simp] theorem drawFree_inputs (n : Nat) (s : State) : (s.drawFree n).inputs = s.inputs := rfl
@[simp] theorem drawFree_freeIndex (n : Nat) (s : State) : (s.drawFree n).freeIndex = s.freeIndex + n := rfl

end Sys2Proof.Machine.State
end

