-- ==== Sys2Proof/Laws/Does.lean ====
section
/-! SUPPORT. What one operation does, said once: the aspects it may change and the invariants it may break; how such facts
compose; and the facts for the operations of Machine/Ops.lean. -/

namespace Sys2Proof.Machine

-- Each proof is done before the next begins, so that few are held in memory at once.
set_option Elab.async false

/-! ## The vocabulary -/

/-- The invariants and one-way facts that operations keep. -/
inductive Inv where
  /-- The bus link is legal. -/
  | bus
  /-- The share engine's own quantities and the ceiling are legal. -/
  | share
  /-- The peer table is legal. -/
  | peers
  /-- The load frame is legal. -/
  | frame
  /-- The climate regulator's counters are legal. -/
  | climate
  /-- The steam generator's counters are legal. -/
  | steam
  /-- The sequencer's counters are legal. -/
  | seq
  /-- The account and its writes are legal. -/
  | scale
  /-- The store and the run are legal. -/
  | store
  /-- The fault set is legal. -/
  | faults
  /-- The hold does not rise. -/
  | hold
  /-- ISOLATED and UNSHARED are not left for another kind of state. -/
  | outside
  /-- A withdrawal stands. -/
  | withdrawals
  /-- Answers and notices stay in the queue. -/
  | entries
deriving DecidableEq, Repr

/-- The entry is one that nothing handed later replaces or drops: an answer or a notice (R190, R191). -/
def Entry.stays (e : Entry) : Bool :=
  match e.kind with
  | .answer _ => true
  | .notice => true
  | .announce _ _ => false
  | .report _ => false

/-- An invariant passes from one state to the next. -/
def Kept (b : Inv) (s t : State) : Prop :=
  match b with
  | .bus => s.bus.Legal → t.bus.Legal
  | .share => s.ShareLegal → t.ShareLegal
  | .peers => PeersLegal s.startup.station s.share.peers → PeersLegal t.startup.station t.share.peers
  | .frame => s.load.Legal → t.load.Legal
  | .climate => s.climate.Legal → t.climate.Legal
  | .steam => s.steam.Legal → t.steam.Legal
  | .seq => s.seq.Legal → t.seq.Legal
  | .scale => s.ScaleLegal → t.ScaleLegal
  | .store => s.StoreLegal → t.StoreLegal
  | .faults => s.faults.Legal → t.faults.Legal
  | .hold => ∀ n, s.share.hold ≤ n → t.share.hold ≤ n
  | .outside =>
    s.share.state = .isolated ∨ s.share.state = .unshared → t.share.state = .isolated ∨ t.share.state = .unshared
  | .withdrawals => ∀ i, s.load.withdrawn.get i = true → t.load.withdrawn.get i = true
  | .entries => ∀ e, e ∈ s.bus.queue ∧ e.stays = true → e ∈ t.bus.queue ∧ e.stays = true

/-- From s to t only the aspects `as` may have changed and only the invariants `bs` may have been broken. -/
structure Does (as : List Aspect) (bs : List Inv) (s t : State) : Prop where
  same : ∀ a, a ∉ as → Same a s t
  kept : ∀ b, b ∉ bs → Kept b s t

/-! ## Composition -/

/-- Sameness is reflexive. -/
theorem Same.refl (a : Aspect) (s : State) : Same a s s := by cases a <;> rfl

/-- Sameness is transitive. -/
theorem Same.trans {a : Aspect} {s t u : State} (h : Same a s t) (k : Same a t u) : Same a s u := by
  cases a <;> exact Eq.trans k h

/-- An invariant that each of two moves keeps is kept by both together. -/
theorem Kept.trans {b : Inv} {s t u : State} (h : Kept b s t) (k : Kept b t u) : Kept b s u := by
  cases b <;> first | exact fun x => k (h x) | exact fun n x => k n (h n x)

/-- A state differs from itself in nothing. -/
theorem Does.refl {as : List Aspect} {bs : List Inv} (s : State) : Does as bs s s :=
  ⟨fun a _ => Same.refl a s, fun b _ => by cases b <;> first | exact id | exact fun _ => id⟩

/-- One move after another. -/
theorem Does.trans {as : List Aspect} {bs : List Inv} {s t u : State} (h : Does as bs s t) (k : Does as bs t u) :
    Does as bs s u :=
  ⟨fun a m => (h.same a m).trans (k.same a m), fun b m => (h.kept b m).trans (k.kept b m)⟩

/-- A wider frame. -/
theorem Does.mono {as cs : List Aspect} {bs ds : List Inv} {s t : State} (h : Does as bs s t)
    (ha : ∀ a ∈ as, a ∈ cs := by decide) (hb : ∀ b ∈ bs, b ∈ ds := by decide) : Does cs ds s t :=
  ⟨fun a m => h.same a (fun x => m (ha a x)), fun b m => h.kept b (fun x => m (hb b x))⟩

/-- One move after another, each with its own frame. -/
theorem Does.andThen {as cs es : List Aspect} {bs ds fs : List Inv} {s t u : State} (h : Does as bs s t)
    (k : Does cs ds t u) (ha : ∀ a ∈ as ++ cs, a ∈ es := by decide) (hb : ∀ b ∈ bs ++ ds, b ∈ fs := by decide) :
    Does es fs s u :=
  (h.mono (fun a m => ha a (List.mem_append_left _ m)) (fun b m => hb b (List.mem_append_left _ m))).trans
    (k.mono (fun a m => ha a (List.mem_append_right _ m)) (fun b m => hb b (List.mem_append_right _ m)))

/-- One move after another, their frames joined. -/
theorem Does.seq {as cs : List Aspect} {bs ds : List Inv} {s t u : State} (h : Does as bs s t) (k : Does cs ds t u) :
    Does (as ++ cs) (bs ++ ds) s u :=
  h.andThen k (fun _ m => m) (fun _ m => m)

/-- A choice of two moves. -/
theorem Does.ite {as : List Aspect} {bs : List Inv} {s t u : State} {c : Prop} [Decidable c] (h : c → Does as bs s t)
    (k : ¬c → Does as bs s u) : Does as bs s (if c then t else u) := by
  split
  · exact h ‹_›
  · exact k ‹_›

/-- A frame as the statements give it. -/
theorem Does.only {as : List Aspect} {bs : List Inv} {s t : State} (h : Does as bs s t) : Only as s t := h.same

/-! ## The operations of Machine/Ops.lean -/

/-- The LFSR's advance changes the LFSR. -/
theorem advanceLfsr_does (s : State) : Does [.lfsr] [] s s.advanceLfsr :=
  ⟨by intro a h; cases a <;> first | exact absurd (by decide) h | rfl,
   by intro b h; cases b <;> first | exact absurd (by decide) h | exact id | exact fun _ => id⟩

/-- New sensor inputs. -/
theorem setInputs_does (i : Sample) (s : State) : Does [.inputs] [] s (s.setInputs i) :=
  ⟨by intro a h; cases a <;> first | exact absurd (by decide) h | rfl,
   by intro b h; cases b <;> first | exact absurd (by decide) h | exact id | exact fun _ => id⟩

/-- Free values drawn. -/
theorem drawFree_does (n : Nat) (s : State) : Does [.freeIndex] [] s (s.drawFree n) :=
  ⟨by intro a h; cases a <;> first | exact absurd (by decide) h | rfl,
   by intro b h; cases b <;> first | exact absurd (by decide) h | exact id | exact fun _ => id⟩

/-- A withdrawal: withdrawals grow, nothing else. -/
theorem withdraw_does (which : Load → Bool) (s : State) : Does [.withdrawn] [] s (s.withdraw which) := by
  unfold State.withdraw State.mapLoad LoadFrame.withdraw
  split
  · exact
      ⟨by intro a h; cases a <;> first | exact absurd (by decide) h | rfl,
       by
        intro b _
        cases b <;> first | exact id | exact fun _ => id | skip
        intro i h
        cases i <;> (simp only [PerLoad.make, PerLoad.get] at h ⊢; simp [h])⟩
  · exact Does.refl s

/-- A withdrawal of the loads it names, in a frame that runs. -/
theorem withdraw_withdrawn (which : Load → Bool) (s : State) (run : s.load.running = true) (i : Load) (w : which i = true) :
    (s.withdraw which).load.withdrawn.get i = true := by
  cases i <;> simp [State.withdraw, State.mapLoad, LoadFrame.withdraw, run, PerLoad.make, PerLoad.get, w]

/-- The account's contents are in range when the account is legal. -/
theorem contents_inRange {a : Scale} (h : a.Legal) : a.contents.inRange = true := by
  simp only [Contents.inRange, Bool.and_eq_true]
  exact ⟨⟨decide_eq_true h.1, decide_eq_true h.2.1⟩, decide_eq_true h.2.2⟩

/-- A write request changes the write side of the retained record. -/
theorem requestWrite_does (s : State) : Does [.writes] [] s s.requestWrite := by
  refine ⟨?_, ?_⟩
  · intro a h
    cases a
    case writes => exact absurd (by decide) h
    case stored =>
      unfold State.requestWrite State.mapRetained Retained.request
      cases hw : s.retained.writing <;> simp [Same, hw]
    all_goals rfl
  intro b _
  cases b
  case scale =>
    intro ⟨h, w, p⟩
    refine ⟨h, ?_⟩
    have c := contents_inRange h
    unfold State.requestWrite State.mapRetained Retained.request
    cases hw : s.retained.writing with
    | none => simpa [Retained.Legal, hw, c] using p
    | some d => simpa [Retained.Legal, hw, c] using w d (by simp [hw])
  all_goals first | exact id | exact fun _ => id

/-- What may be done to a fault record without breaking its range or its latching. -/
def RecordMove (k : FaultKind) (f : FaultRecord → FaultRecord) : Prop :=
  ∀ r : FaultRecord, r.count ≤ 255 ∧ (r.latched = true → r.active = true ∧ k.latching = true) →
    (f r).count ≤ 255 ∧ ((f r).latched = true → (f r).active = true ∧ k.latching = true)

/-- A condition that arises is such a move (R164). -/
theorem arise_move (k : FaultKind) : RecordMove k FaultRecord.arise := by
  intro r h
  unfold FaultRecord.arise satAdd
  split
  · exact ⟨h.1, by simp⟩
  · exact ⟨Nat.min_le_left _ _, by simp⟩

/-- A condition that goes is such a move (R164). -/
theorem goes_move (k : FaultKind) : RecordMove k (FaultRecord.goes k) := by
  intro r h
  unfold FaultRecord.goes
  by_cases c : (r.active && !r.latched && decide (k ≠ .duplicateStation)) = true
  · rw [if_pos c]
    have a : r.active = true := by simp_all
    cases hk : k.latching
    · exact ⟨h.1, by simp_all⟩
    · exact ⟨h.1, fun _ => ⟨a, rfl⟩⟩
  · rw [if_neg c]
    exact h

/-- CLEAR_FAULTS on a record is such a move (R173). -/
theorem cleared_move (k : FaultKind) : RecordMove k FaultRecord.cleared := by
  intro r h
  unfold FaultRecord.cleared
  split
  · exact ⟨h.1, by simp⟩
  · exact h

/-- The record set is the record read back. -/
@[simp] theorem get_set_self (k : FaultKind) (r : FaultRecord) (f : FaultSet) : (f.set k r).get k = r := by
  cases k <;> rfl

/-- Setting one record leaves the others. -/
theorem get_set_other {j k : FaultKind} (h : j ≠ k) (r : FaultRecord) (f : FaultSet) : (f.set k r).get j = f.get j := by
  cases k <;> cases j <;> first | rfl | exact absurd rfl h

/-- Every kind is in the table. -/
theorem mem_all (k : FaultKind) : k ∈ FaultKind.all := by cases k <;> decide

/-- One record changed by a legal move. -/
theorem setFault_does (k : FaultKind) {f : FaultRecord → FaultRecord} (m : RecordMove k f) (s : State) :
    Does [.fault k] [] s (s.setFault k f) := by
  refine ⟨?_, ?_⟩
  · intro a h
    cases a
    case fault j =>
      have ne : j ≠ k := fun e => h (by simp [e])
      exact get_set_other ne _ _
    case runs => cases k <;> rfl
    all_goals rfl
  · intro b _
    cases b
    case faults =>
      intro ⟨h, rest⟩
      refine ⟨?_, by cases k <;> exact rest⟩
      intro j _
      by_cases e : j = k
      · subst e
        simpa [State.setFault, State.mapFaults] using m _ (h j (mem_all j))
      · simpa [State.setFault, State.mapFaults, get_set_other e] using h j (mem_all j)
    all_goals first | exact id | exact fun _ => id

/-! ## The transmit queue -/

/-- What an insertion by class holds. -/
theorem mem_insertByClass {e x : Entry} {q : List Entry} : x ∈ insertByClass e q ↔ x = e ∨ x ∈ q := by
  induction q with
  | nil => simp [insertByClass]
  | cons y q ih =>
    unfold insertByClass
    split
    · simp
    · simp only [List.mem_cons, ih]
      tauto

/-- An insertion by class adds one entry. -/
theorem length_insertByClass (e : Entry) (q : List Entry) : (insertByClass e q).length = q.length + 1 := by
  induction q with
  | nil => rfl
  | cons y q ih =>
    unfold insertByClass
    split
    · rfl
    · simp [ih]

/-- The queue is in order of class (R190). -/
abbrev Sorted (q : List Entry) : Prop := q.Pairwise (fun e f => e.kind.cls ≤ f.kind.cls)

/-- An insertion by class keeps the order of class. -/
theorem sorted_insertByClass {e : Entry} {q : List Entry} (h : Sorted q) : Sorted (insertByClass e q) := by
  induction q with
  | nil => simp [insertByClass, Sorted]
  | cons y q ih =>
    have hq := List.pairwise_cons.mp h
    unfold insertByClass
    split
    case isTrue lt =>
      refine List.pairwise_cons.mpr ⟨?_, h⟩
      intro z hz
      rcases List.mem_cons.mp hz with rfl | hz
      · exact Nat.le_of_lt lt
      · exact Nat.le_trans (Nat.le_of_lt lt) (hq.1 z hz)
    case isFalse ge =>
      refine List.pairwise_cons.mpr ⟨?_, ih hq.2⟩
      intro z hz
      rcases mem_insertByClass.mp hz with rfl | hz
      · exact Nat.le_of_not_lt ge
      · exact hq.1 z hz

/-- Order of class is order of the list of classes. -/
theorem sorted_iff (q : List Entry) : Sorted q ↔ (q.map (fun e => e.kind.cls)).Pairwise (· ≤ ·) := List.pairwise_map.symm

/-- Replacing an entry by one of its class keeps the list of classes. -/
theorem classes_replaceFirst {p : Entry → Bool} {f : Entry → Entry} (hf : ∀ e, p e = true → (f e).kind.cls = e.kind.cls)
    {q r : List Entry} (h : replaceFirst p f q = some r) :
    r.map (fun e => e.kind.cls) = q.map (fun e => e.kind.cls) := by
  induction q generalizing r with
  | nil => simp [replaceFirst] at h
  | cons y q ih =>
    unfold replaceFirst at h
    split at h
    case isTrue c =>
      cases h
      simp [hf y c]
    case isFalse c =>
      cases hr : replaceFirst p f q with
      | none => simp [hr] at h
      | some w =>
        simp only [hr, Option.map_some, Option.some.injEq] at h
        subst h
        simp [ih hr]

/-- A replacement keeps the entries it does not match. -/
theorem mem_replaceFirst {p : Entry → Bool} {f : Entry → Entry} {q r : List Entry} (h : replaceFirst p f q = some r)
    {x : Entry} (hx : x ∈ q) (np : p x = false) : x ∈ r := by
  induction q generalizing r with
  | nil => cases hx
  | cons y q ih =>
    unfold replaceFirst at h
    split at h
    case isTrue c =>
      cases h
      rcases List.mem_cons.mp hx with rfl | hx
      · simp [np] at c
      · exact List.mem_cons_of_mem _ hx
    case isFalse c =>
      cases hr : replaceFirst p f q with
      | none => simp [hr] at h
      | some w =>
        simp only [hr, Option.map_some, Option.some.injEq] at h
        subst h
        rcases List.mem_cons.mp hx with rfl | hx
        · exact List.mem_cons_self
        · exact List.mem_cons_of_mem _ (ih hr hx)

/-- A removal leaves a sublist. -/
theorem sublist_removeFirst {p : Entry → Bool} {q r : List Entry} (h : removeFirst p q = some r) : r.Sublist q := by
  induction q generalizing r with
  | nil => simp [removeFirst] at h
  | cons y q ih =>
    unfold removeFirst at h
    split at h
    · cases h
      exact List.sublist_cons_self y q
    · cases hr : removeFirst p q with
      | none => simp [hr] at h
      | some w =>
        simp only [hr, Option.map_some, Option.some.injEq] at h
        subst h
        exact (ih hr).cons_cons y

/-- A removal takes one entry. -/
theorem length_removeFirst {p : Entry → Bool} {q r : List Entry} (h : removeFirst p q = some r) :
    r.length + 1 = q.length := by
  induction q generalizing r with
  | nil => simp [removeFirst] at h
  | cons y q ih =>
    unfold removeFirst at h
    split at h
    · cases h
      rfl
    · cases hr : removeFirst p q with
      | none => simp [hr] at h
      | some w =>
        simp only [hr, Option.map_some, Option.some.injEq] at h
        subst h
        simp [ih hr]

/-- A removal keeps the entries it does not match. -/
theorem mem_removeFirst {p : Entry → Bool} {q r : List Entry} (h : removeFirst p q = some r) {x : Entry} (hx : x ∈ q)
    (np : p x = false) : x ∈ r := by
  induction q generalizing r with
  | nil => cases hx
  | cons y q ih =>
    unfold removeFirst at h
    split at h
    case isTrue c =>
      cases h
      rcases List.mem_cons.mp hx with rfl | hx
      · simp [np] at c
      · exact hx
    case isFalse c =>
      cases hr : removeFirst p q with
      | none => simp [hr] at h
      | some w =>
        simp only [hr, Option.map_some, Option.some.injEq] at h
        subst h
        rcases List.mem_cons.mp hx with rfl | hx
        · exact List.mem_cons_self
        · exact List.mem_cons_of_mem _ (ih hr hx)

/-- Entries of which one alone may wait are of one class. -/
theorem cls_of_sameKind {j k : EntryKind} (h : j.sameKind k = true) : k.cls = j.cls := by
  cases j <;> cases k <;> first | rfl | (simp [EntryKind.sameKind] at h)

/-- An entry that stays is of no kind of which one alone may wait. -/
theorem sameKind_of_stays {e : Entry} (h : e.stays = true) (k : EntryKind) : e.kind.sameKind k = false := by
  unfold Entry.stays at h
  cases hk : e.kind <;> cases k <;> first | rfl | (simp [hk] at h)

/-- An entry that stays is no waiting report. -/
theorem waitingReport_of_stays {e : Entry} (h : e.stays = true) : e.waitingReport = false := by
  unfold Entry.stays at h
  unfold Entry.waitingReport
  cases hk : e.kind <;> simp_all

/-- A hand-over leaves a legal link (R190, R191). -/
theorem hand_legal (k : EntryKind) (frames : List (List Byte)) {b : BusLink} (h : b.Legal) : (b.hand k frames).Legal := by
  obtain ⟨len, ord, br, bad, drop, gap⟩ := h
  unfold BusLink.hand
  split
  case h_1 q hq =>
    have cl := classes_replaceFirst (fun e c => cls_of_sameKind (by simp_all : e.kind.sameKind k = true)) hq
    refine ⟨?_, ?_, br, bad, drop, gap⟩
    · have l := congrArg List.length cl
      simp only [List.length_map] at l
      simpa [l] using len
    · exact (sorted_iff q).mpr (cl ▸ (sorted_iff b.queue).mp ord)
  case h_2 =>
    unfold BusLink.join
    split
    case isTrue lt =>
      refine ⟨?_, sorted_insertByClass ord, br, bad, drop, gap⟩
      simpa [length_insertByClass, queueCapacity] using lt
    case isFalse =>
      split
      case h_1 q hq =>
        refine ⟨?_, sorted_insertByClass (ord.sublist (sublist_removeFirst hq)), br, bad, Nat.min_le_left _ _, gap⟩
        simpa [length_insertByClass, length_removeFirst hq] using len
      case h_2 => exact ⟨len, ord, br, bad, Nat.min_le_left _ _, gap⟩

/-- A hand-over keeps the answers and notices that wait (R190, R191). -/
theorem hand_entries (k : EntryKind) (frames : List (List Byte)) {b : BusLink} {e : Entry} (h : e ∈ b.queue)
    (st : e.stays = true) : e ∈ (b.hand k frames).queue := by
  unfold BusLink.hand
  split
  case h_1 q hq => exact mem_replaceFirst hq h (by simp [sameKind_of_stays st k])
  case h_2 =>
    unfold BusLink.join
    split
    · exact mem_insertByClass.mpr (Or.inr h)
    · split
      case h_1 q hq => exact mem_insertByClass.mpr (Or.inr (mem_removeFirst hq h (waitingReport_of_stays st)))
      case h_2 => exact h

/-- A hand-over changes the queue and its drop counter, nothing else of the link. -/
theorem hand_rest (k : EntryKind) (frames : List (List Byte)) (b : BusLink) :
    ((b.hand k frames).link, (b.hand k frames).awaitGap) = (b.link, b.awaitGap) ∧ ((b.hand k frames).broken, (b.hand k frames).badFrames) = (b.broken, b.badFrames) := by
  unfold BusLink.hand
  split
  · exact ⟨rfl, rfl⟩
  · unfold BusLink.join
    split
    · exact ⟨rfl, rfl⟩
    · split <;> exact ⟨rfl, rfl⟩

/-- Something handed to the transmit queue. -/
theorem handEntry_does (k : EntryKind) (frames : List (List Byte)) (s : State) :
    Does [.queue] [] s (s.mapBus (BusLink.hand k frames)) := by
  refine ⟨?_, ?_⟩
  · intro a h
    cases a
    case queue => exact absurd (by decide) h
    case link => exact (hand_rest k frames s.bus).1
    case busCounts => exact (hand_rest k frames s.bus).2
    all_goals rfl
  · intro b _
    cases b
    case bus => exact hand_legal k frames
    case entries => exact fun e ⟨h, st⟩ => ⟨hand_entries k frames h st, st⟩
    all_goals first | exact id | exact fun _ => id

/-- An announcement queued (R4). -/
theorem announce_does (s : State) : Does [.queue] [] s s.announce := by
  unfold State.announce
  exact Does.ite (fun _ => Does.refl s) (fun _ => handEntry_does _ _ s)

/-- An announcement queued on a condition. -/
theorem announceIf_does (c : Bool) (s : State) : Does [.queue] [] s (s.announceIf c) := by
  unfold State.announceIf
  exact Does.ite (fun _ => announce_does s) (fun _ => Does.refl s)

/-- An answer handed (R178). -/
theorem answer_does (dst : Nat) (code : Byte) (a : AnswerCode) (data : List Byte) (s : State) :
    Does [.queue] [] s (s.answer dst code a data) := handEntry_does _ _ s

/-- A QUERY answered (R184). -/
theorem answerQuery_does (dst : Nat) (k : ReportKind) (s : State) :
    Does [.queue, .freeIndex] [] s (s.answerQuery dst k) :=
  (handEntry_does (.answer dst) _ s).andThen (drawFree_does freeDraws _)

/-- A report handed (R181). -/
theorem handReport_does (k : ReportKind) (s : State) : Does [.queue, .freeIndex] [] s (s.handReport k) := by
  unfold State.handReport
  exact Does.ite (fun _ => (handEntry_does (.report k) _ s).andThen (drawFree_does freeDraws _)) (fun _ => Does.refl s)

/-- A report handed on a condition. -/
theorem handReportIf_does (c : Bool) (k : ReportKind) (s : State) :
    Does [.queue, .freeIndex] [] s (s.handReportIf c k) := by
  unfold State.handReportIf
  exact Does.ite (fun _ => handReport_does k s) (fun _ => Does.refl s)

/-- A VAPOUR notice handed (R185). -/
theorem handNotice_does (r : VapourReason) (s : State) : Does [.queue] [] s (s.handNotice r) := by
  unfold State.handNotice
  exact Does.ite (fun _ => handEntry_does _ _ s) (fun _ => Does.refl s)

/-- The reports of an event (R183). -/
theorem reported_does (before s : State) : Does [.queue, .freeIndex] [] s (before.reported s) :=
  ((handReportIf_does _ _ s).trans (handReportIf_does _ _ _)).trans (handReportIf_does _ _ _)

end Sys2Proof.Machine
end

