-- ==== Sys2Proof/Laws/Power.lean ====
section
/-! SUPPORT. What each operation of the share engine and of the load frame does (Machine/Sharing.lean, Machine/Frame.lean). -/

namespace Sys2Proof.Machine

-- Each proof is done before the next begins, so that few are held in memory at once.
set_option Elab.async false

/-! ## Ask rounds, states, holds -/

/-- An ask round begins: share quantities, and an announcement (R13). -/
theorem startRound_does (s : State) : Does [.sharing, .queue] [.outside] s s.startRound := by
  refine Does.andThen (cs := [.queue]) (ds := []) (as := [.sharing]) (bs := [.outside]) ?_ (announce_does _)
  refine ⟨by intro a h; cases a <;> first | exact absurd (by decide) h | rfl, ?_⟩
  intro b h
  cases b
  case outside => exact absurd (by decide) h
  case share =>
    intro ⟨⟨h1, h2, _, h4, h5, h6, h7, h8, _⟩, hc⟩
    refine ⟨⟨h1, h2, Nat.zero_le _, ?_, h5, h6, h7, h8, hc⟩, hc⟩
    by_cases c : s.share.state = .asking
    · simpa [State.mapShare, c] using h4
    · simp [State.mapShare, c]
  all_goals first | exact id | exact fun _ => id

/-- A round starts from STEADY alone. -/
theorem askIfShort_does (s : State) : Does [.sharing, .queue] [] s s.askIfShort := by
  unfold State.askIfShort
  refine Does.ite (fun c => ?_) (fun _ => Does.refl s)
  refine ⟨(startRound_does s).same, fun b _ => ?_⟩
  by_cases hb : b = .outside
  · subst hb
    intro x
    rcases x with x | x <;> simp [c.1] at x
  · exact (startRound_does s).kept b (by simpa using hb)

/-- An entry to ISOLATED (R17). -/
theorem isolateIfDue_does (s : State) : Does [.sharing] [] s s.isolateIfDue := by
  unfold State.isolateIfDue
  refine Does.ite (fun _ => ?_) (fun _ => Does.refl s)
  refine ⟨by intro a h; cases a <;> first | exact absurd (by decide) h | rfl, ?_⟩
  intro b _
  cases b
  case outside => exact fun _ => Or.inl rfl
  case share =>
    exact fun ⟨⟨h1, h2, _, _, h5, _, _, h8⟩, hc⟩ =>
      ⟨⟨h1, h2, Nat.zero_le _, Nat.zero_le _, h5, Nat.zero_le _, Nat.zero_le _, h8⟩, hc⟩
  all_goals first | exact id | exact fun _ => id

/-- Hold and applied budget set together; the hold may rise. -/
theorem settleHold_does {n : Nat} {s : State} (le : s.ShareLegal → n ≤ 2047) :
    Does [.sharing] [.hold] s (s.mapShare (Share.settleHold n)) := by
  refine ⟨by intro a h; cases a <;> first | exact absurd (by decide) h | rfl, ?_⟩
  intro b h
  cases b
  case hold => exact absurd (by decide) h
  case share =>
    intro h
    have range := le h
    obtain ⟨⟨_, _, h3, h4, h5, h6, h7, _, h9⟩, hc⟩ := h
    exact ⟨⟨Nat.le_refl _, Nat.zero_le _, h3, h4, h5, h6, h7, range, h9⟩, hc⟩
  all_goals first | exact id | exact fun _ => id

/-- Hold and applied budget set together to no more than the hold. -/
theorem settleHold_falls {n : Nat} {s : State} (le : n ≤ s.share.hold) :
    Does [.sharing] [] s (s.mapShare (Share.settleHold n)) := by
  have settled := settleHold_does (n := n) (s := s) (fun h => Nat.le_trans le h.1.2.2.2.2.2.2.2.1)
  refine ⟨settled.same, fun b _ => ?_⟩
  by_cases hb : b = .hold
  · subst hb
    exact fun m hm => Nat.le_trans le hm
  · exact settled.kept b (by simpa using hb)

/-- The hold of a boundary is no more than the hold found and the ceiling allow (R23). -/
theorem boundaryHold_le (s : State) : s.boundaryHold ≤ max s.share.hold s.load.ceiling := by
  unfold State.boundaryHold State.reducedHold State.isolatedHold State.isolatedTarget
  cases s.share.state <;> dsimp only <;> repeat' split
  all_goals omega

/-- Settling at a boundary (R23). -/
theorem settleShare_does (s : State) : Does [.sharing, .queue] [.hold] s s.settleShare := by
  unfold State.settleShare
  have range : s.ShareLegal → s.boundaryHold ≤ 2047 := fun h =>
    Nat.le_trans (boundaryHold_le s) (Nat.max_le.mpr ⟨h.1.2.2.2.2.2.2.2.1, h.2⟩)
  exact Does.ite (fun _ => (settleHold_does range).andThen (announceIf_does _ _)) (fun _ => Does.refl s)

/-- The share engine at a boundary (R17, R18, R20, R23). -/
theorem shareBoundary_does (s : State) : Does [.sharing, .queue] [.hold] s s.shareBoundary :=
  ((isolateIfDue_does s).andThen (settleShare_does _) (es := [.sharing, .queue]) (fs := [.hold])).andThen
    (askIfShort_does _)

/-- What MAINS lets apply at once is no raise (R24). -/
theorem mainsHold_le (s : State) : s.mainsHold ≤ s.share.hold := by
  unfold State.mainsHold State.reducedHold
  cases s.share.state <;> simp only
  case listen => exact Nat.le_refl _
  case quiet => exact Nat.le_refl _
  case unshared => exact Nat.min_le_right _ _
  case isolated => exact Nat.le_trans (Nat.min_le_right _ _) (Nat.sub_le _ _)
  case steady => split <;> omega
  case asking => split <;> omega

/-- With mains present nothing applies before its boundary (R23, R24). -/
theorem mainsApply_off {s : State} (h : s.mainsOut = false) : s.mainsApply = s := by
  unfold State.mainsApply; rw [h]; rfl

/-- What applies at once under MAINS (R24). -/
theorem mainsApply_does (s : State) : Does [.sharing, .queue] [] s s.mainsApply := by
  unfold State.mainsApply
  refine Does.ite (fun _ => ?_) (fun _ => Does.refl s)
  refine Does.ite (fun _ => ?_) (fun _ => (isolateIfDue_does s).mono)
  exact ((isolateIfDue_does s).trans (settleHold_falls (mainsHold_le _))).andThen (announce_does _)

/-- A ceiling change at the share engine (R13, R15, R24). -/
theorem ceilingEvent_does (s : State) : Does [.sharing, .queue] [] s s.ceilingEvent := by
  unfold State.ceilingEvent
  refine Does.trans ?_ (mainsApply_does _)
  refine Does.ite (fun c => ?_) (fun _ => askIfShort_does s)
  have notOutside : ∀ t, Kept .outside s t := by
    intro t x
    rcases x with x | x <;> simp [c] at x
  refine Does.ite (fun _ => ?_) (fun _ => Does.ite (fun _ => Does.refl s) (fun _ => ?_))
  · refine ⟨by intro a h; cases a <;> first | exact absurd (by decide) h | rfl, ?_⟩
    intro b _
    cases b
    case outside => exact notOutside _
    case share => exact fun ⟨⟨h1, h2, h3, _, h5⟩, hc⟩ => ⟨⟨h1, h2, h3, Nat.zero_le _, h5⟩, hc⟩
    all_goals first | exact id | exact fun _ => id
  · refine ⟨(startRound_does s).same, fun b _ => ?_⟩
    by_cases hb : b = .outside
    · subst hb
      exact notOutside _
    · exact (startRound_does s).kept b (by simpa using hb)

/-- QUIET is left (R22). -/
theorem leaveQuiet_does (s : State) : Does [.sharing, .queue] [] s s.leaveQuiet := by
  unfold State.leaveQuiet
  refine Does.ite (fun c => ?_) (fun _ => Does.refl s)
  refine Does.andThen (as := [.sharing]) (bs := []) ?_ (askIfShort_does _)
  refine ⟨by intro a h; cases a <;> first | exact absurd (by decide) h | rfl, ?_⟩
  intro b _
  cases b
  case outside =>
    intro x
    rcases x with x | x <;> simp [c] at x
  case share => exact fun ⟨⟨h1, h2, h3, h4, h5, h6, _, h8⟩, hc⟩ => ⟨⟨h1, h2, h3, h4, h5, h6, Nat.zero_le _, h8⟩, hc⟩
  all_goals first | exact id | exact fun _ => id

/-- ISOLATED is left (R19). -/
theorem leaveIsolated_does (s : State) : Does [.sharing, .queue] [.outside] s s.leaveIsolated := by
  unfold State.leaveIsolated
  refine Does.ite (fun _ => ?_) (fun _ => Does.refl s)
  refine Does.andThen ?_ (mainsApply_does _) (as := [.sharing, .queue]) (bs := [.outside])
  refine Does.andThen (as := [.sharing]) (bs := [.outside]) ?_ (askIfShort_does _)
  exact
    ⟨by intro a h; cases a <;> first | exact absurd (by decide) h | rfl,
     by intro b h; cases b <;> first | exact absurd (by decide) h | exact id | exact fun _ => id⟩

/-! ## Slots that the peer table and the requests empty -/

/-- A slot that is not ACTIVE is replaced by a legal one that is not: the store stays legal. -/
theorem setSlot_legal {ix : SlotIx} {v : Slot} {s : State} (old : (s.store.slot ix).isActive = false) (new : v.Legal)
    (idle : v.isActive = false) {t : Store} (h0 : t.slot0 = (s.store.setSlot ix v).slot0)
    (h1 : t.slot1 = (s.store.setSlot ix v).slot1) (h : s.StoreLegal) : State.StoreLegal { s with store := t } := by
  obtain ⟨l0, l1, r⟩ := h
  cases ix
  · simp only [Store.setSlot] at h0 h1
    refine ⟨by simpa [h0] using new, by simpa [h1] using l1, ?_⟩
    revert r
    unfold RunLegal
    cases s.seq.run with
    | none => exact fun r => ⟨by simpa [h0] using idle, by simpa [h1] using r.2⟩
    | some at_ =>
      cases hs : at_.slot <;> simp only [Store.slot, SlotIx.other, hs, h0, h1] at old ⊢
      · exact fun r => by simp [old] at r
      · exact fun r => ⟨r.1, r.2.1, idle⟩
  · simp only [Store.setSlot] at h0 h1
    refine ⟨by simpa [h0] using l0, by simpa [h1] using new, ?_⟩
    revert r
    unfold RunLegal
    cases s.seq.run with
    | none => exact fun r => ⟨by simpa [h0] using r.1, by simpa [h1] using idle⟩
    | some at_ =>
      cases hs : at_.slot <;> simp only [Store.slot, SlotIx.other, hs, h0, h1] at old ⊢
      · exact fun r => ⟨r.1, r.2.1, idle⟩
      · exact fun r => by simp [old] at r

/-- A slot that is not ACTIVE is emptied, with its staging entries. -/
theorem emptySlot_does (ix : SlotIx) (s : State) (old : (s.store.slot ix).isActive = false) :
    Does [.slots, .staging] [] s (s.mapStore (Store.emptySlot ix)) := by
  refine ⟨by intro a h; cases a <;> first | exact absurd (by decide) h | rfl, ?_⟩
  intro b _
  cases b
  case store =>
    exact setSlot_legal (ix := ix) (v := .empty) old trivial rfl (by cases ix <;> rfl) (by cases ix <;> rfl)
  all_goals first | exact id | exact fun _ => id

/-- A slot that is not ACTIVE is emptied, and staging entries that name it stay. -/
theorem releaseSlot_does (ix : SlotIx) (s : State) (old : (s.store.slot ix).isActive = false) :
    Does [.slots] [] s (s.mapStore (Store.releaseSlot ix)) := by
  refine ⟨?_, ?_⟩
  · intro a h
    cases a
    case staging => cases ix <;> rfl
    all_goals first | exact absurd (by decide) h | rfl
  intro b _
  cases b
  case store =>
    exact setSlot_legal (ix := ix) (v := .empty) old trivial rfl (by cases ix <;> rfl) (by cases ix <;> rfl)
  all_goals first | exact id | exact fun _ => id

/-- The LOADING slot of a station that is gone (R102). -/
theorem abandonSlot_does (gone : List Nat) (ix : SlotIx) (s : State) :
    Does [.slots, .staging] [] s (s.mapStore (Store.abandonSlot gone ix)) := by
  unfold State.mapStore Store.abandonSlot
  cases hs : s.store.slot ix with
  | loading p =>
    simp only
    split
    · exact emptySlot_does ix s (by simp [hs, Slot.isActive, Slot.activeProgram])
    · exact Does.refl s
  | empty => simpa only [hs] using Does.refl s
  | ready p => simpa only [hs] using Does.refl s
  | active p => simpa only [hs] using Does.refl s
  | done p o => simpa only [hs] using Does.refl s

/-- The LOADING slots of stations that are gone (R102). -/
theorem abandon_does (gone : List Nat) (s : State) : Does [.slots, .staging] [] s (s.mapStore (Store.abandon gone)) :=
  (abandonSlot_does gone .s0 s).trans (abandonSlot_does gone .s1 (s.mapStore (Store.abandonSlot gone .s0)))

/-- The slot is LOADING for one of the stations (R102). -/
def Slot.loadsFor (gone : List Nat) : Slot → Bool
  | .loading p => gone.contains p.originator
  | .empty => false
  | .ready _ => false
  | .active _ => false
  | .done _ _ => false

/-- One slot given up frees the staging entries that name it (R110). -/
theorem abandonSlot_staging (gone : List Nat) (ix : SlotIx) (t : Store) :
    (t.abandonSlot gone ix).staging
      = t.staging.filter (fun e => !((t.slot ix).loadsFor gone && decide (e.slot = ix.number))) := by
  unfold Store.abandonSlot
  cases h : t.slot ix with
  | loading p =>
    by_cases g : gone.contains p.originator = true
    · cases ix <;> simp_all [Slot.loadsFor, Store.emptySlot, Store.freeStaging, Store.setSlot]
    · simp_all [Slot.loadsFor]
  | empty => simp [Slot.loadsFor]
  | ready p => simp [Slot.loadsFor]
  | active p => simp [Slot.loadsFor]
  | done p o => simp [Slot.loadsFor]

/-- The staging entries that the slots given up leave: those that name neither of them (R102, R110). -/
theorem abandon_staging (gone : List Nat) (t : Store) :
    (t.abandon gone).staging
      = t.staging.filter (fun e =>
          !((t.slot0.loadsFor gone && decide (e.slot = 0)) || (t.slot1.loadsFor gone && decide (e.slot = 1)))) := by
  have other : (t.abandonSlot gone .s0).slot .s1 = t.slot1 := by
    unfold Store.abandonSlot
    repeat' split
    all_goals rfl
  unfold Store.abandon
  rw [abandonSlot_staging, abandonSlot_staging, other, List.filter_filter]
  exact List.filter_congr (fun e _ => by
    rw [Bool.not_or]
    exact Bool.and_comm _ _)

/-! ## The peer table -/

/-- The peer table replaced by a legal one. -/
theorem setPeers_does {peers : List Peer} {s : State}
    (legal : PeersLegal s.startup.station s.share.peers → PeersLegal s.startup.station peers) :
    Does [.peers] [] s (s.setPeers peers) := by
  refine ⟨by intro a h; cases a <;> first | exact absurd (by decide) h | rfl, ?_⟩
  intro b _
  cases b
  case peers => exact legal
  all_goals first | exact id | exact fun _ => id

/-- A repeat count stays within 3 (R7). -/
theorem repeatsAfter_le (ask : Nat) (p : Peer) : p.repeatsAfter ask ≤ 3 := by
  unfold Peer.repeatsAfter satAdd
  split
  · exact Nat.min_le_left _ _
  · decide

/-- What an entry takes from an announcement is in range. -/
abbrev Announcement.InRange (a : Announcement) : Prop :=
  (a.hold ≤ 2047 ∧ a.rank ≤ 3 ∧ a.draw ≤ 2047) ∧ a.ask ≤ 2047

/-- A field of a width is below the power of it. -/
theorem fieldOf_lt (n low width : Nat) : fieldOf n low width < 2 ^ width := Nat.mod_lt _ (Nat.two_pow_pos _)

/-- A payload's fields are in range (R194). -/
theorem ofPayload_inRange (payload : List Byte) : (Announcement.ofPayload payload).InRange :=
  ⟨⟨Nat.le_of_lt_succ (fieldOf_lt _ 29 11), Nat.le_of_lt_succ (fieldOf_lt _ 16 2), Nat.le_of_lt_succ (fieldOf_lt _ 5 11)⟩,
    Nat.le_of_lt_succ (fieldOf_lt _ 18 11)⟩

/-- An entry's settled ask after an announcement is in range (R7). -/
theorem hear_settled {a : Announcement} (range : a.InRange) {p : Peer} (h : ∀ x ∈ p.settled, x ≤ 2047) :
    ∀ x ∈ (p.hear a).settled, x ≤ 2047 := by
  unfold Peer.hear
  dsimp only
  split
  · intro x hx
    simp only [Option.mem_def, Option.some.injEq] at hx
    exact hx ▸ range.2
  · exact h

/-- An entry updated in the table (R7). -/
theorem heard_legal {own : Nat} {a : Announcement} (range : a.InRange) {peers : List Peer} (h : PeersLegal own peers) :
    PeersLegal own (peers.map (fun p => if p.station = a.station then p.hear a else p)) := by
  obtain ⟨len, nodup, each⟩ := h
  have st : ∀ p : Peer, (if p.station = a.station then p.hear a else p).station = p.station := by
    intro p
    split <;> rfl
  refine ⟨by simpa using len, ?_, ?_⟩
  · simpa [List.map_map, Function.comp_def, st] using nodup
  · intro p hp
    obtain ⟨q, hq, rfl⟩ := List.mem_map.mp hp
    have l := each q hq
    refine ⟨?_, ?_, ?_⟩
    · simpa [st] using l.1
    · simpa [st] using l.2.1
    · split
      · exact ⟨repeatsAfter_le _ _, Nat.zero_le _, range.1, range.2, hear_settled range l.2.2.2.2.2.2⟩
      · exact l.2.2

/-- A new entry at the end of a table with room (R8). -/
theorem added_legal {own : Nat} {a : Announcement} {peers : List Peer} (h : PeersLegal own peers)
    (values : a.InRange) (room : peers.length < 15) (new : ∀ p ∈ peers, p.station ≠ a.station)
    (range : 1 ≤ a.station ∧ a.station ≤ 30)
    (other : a.station ≠ own) : PeersLegal own (peers ++ [.ofAnnouncement a]) := by
  obtain ⟨_, nodup, each⟩ := h
  refine ⟨by simpa using room, ?_, ?_⟩
  · rw [List.map_append, List.nodup_append]
    refine ⟨nodup, by simp, ?_⟩
    intro x hx y hy
    obtain ⟨p, hp, rfl⟩ := List.mem_map.mp hx
    have e : y = a.station := by simpa [Peer.ofAnnouncement] using hy
    exact e ▸ new p hp
  · intro p hp
    rcases List.mem_append.mp hp with hp | hp
    · exact each p hp
    · have e : p = .ofAnnouncement a := by simpa using hp
      exact e ▸ ⟨range, other, show 1 ≤ 3 by decide, Nat.zero_le _, values.1, values.2, fun _ h => nomatch h⟩

/-- A table with entries taken out (R9, R11). -/
theorem filtered_legal {own : Nat} (keep : Peer → Bool) {peers : List Peer} (h : PeersLegal own peers) :
    PeersLegal own (peers.filter keep) :=
  ⟨Nat.le_trans (List.length_filter_le _ _) h.1, h.2.1.sublist (List.filter_sublist.map _),
    fun p hp => h.2.2 p (List.mem_filter.mp hp).1⟩

/-- The entry a full table gives up is one of its entries. -/
theorem evicted_mem {peers : List Peer} {g : Peer} (h : evicted peers = some g) : g ∈ peers := List.mem_of_find?_eq_some h

/-- An announcement recorded (R7 to R9). -/
theorem recordPeer_does {a : Announcement} {s : State} (values : a.InRange) (range : 1 ≤ a.station ∧ a.station ≤ 30)
    (other : a.station ≠ s.startup.station) : Does [.peers, .slots, .staging] [] s (s.recordPeer a) := by
  unfold State.recordPeer
  split
  · exact (setPeers_does (heard_legal values)).mono
  · rename_i unknown
    have new : ∀ p ∈ s.share.peers, p.station ≠ a.station := by simpa using unknown
    split
    · rename_i room
      exact (setPeers_does (fun h => added_legal h values room new range other)).mono
    · split
      · rename_i g hg
        refine (setPeers_does (fun h => added_legal (filtered_legal _ h) values ?_ ?_ range other)).andThen (abandon_does _ _)
        · refine Nat.lt_of_lt_of_le ?_ h.1
          exact List.length_filter_lt_length_iff_exists.mpr ⟨g, evicted_mem hg, by simp⟩
        · exact fun p hp => new p (List.mem_filter.mp hp).1
      · exact
          ⟨by intro a h; cases a <;> first | exact absurd (by decide) h | rfl,
           by intro b h; cases b <;> first | exact absurd (by decide) h | exact id | exact fun _ => id⟩

/-- The table after ageing (R11). -/
theorem aged_legal {own : Nat} {peers : List Peer} (h : PeersLegal own peers) :
    PeersLegal own ((agedPeers peers).filter (fun p => decide (p.silent ≠ 7))) := by
  have shape : PeersLegal own (agedPeers peers) ∨ True := Or.inr trivial
  obtain ⟨len, nodup, each⟩ := h
  have st : (agedPeers peers).map Peer.station = peers.map Peer.station := by
    simp [agedPeers, List.map_map, Function.comp_def]
  refine ⟨Nat.le_trans (List.length_filter_le _ _) (by simpa [agedPeers] using len), ?_, ?_⟩
  · exact (st ▸ nodup).sublist (List.filter_sublist.map _)
  · intro p hp
    obtain ⟨hp, ne⟩ := List.mem_filter.mp hp
    obtain ⟨q, hq, rfl⟩ := List.mem_map.mp hp
    have l := each q hq
    refine ⟨l.1, l.2.1, l.2.2.1, ?_, l.2.2.2.2⟩
    have ne7 : satAdd 7 q.silent 1 ≠ 7 := by simpa using ne
    have le7 : satAdd 7 q.silent 1 ≤ 7 := Nat.min_le_left _ _
    show satAdd 7 q.silent 1 ≤ 6
    omega

/-- The table aged (R11, R102). -/
theorem ageTable_does (s : State) : Does [.peers, .slots, .staging] [] s s.ageTable := by
  unfold State.ageTable
  refine Does.andThen (as := [.peers]) (bs := []) ?_ (abandon_does _ _)
  refine ⟨by intro a h; cases a <;> first | exact absurd (by decide) h | rfl, ?_⟩
  intro b _
  cases b
  case peers => exact aged_legal
  all_goals first | exact id | exact fun _ => id

/-! ## The walks and the tick -/

/-- What a list put in order holds. -/
theorem mem_insertBy {α : Type} {before : α → α → Bool} {x y : α} {q : List α} :
    y ∈ insertBy before x q ↔ y = x ∨ y ∈ q := by
  induction q with
  | nil => simp [insertBy]
  | cons z q ih =>
    unfold insertBy
    split
    · simp
    · simp only [List.mem_cons, ih]
      tauto

/-- Putting in order keeps the members. -/
theorem mem_sortBy {α : Type} {before : α → α → Bool} {y : α} {q : List α} : y ∈ sortBy before q ↔ y ∈ q := by
  induction q with
  | nil => simp [sortBy]
  | cons x q ih => simp [sortBy, mem_insertBy, ih]

/-- A give is no more than the need (R26). -/
theorem gives_le {q : List Asker} {margin : Int} {p : Asker × Nat} (h : p ∈ gives q margin) : p.1 ∈ q ∧ p.2 ≤ p.1.need := by
  induction q generalizing margin with
  | nil => cases h
  | cons a q ih =>
    rcases List.mem_cons.mp h with rfl | h
    · exact ⟨List.mem_cons_self .., Nat.min_le_left _ _⟩
    · exact ⟨List.mem_cons_of_mem _ (ih h).1, (ih h).2⟩

/-- The part's own give is no more than its need (R26). -/
theorem ownGive_le (s : State) (margin : Int) : ownGive (gives s.askers margin) ≤ s.need := by
  unfold ownGive
  split
  · rename_i p hp
    have own : p.1.own = true := by simpa using List.find?_some hp
    have g := gives_le (List.mem_of_find?_eq_some hp)
    unfold State.askers at g
    rcases List.mem_append.mp (mem_sortBy.mp g.1) with m | m
    · split at m
      · have e : p.1 = ⟨s.station, s.rank, s.share.draw.toNat, s.need, true⟩ := by simpa using m
        exact Nat.le_trans g.2 (Nat.le_of_eq (congrArg Asker.need e))
      · cases m
    · obtain ⟨q, _, hq⟩ := List.mem_filterMap.mp m
      unfold Peer.asker at hq
      split at hq
      · split at hq
        · rw [← Option.some.inj hq] at own
          cases own
        · cases hq
      · cases hq
  · exact Nat.zero_le _

/-- A grant (R27). -/
theorem tickGrant_does (barred : Bool) {given : List (Asker × Nat)} {s : State} (fits : ownGive given ≤ s.need) :
    Does [.sharing] [.hold] s (s.tickGrant barred given) := by
  unfold State.tickGrant
  refine Does.ite (fun p => ?_) (fun _ => Does.refl s)
  have asking : s.share.state = .asking := by
    unfold Share.grantPermitted at p
    simp_all
  refine ⟨?_, ?_⟩
  · intro a h
    unfold State.mapShare Share.grant
    split <;> cases a <;> first | exact absurd (by decide) h | rfl
  · intro b h
    unfold State.mapShare Share.grant
    split
    · cases b
      case hold => exact absurd (by decide) h
      case outside =>
        intro x
        rcases x with x | x <;> simp [asking] at x
      case share =>
        intro ⟨⟨h1, h2, h3, _, h5, h6, h7, h8, h9⟩, hc⟩
        have up : s.share.hold + ownGive given ≤ 2047 := by
          unfold State.need at fits
          omega
        exact ⟨⟨Nat.le_trans h1 (Nat.le_add_right _ _), h2, h3, Nat.zero_le _, h5, h6, h7, up, h9⟩, hc⟩
      all_goals first | exact id | exact fun _ => id
    · cases b
      case hold => exact absurd (by decide) h
      case share => exact fun ⟨⟨h1, h2, h3, _, h5⟩, hc⟩ => ⟨⟨h1, h2, h3, Nat.min_le_left _ _, h5⟩, hc⟩
      all_goals first | exact id | exact fun _ => id

/-- A portion given way (R28 to R30). -/
theorem giveWay_does (n : Nat) (s : State) : Does [.sharing, .coolDown] [] s (s.mapShare (Share.giveWay n)) := by
  unfold State.mapShare Share.giveWay
  split
  · refine ⟨by intro a h; cases a <;> first | exact absurd (by decide) h | rfl, ?_⟩
    intro b _
    cases b
    case share => exact fun ⟨⟨h1, _, h3, h4, _, h6⟩, hc⟩ => ⟨⟨h1, Nat.min_le_left _ _, h3, h4, Nat.le_refl 6, h6⟩, hc⟩
    all_goals first | exact id | exact fun _ => id
  · exact Does.refl s

/-- The walks of a tick (R25 to R29). -/
theorem tickWalks_does (barred : Bool) (limit : Nat) (s : State) :
    Does [.sharing, .coolDown] [.hold] s (s.tickWalks barred limit) := by
  unfold State.tickWalks
  refine Does.ite (fun _ => ?_) (fun _ => Does.ite (fun _ => (giveWay_does _ s).mono) (fun _ => Does.refl s))
  exact ((tickGrant_does _ (ownGive_le s _)).andThen (giveWay_does _ _) (es := [.sharing, .coolDown]) (fs := [.hold])).andThen
    (giveWay_does _ _)

/-- The walks, in a circuit with a limit (R1). -/
theorem tickShare_does (barred : Bool) (s : State) : Does [.sharing, .coolDown] [.hold] s (s.tickShare barred) := by
  unfold State.tickShare
  split
  · exact tickWalks_does _ _ s
  · exact Does.refl s

/-- The counters of a tick (R12, R21). -/
theorem tickCounters_does (s : State) : Does [.sharing, .queue] [.outside] s s.tickCounters := by
  have quiet : Does [.sharing, .queue] [.outside] s s.tickQuiet := by
    unfold State.tickQuiet
    refine Does.ite (fun _ => ?_) (fun _ => ?_)
    · refine ⟨by intro a h; cases a <;> first | exact absurd (by decide) h | rfl, ?_⟩
      intro b h
      cases b
      case outside => exact absurd (by decide) h
      case share => exact fun ⟨⟨h1, h2, h3, h4, h5, h6, _, h8⟩, hc⟩ => ⟨⟨h1, h2, h3, h4, h5, h6, Nat.min_le_left _ _, h8⟩, hc⟩
      all_goals first | exact id | exact fun _ => id
    · refine ⟨by intro a h; cases a <;> first | exact absurd (by decide) h | rfl, ?_⟩
      intro b h
      cases b
      case outside => exact absurd (by decide) h
      case share => exact fun ⟨⟨h1, h2, h3, h4, h5, h6, _, h8⟩, hc⟩ => ⟨⟨h1, h2, h3, h4, h5, h6, Nat.zero_le _, h8⟩, hc⟩
      all_goals first | exact id | exact fun _ => id
  unfold State.tickCounters
  cases s.share.state <;> simp only
  case steady => exact quiet
  case unshared => exact quiet
  case asking => exact Does.refl s
  case isolated => exact Does.refl s
  case quiet => exact Does.refl s
  unfold State.tickListen
  have counted : Does [.sharing] [] s (s.mapShare (fun h => { h with listenCount := satAdd 3 h.listenCount 1 })) := by
    refine ⟨by intro a h; cases a <;> first | exact absurd (by decide) h | rfl, ?_⟩
    intro b _
    cases b
    case share => exact fun ⟨⟨h1, h2, h3, h4, h5, _, h7⟩, hc⟩ => ⟨⟨h1, h2, h3, h4, h5, Nat.min_le_left _ _, h7⟩, hc⟩
    all_goals first | exact id | exact fun _ => id
  refine Does.ite (fun _ => ?_) (fun _ => counted.mono)
  refine Does.ite (fun _ => ?_) (fun _ => Does.ite (fun _ => counted.andThen (startRound_does _)) (fun _ => ?_))
  all_goals
    refine counted.andThen (cs := [.sharing]) (ds := [.outside]) ?_
    exact
      ⟨by intro a h; cases a <;> first | exact absurd (by decide) h | rfl,
       by intro b h; cases b <;> first | exact absurd (by decide) h | exact id | exact fun _ => id⟩

/-- The cool-down counted down (R30). -/
theorem coolCount_does (s : State) :
    Does [.coolDown] [] s (s.mapShare (fun h => { h with coolDown := h.coolDown - 1 })) := by
  refine ⟨by intro a h; cases a <;> first | exact absurd (by decide) h | rfl, ?_⟩
  intro b _
  cases b
  case share =>
    exact fun ⟨⟨h1, h2, h3, h4, h5, h6⟩, hc⟩ => ⟨⟨h1, h2, h3, h4, Nat.le_trans (Nat.sub_le _ _) h5, h6⟩, hc⟩
  all_goals first | exact id | exact fun _ => id

/-- The own announce tick (R25). -/
theorem shareTick_does (s : State) :
    Does [.sharing, .coolDown, .peers, .slots, .staging, .queue] [.hold, .outside] s s.shareTick := by
  unfold State.shareTick
  refine Does.andThen (as := [.sharing, .coolDown, .peers, .slots, .staging, .queue]) (bs := [.hold]) ?_
    (tickCounters_does _)
  refine Does.andThen (as := [.sharing, .coolDown, .queue]) (bs := [.hold]) ?_ (ageTable_does _)
  refine Does.ite (fun _ => Does.refl s) (fun _ => ?_)
  refine Does.andThen (as := [.sharing, .coolDown, .queue]) (bs := [.hold]) ?_ (announce_does _)
  refine Does.andThen (as := [.sharing, .coolDown]) (bs := [.hold]) ?_ (mainsApply_does _)
  exact (coolCount_does s).andThen (tickShare_does _ _)

/-! ## The load frame -/

/-- A step's ceiling is in range (R2, R37). -/
theorem stepCeiling_le (variant : Nat) (warning : Bool) (m : Mode) : stepCeiling variant warning m ≤ 2047 := by
  have small : ∀ v : Fin 4, stepCeiling v.val warning m ≤ 2047 := by
    revert warning m
    intro warning m
    cases m <;> cases warning <;> decide
  by_cases h : variant < 4
  · exact small ⟨variant, h⟩
  · have e : stepCeiling variant warning m = stepCeiling 3 warning m := by
      match variant, h with
      | n + 4, _ => rfl
      | 0, h => exact absurd (by decide) h
      | 1, h => exact absurd (by decide) h
      | 2, h => exact absurd (by decide) h
      | 3, h => exact absurd (by decide) h
    exact e ▸ small ⟨3, by decide⟩

/-- The ceiling of a situation is in range (R2, R37, R38). -/
theorem ceilingNow_le (s : State) : s.ceilingNow ≤ 2047 := by
  have base : s.baseUnits ≤ 2047 := by
    unfold State.baseUnits Config.unitsUp Config.baseWatts
    split <;> decide
  unfold State.ceilingNow
  repeat' split
  all_goals first | exact Nat.zero_le _ | exact base | exact stepCeiling_le _ _ _

/-- The ceiling recomputed (R40). -/
theorem updateCeiling_does (s : State) : Does [.ceiling, .sharing, .queue] [] s s.updateCeiling := by
  unfold State.updateCeiling
  refine Does.ite (fun _ => Does.refl s) (fun _ => ?_)
  refine Does.andThen (as := [.ceiling]) (bs := []) ?_ (ceilingEvent_does _)
  refine ⟨by intro a h; cases a <;> first | exact absurd (by decide) h | rfl, fun b _ => ?_⟩
  cases b
  case share => exact fun h => ⟨h.1, ceilingNow_le s⟩
  all_goals first | exact id | exact fun _ => id

/-- A ceiling event leaves the ceiling. -/
theorem ceilingEvent_ceiling (s : State) : s.ceilingEvent.load.ceiling = s.load.ceiling :=
  (ceilingEvent_does s).same .ceiling (by decide)

/-- Every gate off (R35). -/
theorem gatesOff_does (s : State) : Does [.gates] [] s s.gatesOff :=
  ⟨by intro a h; cases a <;> first | exact absurd (by decide) h | rfl,
   by intro b h; cases b <;> first | exact absurd (by decide) h | exact id | exact fun _ => id⟩

/-- One millilitre added to S (R147 to R149). -/
theorem addMillilitre_does (s : State) : Does [.scaleLoad, .writes] [] s s.addMillilitre := by
  have added : Does [.scaleLoad] [] s (s.mapScale Scale.addMillilitre) := by
    refine ⟨by intro a h; cases a <;> first | exact absurd (by decide) h | rfl, ?_⟩
    intro b _
    cases b
    case scale => exact fun ⟨⟨h1, _, h3⟩, r⟩ => ⟨⟨h1, Nat.min_le_left _ _, h3⟩, r⟩
    all_goals first | exact id | exact fun _ => id
  unfold State.addMillilitre
  exact Does.ite (fun _ => added.andThen (requestWrite_does _)) (fun _ => added.mono)

/-- Millilitres added to S (R147). -/
theorem addMillilitres_does (n : Nat) (s : State) : Does [.scaleLoad, .writes] [] s (s.addMillilitres n) := by
  induction n generalizing s with
  | zero => exact Does.refl s
  | succ n ih => exact (addMillilitre_does s).trans (ih _)

/-- A remainder below the evaporation threshold (R97). -/
theorem rest_lt (n : Nat) (s : State) : n % s.threshold < 156000 := by
  have bounds : 0 < s.threshold ∧ s.threshold ≤ 156000 := by
    unfold State.threshold Config.evaporationThreshold
    split <;> decide
  exact Nat.lt_of_lt_of_le (Nat.mod_lt _ bounds.1) bounds.2

/-- Steaming energy handed over (R97). -/
theorem evaporate_does (w : Nat) (s : State) :
    Does [.evaporation, .millilitres, .scaleLoad, .writes] [] s (s.evaporate w) := by
  unfold State.evaporate
  refine Does.andThen (as := [.evaporation, .millilitres]) (bs := []) ?_ (addMillilitres_does _ _)
  refine ⟨by intro a h; cases a <;> first | exact absurd (by decide) h | rfl, fun b _ => ?_⟩
  cases b
  case steam => exact fun ⟨h1, h2, h3, h4, h5, _⟩ => ⟨h1, h2, h3, h4, h5, rest_lt _ s, Nat.min_le_left _ _⟩
  all_goals first | exact id | exact fun _ => id

/-- A closed frame is legal, and nothing has conducted in it. -/
theorem close_legal {l : LoadFrame} (h : l.Legal) : l.close.Legal := by
  obtain ⟨c, t, b, r, w, _⟩ := h
  exact ⟨c, ⟨t.1, t.2.1, Nat.zero_le _⟩, ⟨b.1, b.2.1, Nat.zero_le _⟩, ⟨r.1, r.2.1, Nat.zero_le _⟩,
    ⟨w.1, w.2.1, Nat.zero_le _⟩, Nat.le_refl _⟩

/-- The frame in progress closed (R52). -/
theorem closeLoad_does (s : State) : Does [.frame, .withdrawn] [.withdrawals] s (s.mapLoad LoadFrame.close) := by
  refine ⟨by intro a h; cases a <;> first | exact absurd (by decide) h | rfl, ?_⟩
  intro b h
  cases b
  case withdrawals => exact absurd (by decide) h
  case frame => exact close_legal
  all_goals first | exact id | exact fun _ => id

/-- The end of a frame (R52). -/
theorem endFrame_does (s : State) :
    Does [.frame, .withdrawn, .evaporation, .millilitres, .scaleLoad, .writes, .ceiling, .sharing, .queue]
      [.withdrawals] s s.endFrame := by
  unfold State.endFrame
  refine Does.ite (fun _ => ?_) (fun _ => Does.refl s)
  exact (((closeLoad_does s).seq (evaporate_does _ _)).seq (updateCeiling_does _)).mono

/-! ## Allocation -/

/-- A share with its top-up is no more than the demand (R44). -/
theorem topUp_le {rating demand share remainder : Nat} (h : share ≤ demand) :
    share + topUp rating demand share remainder ≤ demand := by
  unfold topUp
  omega

/-- A floor share of a budget below the requested energy is no more than the demand (R44). -/
theorem floorShare_le {budget requested d : Nat} (h : budget < requested) : floorShare budget requested d ≤ d := by
  unfold floorShare
  refine Nat.div_le_of_le_mul ?_
  rw [Nat.mul_comm requested d]
  exact Nat.mul_le_mul_left d (Nat.le_of_lt h)

/-- No load is allocated more than its demand (R42, R43, R44). -/
theorem allocate_le (p d : PerLoad Nat) (budget : Nat) (i : Load) : (allocate p d budget).get i ≤ d.get i := by
  unfold allocate
  split
  · exact Nat.le_refl _
  · rename_i above
    have lt := Nat.lt_of_not_le above
    cases i <;> exact topUp_le (floorShare_le lt)

/-! ## Cycles -/

/-- The frame allocated and its first cycle begun: a legal frame from a legal one that does not run. -/
theorem beginSwitch_legal {d : PerLoad Nat} {s : State} (stopped : s.load.running = false) (h : s.load.Legal) :
    ((s.beginFrame d).switchGates).load.Legal := by
  obtain ⟨_, t, b, r, w, st⟩ := h
  have ct : s.load.conducted.top = 0 := by simpa [stopped, PerLoad.get] using t.2.2
  have cb : s.load.conducted.bottom = 0 := by simpa [stopped, PerLoad.get] using b.2.2
  have cr : s.load.conducted.ring = 0 := by simpa [stopped, PerLoad.get] using r.2.2
  have cw : s.load.conducted.boiler = 0 := by simpa [stopped, PerLoad.get] using w.2.2
  have cs : s.load.steamingCount = 0 := by omega
  have one : ∀ (plan : List Nat) (c : Bool), (c = true → plan.contains 0 = true) →
      countIf c 0 ≤ (plan.filter (fun k => decide (k ≤ 0))).length := by
    intro plan c hc
    unfold countIf
    split
    · rename_i hct
      have m : (0 : Nat) ∈ plan.filter (fun k => decide (k ≤ 0)) := by
        simpa using hc hct
      exact List.length_pos_of_mem m
    · exact Nat.zero_le _
  have gate : ∀ (u : State) (i : Load), u.gateOn i = true → (u.load.plan.get i).contains u.load.cycle = true := by
    intro u i hu
    unfold State.gateOn at hu
    simp_all
  refine ⟨by show (0 : Nat) ≤ 19; decide, ⟨allocate_le _ _ _ _, rfl, ?_⟩, ⟨allocate_le _ _ _ _, rfl, ?_⟩,
    ⟨allocate_le _ _ _ _, rfl, ?_⟩, ⟨allocate_le _ _ _ _, rfl, ?_⟩, ?_⟩
  · show countIf ((s.beginFrame d).gateOn .top) s.load.conducted.top ≤ _
    rw [ct]
    exact one _ _ (gate (s.beginFrame d) .top)
  · show countIf ((s.beginFrame d).gateOn .bottom) s.load.conducted.bottom ≤ _
    rw [cb]
    exact one _ _ (gate (s.beginFrame d) .bottom)
  · show countIf ((s.beginFrame d).gateOn .ring) s.load.conducted.ring ≤ _
    rw [cr]
    exact one _ _ (gate (s.beginFrame d) .ring)
  · show countIf ((s.beginFrame d).gateOn .boiler) s.load.conducted.boiler ≤ _
    rw [cw]
    exact one _ _ (gate (s.beginFrame d) .boiler)
  · show countIf (_ && _) s.load.steamingCount ≤ countIf ((s.beginFrame d).gateOn .boiler) s.load.conducted.boiler
    rw [cs, cw]
    unfold countIf
    cases (s.beginFrame d).gateOn .boiler <;> simp
    split <;> decide

/-- The next cycle of a frame that runs: what conducts is in the plan. -/
theorem nextSwitch_legal {s : State} (run : s.load.running = true) (more : s.load.cycle < 19) (h : s.load.Legal) :
    ((s.mapLoad (fun l => { l with cycle := l.cycle + 1 })).switchGates).load.Legal := by
  obtain ⟨_, t, b, r, w, st⟩ := h
  have grow : ∀ (plan : List Nat) (n c : Nat) (g : Bool), n ≤ (plan.filter (fun k => decide (k ≤ c))).length →
      (g = true → plan.contains (c + 1) = true) →
      countIf g n ≤ (plan.filter (fun k => decide (k ≤ c + 1))).length := by
    intro plan n c g hn hg
    have sub : (plan.filter (fun k => decide (k ≤ c))).length + (if plan.contains (c + 1) then 1 else 0)
        ≤ (plan.filter (fun k => decide (k ≤ c + 1))).length := by
      clear hn hg
      induction plan with
      | nil => simp
      | cons x q ih =>
        by_cases e : x = c + 1
        · subst e
          have := Nat.le_trans (Nat.le_add_right _ _) ih
          simp only [List.filter_cons, List.contains_cons]
          simp
          omega
        · have cc : (List.contains (x :: q) (c + 1)) = q.contains (c + 1) := by
            simp [Ne.symm e]
          rw [cc]
          by_cases lt : x ≤ c
          · simp only [List.filter_cons, lt, decide_true, if_true, List.length_cons, Nat.le_succ_of_le lt]
            omega
          · have gt : ¬ x ≤ c + 1 := by omega
            simp only [List.filter_cons, lt, gt, decide_false]
            simpa using ih
    unfold countIf
    split
    · rename_i hgt
      rw [if_pos (hg hgt)] at sub
      omega
    · omega
  have gate : ∀ (u : State) (i : Load), u.gateOn i = true → (u.load.plan.get i).contains u.load.cycle = true := by
    intro u i hu
    unfold State.gateOn at hu
    simp_all
  let u := s.mapLoad (fun l => { l with cycle := l.cycle + 1 })
  have limit : ∀ i : Load, s.load.LoadLegal i →
      countIf (u.gateOn i) (s.load.conducted.get i)
        ≤ ((s.load.plan.get i).filter (fun k => decide (k ≤ s.load.cycle + 1))).length := by
    intro i li
    refine grow _ _ _ _ ?_ (gate u i)
    have := li.2.2
    rwa [if_pos run] at this
  have fin : ∀ i : Load, s.load.LoadLegal i → u.switchGates.load.LoadLegal i := by
    intro i li
    refine ⟨li.1, li.2.1, ?_⟩
    have ru : u.switchGates.load.running = true := run
    rw [if_pos ru]
    have hl := limit i li
    cases i <;> exact hl
  refine ⟨Nat.succ_le_of_lt more, fin _ t, fin _ b, fin _ r, fin _ w, ?_⟩
  show countIf (_ && _) s.load.steamingCount ≤ countIf (u.gateOn .boiler) s.load.conducted.boiler
  unfold countIf
  cases u.gateOn .boiler <;> simp
  · exact st
  · split <;> omega

/-- The gates of a cycle switched. -/
theorem switchGates_does (s : State) : Does [.frame, .gates] [.frame] s s.switchGates :=
  ⟨by intro a h; cases a <;> first | exact absurd (by decide) h | rfl,
   by intro b h; cases b <;> first | exact absurd (by decide) h | exact id | exact fun _ => id⟩

/-- A frame allocated. -/
theorem beginFrame_does (d : PerLoad Nat) (s : State) : Does [.frame] [.frame] s (s.beginFrame d) :=
  ⟨by intro a h; cases a <;> first | exact absurd (by decide) h | rfl,
   by intro b h; cases b <;> first | exact absurd (by decide) h | exact id | exact fun _ => id⟩

/-- A frame begun with its first cycle, where none runs. -/
theorem beginSwitch_does {d : PerLoad Nat} {s : State} (stopped : s.load.running = false) :
    Does [.frame, .gates] [] s (s.beginFrame d).switchGates := by
  have both := (beginFrame_does d s).andThen (switchGates_does _) (es := [.frame, .gates]) (fs := [.frame])
  refine ⟨both.same, fun b _ => ?_⟩
  by_cases hb : b = .frame
  · subst hb
    exact beginSwitch_legal stopped
  · exact both.kept b (by simpa using hb)

/-- The next cycle begun, in a frame that has one. -/
theorem nextSwitch_does {s : State} (run : s.load.running = true) (more : s.load.cycle < 19) :
    Does [.frame, .gates] [] s (s.mapLoad (fun l => { l with cycle := l.cycle + 1 })).switchGates := by
  have count : Does [.frame] [.frame] s (s.mapLoad (fun l => { l with cycle := l.cycle + 1 })) :=
    ⟨by intro a h; cases a <;> first | exact absurd (by decide) h | rfl,
     by intro b h; cases b <;> first | exact absurd (by decide) h | exact id | exact fun _ => id⟩
  have both := count.andThen (switchGates_does _) (es := [.frame, .gates]) (fs := [.frame])
  refine ⟨both.same, fun b _ => ?_⟩
  by_cases hb : b = .frame
  · subst hb
    exact nextSwitch_legal run more
  · exact both.kept b (by simpa using hb)

end Sys2Proof.Machine
end

