-- ==== Sys2Proof/Laws/Oven.lean ====
section
/-! SUPPORT. What each operation of the climate regulator, the steam generator and the sequencer does (Machine/Climate.lean,
Machine/Water.lean, Machine/Program.lean). -/

namespace Sys2Proof.Machine

-- Each proof is done before the next begins, so that few are held in memory at once.
set_option Elab.async false

/-! ## Timers -/

/-- An absent timer is within any cap. -/
theorem within_none (cap : Nat) : Within cap none := fun _ h => nomatch h

/-- A timer that starts is within any cap. -/
theorem within_zero (cap : Nat) : Within cap (some .zero) := by
  intro c h
  cases h
  exact Nat.zero_le _

/-- A timer at a crossing stays within its cap (R39, R73, R91, R92). -/
theorem within_tick {cap perSecond : Nat} {t : Option CycleTimer} (h : Within cap t) :
    Within cap (t.map (CycleTimer.tick perSecond cap)) := by
  intro c hc
  obtain ⟨d, hd, rfl⟩ := Option.mem_map.mp hc
  have le := h d hd
  unfold CycleTimer.tick
  split
  · exact le
  · split <;> (dsimp only; omega)

/-! ## The climate regulator -/

/-- The update of an integrator is clamped (R60, R64). -/
theorem integrated_range (i step : Int) : 0 ≤ integrated i step ∧ integrated i step ≤ 5120 := by
  unfold integrated clampInt
  omega

/-- An integrator at 0 is in range. -/
theorem zero_range : (0 : Int) ≤ 0 ∧ (0 : Int) ≤ 5120 := by decide

/-- A demand is at most 20 (R59). -/
theorem tempDemand_le (s : State) : s.tempDemand ≤ 20 := by
  have demand : ∀ raw : Int, demandOf raw ≤ 20 := by
    intro raw
    unfold demandOf clampInt
    omega
  unfold State.tempDemand
  repeat' split
  all_goals first | exact Nat.zero_le _ | exact demand _

/-- The regulators leave the climate record legal. -/
theorem regulate_legal {s : State} (h : s.climate.Legal) : s.regulate.climate.Legal := by
  obtain ⟨t, u, _, v⟩ := h
  refine ⟨?_, ?_, tempDemand_le s, v⟩
  · show 0 ≤ s.tempIAfter ∧ s.tempIAfter ≤ 5120
    unfold State.tempIAfter
    split
    · exact integrated_range _ _
    · exact t
  · show 0 ≤ s.humIAfter ∧ s.humIAfter ≤ 5120
    unfold State.humIAfter State.humIEntering
    split
    · exact integrated_range _ _
    · split
      · exact ⟨Int.le_refl _, by decide⟩
      · exact u

/-- The cooling fan at a sample (R77). -/
theorem coolAtSample_does (s : State) : Does [.coolingFan] [] s (s.coolAtSample) :=
  ⟨by intro a h; cases a <;> first | exact absurd (by decide) h | rfl,
   by intro b h; cases b <;> first | exact absurd (by decide) h | exact id | exact fun _ => id⟩

/-- The cooling fan turned on (R77). -/
theorem coolOn_does (s : State) : Does [.coolingFan] [] s (s.coolOn) :=
  ⟨by intro a h; cases a <;> first | exact absurd (by decide) h | rfl,
   by intro b h; cases b <;> first | exact absurd (by decide) h | exact id | exact fun _ => id⟩

/-- The regulators (R55). -/
theorem regulate_does (s : State) : Does [.integrators, .demands] [] s (s.regulate) := by
  refine ⟨by intro a h; cases a <;> first | exact absurd (by decide) h | rfl, fun b _ => ?_⟩
  cases b
  case climate => exact regulate_legal
  all_goals first | exact id | exact fun _ => id

/-- The flap commanded (R70). -/
theorem commandFlap_does (s : State) : Does [.flap] [] s (s.commandFlap) :=
  ⟨by intro a h; cases a <;> first | exact absurd (by decide) h | rfl,
   by intro b h; cases b <;> first | exact absurd (by decide) h | exact id | exact fun _ => id⟩

/-- The flap driven (R71). -/
theorem driveFlap_does (s : State) : Does [.flap] [] s s.driveFlap := by
  unfold State.driveFlap
  refine Does.ite (fun _ => ?_) (fun _ => Does.refl s)
  exact
  ⟨by intro a h; cases a <;> first | exact absurd (by decide) h | rfl,
   by intro b h; cases b <;> first | exact absurd (by decide) h | exact id | exact fun _ => id⟩

/-- The flap at a change of the record (R70). -/
theorem flapAtRecord_does (s : State) : Does [.flap] [] s s.flapAtRecord := by
  unfold State.flapAtRecord
  exact Does.ite (fun _ => commandFlap_does s) (fun _ => (commandFlap_does s).trans (driveFlap_does _))

/-- The record set for a step keeps its integrators or sets them to 0 (R61, R64). -/
theorem forStep_legal (r : StepRecord) {c : Climate} (h : c.Legal) : (c.forStep r).Legal := by
  obtain ⟨t, u, d, _⟩ := h
  refine ⟨?_, ?_, d, within_none _⟩
  · show 0 ≤ (if _ then c.tempI else 0) ∧ (if _ then c.tempI else 0) ≤ 5120
    split
    · exact t
    · decide
  · show 0 ≤ (if _ then c.humI else 0) ∧ (if _ then c.humI else 0) ≤ 5120
    split
    · exact u
    · decide

/-- The record set for a step (R54). -/
theorem forStep_record_does (r : StepRecord) (s : State) : Does [.record, .integrators, .ventTimer] [] s (s.mapClimate (Climate.forStep r)) := by
  refine ⟨by intro a h; cases a <;> first | exact absurd (by decide) h | rfl, fun b _ => ?_⟩
  cases b
  case climate => exact forStep_legal r
  all_goals first | exact id | exact fun _ => id

/-- The record set for NONE (R54). -/
theorem forNone_record_does (s : State) : Does [.record, .ventTimer] [] s (s.mapClimate Climate.forNone) := by
  refine ⟨by intro a h; cases a <;> first | exact absurd (by decide) h | rfl, fun b _ => ?_⟩
  cases b
  case climate => exact fun ⟨t, u, d, _⟩ => ⟨t, u, d, within_none _⟩
  all_goals first | exact id | exact fun _ => id

/-- The integrators at a program start (R61, R64). -/
theorem forStart_record_does (s : State) : Does [.integrators] [] s (s.mapClimate Climate.forStart) := by
  refine ⟨by intro a h; cases a <;> first | exact absurd (by decide) h | rfl, fun b _ => ?_⟩
  cases b
  case climate => exact fun ⟨_, _, d, v⟩ => ⟨zero_range, zero_range, d, v⟩
  all_goals first | exact id | exact fun _ => id

/-- Entry to a step at the climate regulator (R54). -/
theorem recordStep_does (r : StepRecord) (s : State) :
    Does [.record, .integrators, .ventTimer, .flap] [] s (s.recordStep r) :=
  ((forStep_record_does r s).seq (flapAtRecord_does _)).mono

/-- The end of a program at the climate regulator (R54). -/
theorem recordNone_does (s : State) : Does [.record, .ventTimer, .flap] [] s s.recordNone :=
  ((forNone_record_does s).seq (flapAtRecord_does _)).mono

/-- The start of a VENT phase (R72). -/
theorem beginVent_does (s : State) : Does [.record, .ventTimer, .flap, .withdrawn, .queue] [] s s.beginVent := by
  unfold State.beginVent
  refine Does.ite (fun _ => Does.refl s) (fun _ => ?_)
  have opened : Does [.record, .ventTimer] [] s
      (s.mapClimate (fun c => { c with venting := true, ventTimer := some .zero })) := by
    refine ⟨by intro a h; cases a <;> first | exact absurd (by decide) h | rfl, fun b _ => ?_⟩
    cases b
    case climate => exact fun ⟨t, u, d, _⟩ => ⟨t, u, d, within_zero _⟩
    all_goals first | exact id | exact fun _ => id
  exact ((((opened.seq (commandFlap_does _)).seq (driveFlap_does _)).seq (withdraw_does _ _)).seq
    (handNotice_does _ _)).mono

/-! ## The steam generator -/

/-- A boiler sample (R82). -/
theorem boilerSample_does (t : Int) (s : State) : Does [.boilerReadings] [] s (s.mapSteam (Steam.sample t)) :=
  ⟨by intro a h; cases a <;> first | exact absurd (by decide) h | rfl,
   by intro b h; cases b <;> first | exact absurd (by decide) h | exact id | exact fun _ => id⟩

/-- The boiler state set (R49). -/
theorem setBoiler_does (b : BoilerState) (s : State) : Does [.boiler, .withdrawn] [] s (s.setBoiler b) := by
  have set : Does [.boiler] [] s (s.mapSteam (fun w => { w with boiler := b })) :=
    ⟨by intro a h; cases a <;> first | exact absurd (by decide) h | rfl,
     by intro b h; cases b <;> first | exact absurd (by decide) h | exact id | exact fun _ => id⟩
  unfold State.setBoiler
  exact Does.ite (fun _ => (set.seq (withdraw_does _ _)).mono) (fun _ => set.mono)

/-- Soak heating ended (R49, R95). -/
theorem endSoak_does (s : State) : Does [.boiler, .withdrawn] [] s s.endSoak := by
  have set : Does [.boiler] [] s (s.mapSteam (fun w => { w with soakHeating := false })) :=
    ⟨by intro a h; cases a <;> first | exact absurd (by decide) h | rfl,
     by intro b h; cases b <;> first | exact absurd (by decide) h | exact id | exact fun _ => id⟩
  unfold State.endSoak
  exact Does.ite (fun _ => (set.seq (withdraw_does _ _)).mono) (fun _ => Does.refl s)

/-- Soak heating set (R95). -/
theorem startSoak_does (s : State) : Does [.boiler, .withdrawn] [] s s.startSoak := by
  unfold State.startSoak
  refine Does.ite (fun _ => setBoiler_does _ s) (fun _ => ((setBoiler_does .off s).seq (cs := [.boiler]) (ds := []) ?_).mono)
  exact
  ⟨by intro a h; cases a <;> first | exact absurd (by decide) h | rfl,
   by intro b h; cases b <;> first | exact absurd (by decide) h | exact id | exact fun _ => id⟩

/-- A drain started (R91). -/
theorem beginDrain_does (serves : Bool) (s : State) : Does [.boiler, .withdrawn] [] s (s.beginDrain serves) := by
  unfold State.beginDrain
  refine (endSoak_does s).trans (Does.trans
    (t := if s.endSoak.steam.boiler.working then s.endSoak.setBoiler .off else s.endSoak)
    (Does.ite (fun _ => setBoiler_does _ _) (fun _ => Does.refl _)) (Does.mono (as := [.boiler]) (bs := []) ?_))
  refine ⟨by intro a h; cases a <;> first | exact absurd (by decide) h | rfl, fun b _ => ?_⟩
  cases b
  case steam => exact fun ⟨n, st, _, r⟩ => ⟨n, st, within_zero _, r⟩
  all_goals first | exact id | exact fun _ => id

/-- A drain owed and started (R94). -/
theorem oweDrain_does (why : OwedDrain) (s : State) : Does [.boiler, .withdrawn] [] s (s.oweDrain why) := by
  refine Does.mono (Does.seq (as := [.boiler]) (bs := []) ?_ (beginDrain_does false _))
  exact
  ⟨by intro a h; cases a <;> first | exact absurd (by decide) h | rfl,
   by intro b h; cases b <;> first | exact absurd (by decide) h | exact id | exact fun _ => id⟩

/-- The run-on that starts with the valve, with LOW dry alone (R92). -/
theorem within_runOn (wet : Bool) : Within 20 (if wet then none else some .zero) := by
  split
  · exact within_none _
  · exact within_zero _

/-- The drain valve opened (R91, R92). -/
theorem openValve_does (s : State) : Does [.boiler] [] s (s.openValve) := by
  refine ⟨by intro a h; cases a <;> first | exact absurd (by decide) h | rfl, fun b _ => ?_⟩
  cases b
  case steam => exact fun ⟨n, st, _, _, _, e⟩ => ⟨n, st, within_none _, within_zero _, within_runOn s.lowWet, e⟩
  all_goals first | exact id | exact fun _ => id

/-- A valve that may open does so (R91). -/
theorem openDueValve_does (s : State) : Does [.boiler] [] s s.openDueValve :=
  Does.ite (fun _ => openValve_does s) (fun _ => Does.refl s)

/-- A valve that may open leaves the sequencer. -/
@[simp] theorem openDueValve_seq (s : State) : (s.openDueValve).seq = s.seq := by unfold State.openDueValve; split <;> rfl

/-- A valve that may open leaves the store. -/
@[simp] theorem openDueValve_store (s : State) : (s.openDueValve).store = s.store := by
  unfold State.openDueValve; split <;> rfl

/-- A stroke event (R154). -/
theorem strokeEvent_does (s : State) : Does [.scaleFlags, .writes] [] s s.strokeEvent := by
  unfold State.strokeEvent
  refine Does.ite (fun _ => ?_) (fun _ => Does.refl s)
  refine Does.mono (Does.seq (as := [.scaleFlags]) (bs := []) ?_ (requestWrite_does _))
  exact
  ⟨by intro a h; cases a <;> first | exact absurd (by decide) h | rfl,
   by intro b h; cases b <;> first | exact absurd (by decide) h | exact id | exact fun _ => id⟩

/-- The pump stopped. -/
theorem stopPump_does (s : State) : Does [.boiler] [] s (s.mapSteam Steam.stopPump) := by
  refine ⟨by intro a h; cases a <;> first | exact absurd (by decide) h | rfl, fun b _ => ?_⟩
  cases b
  case steam => exact fun ⟨n, _, r⟩ => ⟨n, trivial, r⟩
  all_goals first | exact id | exact fun _ => id

/-- A fill resumed (R90). -/
theorem resumeFill_does (s : State) : Does [.boiler] [] s (s.mapSteam Steam.resumeFill) := by
  refine ⟨by intro a h; cases a <;> first | exact absurd (by decide) h | rfl, fun b _ => ?_⟩
  cases b
  case steam => exact fun ⟨_, _, r⟩ => ⟨Nat.zero_le _, (by decide : 0 < 80), r⟩
  all_goals first | exact id | exact fun _ => id

/-- A fill that waits (R89). -/
theorem waitFill_does (c : TankWait) (s : State) : Does [.boiler] [] s (s.mapSteam (Steam.waitFill c)) := by
  refine ⟨by intro a h; cases a <;> first | exact absurd (by decide) h | rfl, fun b _ => ?_⟩
  cases b
  case steam => exact fun ⟨n, _, r⟩ => ⟨n, trivial, r⟩
  all_goals first | exact id | exact fun _ => id

/-- A stroke cut short (R89, R96). -/
theorem cutStroke_does (s : State) : Does [.boiler] [] s (s.mapSteam Steam.cutStroke) := by
  unfold State.mapSteam Steam.cutStroke
  cases s.steam.stroke <;> simp only
  case running c =>
    split
    · exact waitFill_does .budget s
    · rename_i below
      refine ⟨by intro a h; cases a <;> first | exact absurd (by decide) h | rfl, fun b _ => ?_⟩
      cases b
      case steam => exact fun ⟨n, _, r⟩ => ⟨n, Nat.lt_of_not_le below, r⟩
      all_goals first | exact id | exact fun _ => id
  all_goals exact Does.refl s

/-- A completion handed (R84). -/
theorem handed_does (h : Option Handed) (s : State) : Does [.boiler] [] s (s.mapSteam (fun w => { w with handed := h })) :=
  ⟨by intro a h; cases a <;> first | exact absurd (by decide) h | rfl,
   by intro b h; cases b <;> first | exact absurd (by decide) h | exact id | exact fun _ => id⟩

/-- A fill ended (R88). -/
theorem fillEnds_does (s : State) : Does waterAspects [] s s.fillEnds := by
  unfold State.fillEnds
  have stopped := stopPump_does s
  cases s.steam.request <;> simp only
  case steam => exact (stopped.seq (setBoiler_does _ _)).mono
  case soak => exact (stopped.seq (startSoak_does _)).mono
  case rinse => exact ((stopped.seq (setBoiler_does _ _)).seq (beginDrain_does _ _)).mono
  case drain => exact (stopped.seq (setBoiler_does _ _)).mono
  case none => exact (stopped.seq (setBoiler_does _ _)).mono
  case fill =>
    refine Does.mono (Does.seq (Does.seq (as := waterAspects) (bs := []) ?_ (setBoiler_does .off _)) (handed_does _ _))
    exact Does.ite (fun _ => (stopped.seq (strokeEvent_does _)).mono) (fun _ => stopped.mono)

/-- A stroke stays legal when its count starts anew. -/
theorem stroke_restart {n : Nat} {st : Stroke} (h : st.Legal n) : st.Legal 0 := by
  cases st <;> trivial

/-- The stroke of a fill that starts is legal. -/
theorem strokeUnder_legal (w : Option TankWait) : (strokeUnder w).Legal 0 := by
  unfold strokeUnder
  split
  · trivial
  · exact (by decide : 0 < 80)

/-- A fill started (R88, R89). -/
theorem startFill_does (s : State) : Does waterAspects [] s s.startFill := by
  have fresh : Does [.boiler, .withdrawn] [] s ((s.setBoiler .filling).mapSteam (fun w => { w with strokes := 0 })) := by
    refine ((setBoiler_does .filling s).seq (cs := [.boiler]) (ds := []) ?_).mono
    refine ⟨by intro a h; cases a <;> first | exact absurd (by decide) h | rfl, fun b _ => ?_⟩
    cases b
    case steam => exact fun ⟨_, st, r⟩ => ⟨Nat.zero_le _, stroke_restart st, r⟩
    all_goals first | exact id | exact fun _ => id
  unfold State.startFill
  refine Does.ite (fun _ => Does.refl s) (fun _ => Does.ite (fun _ => (fresh.seq (fillEnds_does _)).mono) (fun _ => ?_))
  refine ((setBoiler_does .filling s).seq (cs := [.boiler]) (ds := []) ?_).mono
  refine ⟨by intro a h; cases a <;> first | exact absurd (by decide) h | rfl, fun b _ => ?_⟩
  cases b
  case steam => exact fun ⟨_, _, r⟩ => ⟨Nat.zero_le _, strokeUnder_legal _, r⟩
  all_goals first | exact id | exact fun _ => id

/-- A fill stopped (R87, R96). -/
theorem stopFill_does (s : State) : Does [.boiler, .withdrawn] [] s s.stopFill := by
  unfold State.stopFill
  exact Does.ite (fun _ => ((stopPump_does s).seq (setBoiler_does _ _)).mono) (fun _ => Does.refl s)

/-- A stroke begun (R88). -/
theorem beginStroke_does {s : State} (room : s.steam.Legal → s.steam.strokes < 80) : Does waterAspects [] s s.beginStroke := by
  refine Does.mono (Does.seq (as := [.boiler]) (bs := []) ?_ (strokeEvent_does _))
  refine ⟨by intro a h; cases a <;> first | exact absurd (by decide) h | rfl, fun b _ => ?_⟩
  cases b
  case steam => exact fun h => ⟨room h, Nat.zero_le _, h.2.2⟩
  all_goals first | exact id | exact fun _ => id

/-- The pump at a crossing (R88, R89). -/
theorem strokeCrossing_does (s : State) : Does waterAspects [] s s.strokeCrossing := by
  unfold State.strokeCrossing
  refine Does.ite (fun _ => ?_) (fun _ => Does.refl s)
  cases hs : s.steam.stroke <;> simp only
  case idle => exact Does.refl s
  case awaiting =>
    refine beginStroke_does (fun h => ?_)
    have st := h.2.1
    rw [hs] at st
    exact st
  case running c =>
    refine Does.ite (fun more => ?_)
      (fun _ => Does.ite (fun _ => (waitFill_does _ s).mono) (fun below => beginStroke_does (fun _ => Nat.lt_of_not_le below)))
    refine Does.mono (as := [.boiler]) (bs := []) ?_
    refine ⟨by intro a h; cases a <;> first | exact absurd (by decide) h | rfl, fun b _ => ?_⟩
    cases b
    case steam => exact fun ⟨n, _, r⟩ => ⟨n, Nat.le_of_lt_succ more, r⟩
    all_goals first | exact id | exact fun _ => id

/-- The request served (R85, R95). -/
theorem serve_does (s : State) : Does waterAspects [] s s.serve := by
  unfold State.serve
  refine Does.ite (fun _ => Does.refl s) (fun _ => ?_)
  cases s.steam.request <;> simp only
  case none => exact Does.refl s
  case steam =>
    exact Does.ite (fun _ => Does.refl s)
      (fun _ => Does.ite (fun _ => (setBoiler_does _ s).mono) (fun _ => startFill_does s))
  case fill => exact startFill_does s
  case soak => exact Does.ite (fun _ => (startSoak_does s).mono) (fun _ => startFill_does s)
  case drain => exact (beginDrain_does _ s).mono
  case rinse => exact startFill_does s

/-- A drain given up (R91). -/
theorem dropDrain_rest (w : Steam) :
    (w.dropDrain.low, w.dropDrain.high, w.dropDrain.tank, w.dropDrain.boilerReading, w.dropDrain.lastBoiler,
      w.dropDrain.evaporation, w.dropDrain.millilitres)
      = (w.low, w.high, w.tank, w.boilerReading, w.lastBoiler, w.evaporation, w.millilitres) := by
  unfold Steam.dropDrain
  split <;> rfl

/-- A drain given up leaves the counters legal. -/
theorem dropDrain_legal {w : Steam} (h : w.Legal) : w.dropDrain.Legal := by
  unfold Steam.dropDrain
  split
  · exact ⟨h.1, h.2.1, within_none _, h.2.2.2⟩
  · exact h

/-- The new request taken down (R84). -/
theorem takeRequest_does (req : BoilerRequest) (active : Bool) (s : State) :
    Does [.boiler] [] s (s.mapSteam (fun w =>
      { w.dropDrain with request := req, used := w.used || (decide (req ≠ .none) && active), rinsePass :=
          if req = .rinse then 0 else w.rinsePass })) := by
  have d := dropDrain_rest s.steam
  simp only [Prod.mk.injEq] at d
  refine ⟨?_, fun b _ => ?_⟩
  case refine_2 =>
    cases b
    case steam => exact dropDrain_legal
    all_goals first | exact id | exact fun _ => id
  intro a h
  cases a
  case probes => simp [Same, State.mapSteam, d]
  case tank => simp [Same, State.mapSteam, d]
  case boilerReadings => simp [Same, State.mapSteam, d]
  case evaporation => simp [Same, State.mapSteam, d]
  case millilitres => simp [Same, State.mapSteam, d]
  all_goals first | exact absurd (by decide) h | rfl

/-- What the boiler leaves (R87, R95). -/
theorem leaveRequest_does (req : BoilerRequest) (s : State) : Does [.boiler, .withdrawn] [] s (s.leaveRequest req) := by
  unfold State.leaveRequest
  refine Does.trans (t := if req = .soak then s else s.endSoak) (Does.ite (fun _ => Does.refl s) (fun _ => endSoak_does s)) ?_
  refine Does.trans (Does.ite (c := req = .none ∨ req = .drain) (fun _ => stopFill_does _) (fun _ => Does.refl _)) ?_
  exact Does.ite (fun _ => setBoiler_does _ _) (fun _ => Does.refl _)

/-- An owed drain cleared by a request (R94). -/
theorem clearOwed_does (req : BoilerRequest) (s : State) : Does [.boiler] [] s (s.mapSteam (Steam.clearOwed req)) := by
  unfold State.mapSteam Steam.clearOwed
  split
  · exact Does.refl s
  · split
    · refine ⟨by intro a h; cases a <;> first | exact absurd (by decide) h | rfl, fun b _ => ?_⟩
      cases b
      case steam => exact fun ⟨n, st, _, r⟩ => ⟨n, st, within_none _, r⟩
      all_goals first | exact id | exact fun _ => id
    · exact Does.refl s

/-- A request handed (R84). -/
theorem handRequest_does (req : BoilerRequest) (s : State) : Does waterAspects [] s (s.handRequest req) := by
  unfold State.handRequest
  refine Does.ite (fun _ => Does.refl s) (fun _ => ?_)
  refine Does.trans ?_ (serve_does _)
  refine Does.mono (Does.seq (((takeRequest_does req s.hasActive s).seq (leaveRequest_does req _)).seq (clearOwed_does req _))
    (cs := [.boiler]) (ds := []) ?_)
  exact
  ⟨by intro a h; cases a <;> first | exact absurd (by decide) h | rfl,
   by intro b h; cases b <;> first | exact absurd (by decide) h | exact id | exact fun _ => id⟩

/-- The used flag cleared (R94). -/
theorem clearUsed_does (s : State) : Does [.boiler] [] s (s.mapSteam (fun w => { w with used := false })) :=
  ⟨by intro a h; cases a <;> first | exact absurd (by decide) h | rfl,
   by intro b h; cases b <;> first | exact absurd (by decide) h | exact id | exact fun _ => id⟩

/-- A drain owed (R94). -/
theorem owe_does (why : OwedDrain) (s : State) : Does [.boiler] [] s (s.mapSteam (fun w => { w with owed := some why })) :=
  ⟨by intro a h; cases a <;> first | exact absurd (by decide) h | rfl,
   by intro b h; cases b <;> first | exact absurd (by decide) h | exact id | exact fun _ => id⟩

/-- The boiler at the end of a program (R87, R94). -/
theorem releaseBoiler_does (s : State) : Does waterAspects [] s s.releaseBoiler := by
  unfold State.releaseBoiler
  have u := (handRequest_does .none s).seq (clearUsed_does _)
  refine Does.ite (fun _ => Does.ite (fun _ => (u.seq (owe_does _ _)).mono) (fun _ => (u.seq (oweDrain_does _ _)).mono))
    (fun _ => u.mono)

/-- Rinse complete (R156). -/
theorem rinseDone_does (s : State) : Does [.scaleFlags, .writes] [] s s.rinseDone := by
  refine Does.mono (Does.seq (as := [.scaleFlags]) (bs := []) ?_ (requestWrite_does _))
  exact
  ⟨by intro a h; cases a <;> first | exact absurd (by decide) h | rfl,
   by intro b h; cases b <;> first | exact absurd (by decide) h | exact id | exact fun _ => id⟩

/-- A drain served (R95). -/
theorem servedDrain_does (s : State) : Does waterAspects [] s s.servedDrain := by
  have pass : Does [.boiler] [] s (s.mapSteam (fun w => { w with rinsePass := w.rinsePass + 1 })) :=
    ⟨by intro a h; cases a <;> first | exact absurd (by decide) h | rfl,
     by intro b h; cases b <;> first | exact absurd (by decide) h | exact id | exact fun _ => id⟩
  unfold State.servedDrain
  cases s.steam.request <;> simp only
  case drain => exact (handed_does _ s).mono
  case rinse =>
    exact Does.ite (fun _ => (pass.seq (startFill_does _)).mono)
      (fun _ => ((pass.seq (handed_does _ _)).seq (rinseDone_does _)).mono)
  all_goals exact Does.refl s

/-- A drain complete (R92). -/
theorem drainEnds_does (s : State) : Does (.evaporation :: waterAspects) [] s s.drainEnds := by
  have ended : Does [.boiler, .evaporation] [] s
      (s.mapSteam (fun w => { w.closeDrain with boiler := .empty, evaporation := 0, owed := none })) := by
    refine ⟨by intro a h; cases a <;> first | exact absurd (by decide) h | rfl, fun b _ => ?_⟩
    cases b
    case steam => exact fun ⟨n, st, cw, _, _, _, ml⟩ => ⟨n, st, cw, within_none _, within_none _, (by decide : 0 < 156000), ml⟩
    all_goals first | exact id | exact fun _ => id
  unfold State.drainEnds
  exact Does.ite (fun _ => (ended.seq (servedDrain_does _)).mono) (fun _ => (ended.seq (serve_does _)).mono)

/-- A drain timed out (R93). -/
theorem drainTimesOut_does (s : State) : Does [.boiler] [] s (s.drainTimesOut) := by
  refine ⟨by intro a h; cases a <;> first | exact absurd (by decide) h | rfl, fun b _ => ?_⟩
  cases b
  case steam => exact fun ⟨n, st, cw, _, _, r⟩ => ⟨n, st, cw, within_none _, within_none _, r⟩
  all_goals first | exact id | exact fun _ => id

/-- An owed time-out drain started (R94). -/
theorem startTimedOutDrain_does (s : State) : Does [.boiler, .withdrawn] [] s s.startTimedOutDrain := by
  unfold State.startTimedOutDrain
  exact Does.ite (fun _ => beginDrain_does _ s) (fun _ => Does.refl s)

/-- The start-up drain started (R94). -/
theorem startStandingDrain_does (s : State) : Does [.boiler, .withdrawn] [] s s.startStandingDrain := by
  unfold State.startStandingDrain
  exact Does.ite (fun _ => beginDrain_does _ s) (fun _ => Does.refl s)

/-- LOW dry (R87). -/
theorem lowGoesDry_does (s : State) : Does (.probes :: waterAspects) [] s s.lowGoesDry := by
  have dry : Does [.probes, .withdrawn] [] s ((s.mapSteam (fun w => { w with low := some .dry })).withdrawBoiler) :=
    (Does.seq (as := [.probes]) (bs := [])
      ⟨by intro a h; cases a <;> first | exact absurd (by decide) h | rfl,
       by intro b h; cases b <;> first | exact absurd (by decide) h | exact id | exact fun _ => id⟩
      (withdraw_does _ _)).mono
  unfold State.lowGoesDry
  cases s.steam.boiler <;> simp only
  case heating => exact (dry.seq (startFill_does _)).mono
  case ready => exact (dry.seq (startFill_does _)).mono
  case steaming => exact (dry.seq (startFill_does _)).mono
  case off =>
    exact Does.ite (fun _ => ((dry.seq (endSoak_does _)).seq (serve_does _)).mono) (fun _ => (dry.seq (endSoak_does _)).mono)
  case draining =>
    refine (dry.seq (cs := [.boiler]) (ds := []) ?_).mono
    refine ⟨by intro a h; cases a <;> first | exact absurd (by decide) h | rfl, fun b _ => ?_⟩
    cases b
    case steam => exact fun ⟨n, st, cw, dt, _, r⟩ => ⟨n, st, cw, dt, within_zero _, r⟩
    all_goals first | exact id | exact fun _ => id
  all_goals exact dry.mono

/-- LOW wet (R87, R92). -/
theorem lowGoesWet_does (s : State) : Does [.probes, .boiler, .withdrawn] [] s s.lowGoesWet := by
  have wet : Does [.probes] [] s (s.mapSteam (fun w => { w with low := some .wet })) :=
    ⟨by intro a h; cases a <;> first | exact absurd (by decide) h | rfl,
     by intro b h; cases b <;> first | exact absurd (by decide) h | exact id | exact fun _ => id⟩
  unfold State.lowGoesWet
  cases s.steam.boiler <;> simp only
  case empty =>
    exact Does.ite (fun _ => ((wet.seq (setBoiler_does _ _)).seq (oweDrain_does _ _)).mono) (fun _ => wet.mono)
  case draining =>
    refine (wet.seq (cs := [.boiler]) (ds := []) ?_).mono
    refine ⟨by intro a h; cases a <;> first | exact absurd (by decide) h | rfl, fun b _ => ?_⟩
    cases b
    case steam => exact fun ⟨n, st, cw, dt, _, r⟩ => ⟨n, st, cw, dt, within_none _, r⟩
    all_goals first | exact id | exact fun _ => id
  all_goals exact wet.mono

/-- HIGH wet (R88). -/
theorem highGoesWet_does (s : State) : Does (.probes :: waterAspects) [] s s.highGoesWet := by
  have wet : Does [.probes] [] s (s.mapSteam (fun w => { w with high := some .wet })) :=
    ⟨by intro a h; cases a <;> first | exact absurd (by decide) h | rfl,
     by intro b h; cases b <;> first | exact absurd (by decide) h | exact id | exact fun _ => id⟩
  unfold State.highGoesWet
  exact Does.ite (fun _ => (wet.seq (fillEnds_does _)).mono) (fun _ => wet.mono)

/-- Another tank state. -/
theorem setTank_does (t : Tank) (s : State) : Does [.tank] [] s (s.mapSteam (fun w => { w with tank := some t })) :=
  ⟨by intro a h; cases a <;> first | exact absurd (by decide) h | rfl,
   by intro b h; cases b <;> first | exact absurd (by decide) h | exact id | exact fun _ => id⟩

/-- The tank removed (R89). -/
theorem tankGone_does (s : State) : Does [.tank, .boiler] [] s (s.mapSteam Steam.tankGone) := by
  unfold State.mapSteam Steam.tankGone
  split
  · exact ((setTank_does .absent s).seq (waitFill_does .absent _)).mono
  · exact (setTank_does .absent s).mono

/-- The tank arrived (R90). -/
theorem tankHere_does (level : TankLevel) (s : State) : Does [.tank, .boiler] [] s (s.mapSteam (Steam.tankHere level)) := by
  have here := setTank_does (.present level) s
  unfold State.mapSteam Steam.tankHere
  split
  · cases level <;> simp only
    · exact (here.seq (waitFill_does .empty _)).mono
    · exact (here.seq (resumeFill_does _)).mono
    · exact (here.seq (resumeFill_does _)).mono
  · exact here.mono

/-- The tank level changed (R89, R90). -/
theorem levelChanges_does (level : TankLevel) (s : State) :
    Does [.tank, .boiler] [] s (s.mapSteam (Steam.levelChanges level)) := by
  have here := setTank_does (.present level) s
  unfold State.mapSteam Steam.levelChanges
  split
  · split
    all_goals
      first
        | exact (here.seq (resumeFill_does _)).mono
        | exact here.mono
        | exact (here.seq (waitFill_does .empty _)).mono
  · exact here.mono

/-- Suspension (R96). -/
theorem suspendBoiler_does (s : State) : Does [.boiler, .withdrawn] [] s s.suspendBoiler :=
  ((endSoak_does s).seq (cutStroke_does _)).mono

/-- The end of a suspension (R96). -/
theorem resumeBoiler_does (s : State) : Does waterAspects [] s s.resumeBoiler := by
  unfold State.resumeBoiler
  exact Does.ite (fun _ => serve_does s) (fun _ => Does.refl s)

/-- Heating barred (R96). -/
theorem barHeating_does (s : State) : Does [.boiler, .withdrawn] [] s s.barHeating := by
  unfold State.barHeating
  exact Does.ite (fun _ => (endSoak_does s).trans (setBoiler_does _ _)) (fun _ => endSoak_does s)

/-- Filling barred (R96). -/
theorem barFilling_does (s : State) : Does [.boiler, .withdrawn] [] s s.barFilling :=
  (barHeating_does s).trans (stopFill_does _)

/-- The STEAM transition of a boundary (R86). -/
theorem boilerBoundary_does (s : State) : Does [.boiler, .withdrawn] [] s s.boilerBoundary := setBoiler_does _ s

end Sys2Proof.Machine
end

