-- ==== Sys2Proof/Laws/Run.lean ====
section
/-! SUPPORT. What each operation of the sequencer does (Machine/Program.lean). -/

namespace Sys2Proof.Machine

-- Each proof is done before the next begins, so that few are held in memory at once.
set_option Elab.async false

/-! ## Small updates -/

/-- No count is within any cap. -/
theorem noCount (cap : Nat) : ∀ n ∈ (none : Option Nat), n ≤ cap := fun _ h => nomatch h

/-- A count of 0 is within any cap. -/
theorem zeroCount (cap : Nat) : ∀ n ∈ some 0, n ≤ cap := by
  intro n h
  cases h
  exact Nat.zero_le _

/-- The interruption timer after an event is the one before, 0 or idle (R134). -/
theorem keepInterruption_legal {s : State} (h : s.seq.Legal) : s.keepInterruption.seq.Legal := by
  obtain ⟨el, pt, it, ck⟩ := h
  refine ⟨el, pt, ?_, ck⟩
  unfold State.keepInterruption State.mapSeq
  dsimp only
  split
  · intro n hn
    cases hn
    cases hi : s.seq.interruption with
    | none => exact Nat.zero_le _
    | some m => exact it m (by simp [hi])
  · exact noCount _

/-- An idle sequencer is legal (R118). -/
theorem idle_legal {q : Sequencer} (h : q.Legal) : q.idle.Legal := ⟨Nat.zero_le _, noCount _, noCount _, h.2.2.2⟩

/-- A prompt waits (R125). -/
theorem waitPrompt_does (code : Option Nat) (s : State) : Does [.program] [] s (s.waitPrompt code) := by
  refine ⟨by intro a h; cases a <;> first | exact absurd (by decide) h | rfl, fun b _ => ?_⟩
  cases b
  case seq => exact fun ⟨el, _, r⟩ => ⟨el, zeroCount _, r⟩
  all_goals first | exact id | exact fun _ => id

/-- No prompt waits any more (R125). -/
theorem dropPrompt_does (s : State) : Does [.program] [] s (s.mapSeq Sequencer.dropPrompt) := by
  refine ⟨by intro a h; cases a <;> first | exact absurd (by decide) h | rfl, fun b _ => ?_⟩
  cases b
  case seq => exact fun ⟨el, _, r⟩ => ⟨el, noCount _, r⟩
  all_goals first | exact id | exact fun _ => id

/-- PROBE leaves the hold causes (R129). -/
theorem clearProbe_does (s : State) : Does [.program] [] s (s.clearProbe) :=
  ⟨by intro a h; cases a <;> first | exact absurd (by decide) h | rfl,
   by intro b h; cases b <;> first | exact absurd (by decide) h | exact id | exact fun _ => id⟩

/-- A completion is taken (R84). -/
theorem clearHanded_does (s : State) : Does [.boiler] [] s (s.mapSteam (fun w => { w with handed := none })) :=
  ⟨by intro a h; cases a <;> first | exact absurd (by decide) h | rfl,
   by intro b h; cases b <;> first | exact absurd (by decide) h | exact id | exact fun _ => id⟩

/-- The interruption timer follows the run state (R134). -/
theorem keepInterruption_does (s : State) : Does [.program] [] s (s.keepInterruption) := by
  refine ⟨by intro a h; cases a <;> first | exact absurd (by decide) h | rfl, fun b _ => ?_⟩
  cases b
  case seq => exact keepInterruption_legal
  all_goals first | exact id | exact fun _ => id

/-- Drain-on-stop cleared (R142). -/
theorem clearDrainOnStop_does (s : State) : Does [.scaleFlags] [] s (s.mapScale (fun a => { a with drainOnStop := false })) :=
  ⟨by intro a h; cases a <;> first | exact absurd (by decide) h | rfl,
   by intro b h; cases b <;> first | exact absurd (by decide) h | exact id | exact fun _ => id⟩

/-- Drain-on-stop set (R156). -/
theorem setDrainOnStop_does (s : State) : Does [.scaleFlags] [] s (s.mapScale (fun a => { a with drainOnStop := true })) :=
  ⟨by intro a h; cases a <;> first | exact absurd (by decide) h | rfl,
   by intro b h; cases b <;> first | exact absurd (by decide) h | exact id | exact fun _ => id⟩

/-- The millilitres cleared (R122). -/
theorem clearMillilitres_does (s : State) : Does [.millilitres] [] s (s.mapSteam (fun w => { w with millilitres := 0 })) := by
  refine ⟨by intro a h; cases a <;> first | exact absurd (by decide) h | rfl, fun b _ => ?_⟩
  cases b
  case steam => exact fun ⟨n, st, cw, dt, ro, ev, _⟩ => ⟨n, st, cw, dt, ro, ev, Nat.zero_le _⟩
  all_goals first | exact id | exact fun _ => id

/-- A chain refusal recorded or cleared (R144). -/
theorem chainRefusal_does (c : Option AnswerCode) (s : State) : Does [.chainRefusal] [] s (s.mapReport (fun u => { u with chainRefusal := c })) :=
  ⟨by intro a h; cases a <;> first | exact absurd (by decide) h | rfl,
   by intro b h; cases b <;> first | exact absurd (by decide) h | exact id | exact fun _ => id⟩

/-- The store is legal wherever the slots and the run are those of a legal one. -/
theorem storeLegal_of_same {s t : State} (h : Same .slots s t) (r : t.seq.run = s.seq.run) (k : s.StoreLegal) :
    t.StoreLegal := by
  have e := Prod.mk.inj h
  have f := Prod.mk.inj e.2
  obtain ⟨l0, l1, run⟩ := k
  refine ⟨e.1 ▸ l0, f.1 ▸ l1, ?_⟩
  have slots : ∀ ix, t.store.slot ix = s.store.slot ix := by
    intro ix
    cases ix
    · exact e.1
    · exact f.1
  unfold RunLegal at run ⊢
  rw [r]
  simpa only [e.1, f.1, slots] using run

/-- The phase set (R124). -/
theorem setPhase_does (p : Phase) (s : State) : Does [.program] [] s (s.setPhase p) := by
  refine ⟨by intro a h; cases a <;> first | exact absurd (by decide) h | rfl, ?_⟩
  intro b _
  cases b
  case store =>
    intro ⟨l0, l1, r⟩
    refine ⟨l0, l1, ?_⟩
    unfold State.setPhase State.mapSeq
    unfold RunLegal at r ⊢
    cases hr : s.seq.run <;> simpa [hr] using r
  all_goals first | exact id | exact fun _ => id

/-- The probe lost in a CORE step (R129). -/
theorem loseProbe_does (r : StepRecord) (s : State) : Does [.program] [] s (s.mapSeq (Sequencer.loseProbe r)) := by
  unfold State.mapSeq Sequencer.loseProbe
  split
  · refine ⟨by intro a h; cases a <;> first | exact absurd (by decide) h | rfl, fun b _ => ?_⟩
    cases b
    case seq => exact fun ⟨_, r⟩ => ⟨Nat.zero_le _, r⟩
    all_goals first | exact id | exact fun _ => id
  · exact
    ⟨by intro a h; cases a <;> first | exact absurd (by decide) h | rfl,
     by intro b h; cases b <;> first | exact absurd (by decide) h | exact id | exact fun _ => id⟩

/-! ## Phases -/

/-- The waiting prompt of a COUNT (R130). -/
theorem countPrompt_does (r : StepRecord) (s : State) : Does [.program] [] s (s.countPrompt r) := by
  unfold State.countPrompt
  exact Does.ite (fun _ => waitPrompt_does _ s) (fun _ => Does.refl s)

/-- The probe test at entry to COUNT (R129). -/
theorem countProbe_does (r : StepRecord) (s : State) : Does [.program] [] s (s.countProbe r) := by
  unfold State.countProbe
  exact Does.ite (fun _ => loseProbe_does _ s) (fun _ => Does.refl s)

/-- Entry to COUNT (R124). -/
theorem toCount_does (r : StepRecord) (s : State) : Does runAspects [] s (s.toCount r) :=
  ((((setPhase_does .count s).seq (handRequest_does _ _)).seq (countPrompt_does r _)).seq (countProbe_does r _)).mono

/-- Entry to PREHEAT (R124). -/
theorem toPreheat_does (r : StepRecord) (s : State) : Does runAspects [] s (s.toPreheat r) := by
  unfold State.toPreheat
  exact Does.ite (fun _ => ((setPhase_does _ s).seq (handRequest_does _ _)).mono) (fun _ => toCount_does r s)

/-- Entry to PREPARE (R124). -/
theorem toPrepare_does (r : StepRecord) (s : State) : Does runAspects [] s (s.toPrepare r) := by
  unfold State.toPrepare
  exact Does.ite (fun _ => ((setPhase_does _ s).seq (handRequest_does _ _)).mono) (fun _ => toPreheat_does r s)

/-- Entry to the first phase (R124). -/
theorem toPromptIn_does (r : StepRecord) (s : State) : Does runAspects [] s (s.toPromptIn r) := by
  unfold State.toPromptIn
  exact Does.ite (fun _ => (((setPhase_does _ s).seq (handRequest_does _ _)).seq (waitPrompt_does _ _)).mono)
    (fun _ => toPrepare_does r s)

/-- Entry to VENT (R131). -/
theorem toVent_does (s : State) : Does runAspects [] s s.toVent :=
  (((setPhase_does .vent s).seq (handRequest_does _ _)).seq (beginVent_does _)).mono

/-- Drain-on-stop at entry to the RINSE step (R156). -/
theorem rinseEntry_does (r : StepRecord) (s : State) : Does [.scaleFlags] [] s (s.rinseEntry r) := by
  unfold State.rinseEntry
  exact Does.ite (fun _ => setDrainOnStop_does s) (fun _ => Does.refl s)

/-! ## The ACTIVE slot of a legal store -/

/-- A program that is active in a slot is that slot's. -/
theorem slot_of_activeProgram {v : Slot} {p : Program} (h : v.activeProgram = some p) : v = .active p := by
  cases v <;> simp_all [Slot.activeProgram]

/-- The active run names the slot and the program. -/
theorem activeRun_slot {s : State} {at_ : Position} {p : Program} (h : s.activeRun = some (at_, p)) :
    s.seq.run = some at_ ∧ s.store.slot at_.slot = .active p := by
  unfold State.activeRun at h
  split at h
  · cases h
  · rename_i a ha
    split at h
    · rename_i q hq
      simp only [Option.some.injEq, Prod.mk.injEq] at h
      obtain ⟨rfl, rfl⟩ := h
      exact ⟨ha, slot_of_activeProgram hq⟩
    · cases h

/-- The slots of a legal store are legal. -/
theorem slot_legal {s : State} (h : s.StoreLegal) (ix : SlotIx) : (s.store.slot ix).Legal := by
  cases ix
  · exact h.1
  · exact h.2.1

/-- In a legal store the slot that is not the ACTIVE one is not ACTIVE. -/
theorem other_inactive {s : State} (h : s.StoreLegal) {ix : SlotIx} {p : Program} (a : s.store.slot ix = .active p) :
    (s.store.slot ix.other).isActive = false := by
  obtain ⟨_, _, r⟩ := h
  unfold RunLegal at r
  have act : (s.store.slot ix).isActive = true := by simp [a, Slot.isActive, Slot.activeProgram]
  cases hr : s.seq.run with
  | none =>
    rw [hr] at r
    cases ix
    · exact absurd act (by simp [Store.slot, r.1])
    · exact absurd act (by simp [Store.slot, r.2])
  | some q =>
    rw [hr] at r
    obtain ⟨_, _, o⟩ := r
    cases hq : q.slot <;> cases ix <;> rw [hq] at o
    · exact o
    · exact absurd act (by simpa [SlotIx.other] using o)
    · exact absurd act (by simpa [SlotIx.other] using o)
    · exact o

/-- In a legal store with no run, no slot is ACTIVE. -/
theorem none_active {s : State} (h : s.StoreLegal) (r : s.seq.run = none) (ix : SlotIx) :
    (s.store.slot ix).isActive = false := by
  obtain ⟨_, _, l⟩ := h
  unfold RunLegal at l
  rw [r] at l
  cases ix
  · exact l.1
  · exact l.2

/-- In a legal store a run is an active run. -/
theorem activeRun_none {s : State} (h : s.StoreLegal) (a : s.activeRun = none) : s.seq.run = none := by
  obtain ⟨_, _, r⟩ := h
  unfold RunLegal at r
  cases hr : s.seq.run with
  | none => rfl
  | some q =>
    rw [hr] at r
    unfold State.activeRun at a
    rw [hr] at a
    simp only at a
    have act := r.2.1
    unfold Slot.isActive at act
    cases hp : (s.store.slot q.slot).activeProgram with
    | none => simp [hp] at act
    | some p => simp [hp] at a

/-! ## Ends -/

/-- A program ended in its slot: the slots, legal with no run (R116, R142). -/
theorem finish_store {s : State} {at_ : Position} {p : Program} (o : ProgramOutcome) (h : s.StoreLegal)
    (a : s.activeRun = some (at_, p)) {t : State} (same : Same .slots (s.mapStore (Store.finish at_.slot p o)) t)
    (idle : t.seq.run = none) : t.StoreLegal := by
  have act := (activeRun_slot a).2
  have oth := other_inactive h act
  have lg : (s.store.slot at_.slot).Legal := slot_legal h _
  rw [act] at lg
  have e := Prod.mk.inj same
  have f := Prod.mk.inj e.2
  have l0 := h.1
  have l1 := h.2.1
  refine ⟨?_, ?_, ?_⟩
  · rw [e.1]
    cases hs : at_.slot <;> simp only [State.mapStore, Store.finish, Store.setSlot]
    · exact lg
    · exact l0
  · rw [f.1]
    cases hs : at_.slot <;> simp only [State.mapStore, Store.finish, Store.setSlot]
    · exact l1
    · exact lg
  · unfold RunLegal
    rw [idle, e.1, f.1]
    cases hs : at_.slot <;> rw [hs] at oth <;>
      simp_all [State.mapStore, Store.finish, Store.setSlot, Slot.isActive, Slot.activeProgram, SlotIx.other, Store.slot]

/-- A program ended (R142). -/
theorem endProgram_does (o : ProgramOutcome) (s : State) : Does runAspects [] s (s.endProgram o) := by
  unfold State.endProgram
  split
  · exact Does.refl s
  · rename_i at_ p ha
    have finish : Does [.slots] [.store] s (s.mapStore (Store.finish at_.slot p o)) := by
      refine ⟨?_, by intro b h; cases b <;> first | exact absurd (by decide) h | exact id | exact fun _ => id⟩
      intro a h
      cases a
      case staging => unfold State.mapStore Store.finish Store.setSlot Same; cases at_.slot <;> rfl
      all_goals first | exact absurd (by decide) h | rfl
    have idle : ∀ t : State, Does [.program] [.store] t (t.mapSeq Sequencer.idle) := by
      intro t
      refine ⟨by intro a h; cases a <;> first | exact absurd (by decide) h | rfl, fun b h => ?_⟩
      cases b
      case seq => exact idle_legal
      all_goals first | exact absurd (by decide) h | exact id | exact fun _ => id
    have rest : ∀ t : State, Does ([.record, .ventTimer, .flap] ++ waterAspects) [] t t.recordNone.releaseBoiler := fun t =>
      (recordNone_does t).seq (releaseBoiler_does _)
    have last : ∀ t : State, Does [.boiler, .scaleFlags, .writes, .withdrawn, .ceiling, .sharing, .queue] [] t
        (((((t.mapSteam (fun w => { w with handed := none })).mapScale (fun a => { a with drainOnStop := false })).requestWrite).withdrawAll).updateCeiling) :=
      fun t => (((((clearHanded_does t).seq (clearDrainOnStop_does _)).seq (requestWrite_does _)).seq
        (withdraw_does _ _)).seq (updateCeiling_does _)).mono
    have first := (finish.seq (rest _)).seq (idle _)
    refine ⟨((first.seq (last _)).mono (cs := runAspects) (ds := [.store])).same, fun b _ => ?_⟩
    by_cases hb : b = .store
    · subst hb
      intro legal
      refine finish_store o legal ha ?_ ?_
      · exact ((((rest _).seq (idle _)).seq (last _)).same .slots (by decide))
      · have p1 := (last (((s.mapStore (Store.finish at_.slot p o)).recordNone).releaseBoiler.mapSeq Sequencer.idle)).same
          .program (by decide)
        exact (Prod.mk.inj p1).1
    · exact (first.seq (last _)).kept b (by simpa using hb)

/-- A program ended ABORTED (R143). -/
theorem endAborted_does (c : AbortCause) (s : State) : Does runAspects [] s (s.endAborted c) := endProgram_does _ s

/-- Nothing runs after the end of a program (R142). -/
theorem endProgram_idle (o : ProgramOutcome) {s : State} (h : s.StoreLegal) : (s.endProgram o).seq.run = none := by
  unfold State.endProgram
  split
  · rename_i ha
    exact activeRun_none h ha
  · rename_i at_ p ha
    have p1 := ((((((clearHanded_does (((s.mapStore (Store.finish at_.slot p o)).recordNone).releaseBoiler.mapSeq
      Sequencer.idle)).seq (clearDrainOnStop_does _)).seq (requestWrite_does _)).seq (withdraw_does (fun _ => true) _)).seq
      (updateCeiling_does _)).same .program (by decide))
    exact (Prod.mk.inj p1).1

/-! ## Steps -/

/-- The working copy of a step (R123). -/
theorem forStep_does (ix : SlotIx) (i : Nat) (r : StepRecord) (s : State) :
    Does [.program] [.store] s (s.mapSeq (Sequencer.forStep ix i r)) := by
  refine ⟨by intro a h; cases a <;> first | exact absurd (by decide) h | rfl, fun b h => ?_⟩
  cases b
  case seq => exact fun ⟨_, _, it, ck⟩ => ⟨Nat.zero_le _, noCount _, it, ck⟩
  all_goals first | exact absurd (by decide) h | exact id | exact fun _ => id

/-- The working copy of a step of the ACTIVE slot leaves a legal store (R118, R123). -/
theorem forStep_store {ix : SlotIx} {p : Program} {i : Nat} (r : StepRecord) {s : State} (h : s.StoreLegal)
    (a : s.store.slot ix = .active p) (lt : i < p.stepCount) : (s.mapSeq (Sequencer.forStep ix i r)).StoreLegal := by
  refine ⟨h.1, h.2.1, ?_⟩
  unfold RunLegal State.mapSeq Sequencer.forStep
  refine ⟨?_, ?_, other_inactive h a⟩
  · intro q hq
    simp only [a, Slot.activeProgram, Option.mem_def, Option.some.injEq] at hq
    exact hq ▸ lt
  · simp [a, Slot.isActive, Slot.activeProgram]

/-- A step admitted (R123). -/
theorem admitStep_does (ix : SlotIx) (p : Program) (i : Nat) (r : StepRecord) (s : State) :
    Does runAspects [.store] s (s.admitStep ix p i r)
      ∧ (s.StoreLegal → s.store.slot ix = .active p → i < p.stepCount → (s.admitStep ix p i r).StoreLegal) := by
  have after : ∀ t : State, Does runAspects [] t
      (match p.kind with
        | .recipe => ((t.recordStep r).updateCeiling).toPromptIn r
        | .service => (((t.recordStep r).updateCeiling).rinseEntry r).toCount r) := by
    intro t
    have u := (recordStep_does r t).seq (updateCeiling_does _)
    cases p.kind
    · exact (u.seq (toPromptIn_does r _)).mono
    · exact ((u.seq (rinseEntry_does r _)).seq (toCount_does r _)).mono
  refine ⟨((forStep_does ix i r.forWork s).seq (after _)).mono, fun h a lt => ?_⟩
  exact (after _).kept .store (by decide) (forStep_store r.forWork h a lt)

/-- A step entered, or refused by a boiler fault (R123, R171). -/
theorem enterStep_does (ix : SlotIx) (p : Program) (i : Nat) (s : State) :
    Does runAspects [.store] s (s.enterStep ix p i)
      ∧ (s.StoreLegal → s.store.slot ix = .active p → i < p.stepCount → (s.enterStep ix p i).StoreLegal) := by
  unfold State.enterStep
  split
  · exact ⟨Does.refl s, fun h _ _ => h⟩
  · split
    · exact ⟨(endAborted_does _ s).mono, fun h _ _ => (endAborted_does _ s).kept .store (by decide) h⟩
    · exact admitStep_does ix p i _ s

/-- The slot ACTIVE and its first step's place taken (R122). -/
theorem placed_store {ix : SlotIx} {p : Program} {s : State} (h : s.StoreLegal) (idle : s.seq.run = none) (legal : p.Legal)
    (full : p.complete = true) :
    ((s.mapStore (Store.setSlot ix (.active p))).mapSeq
      (fun q => { q.idle with run := some ⟨ix, 0, .count⟩ })).StoreLegal := by
  have other := none_active h idle ix.other
  have pos : 0 < p.stepCount := legal.2.1.1
  cases ix
  · refine ⟨⟨legal, full⟩, h.2.1, ?_, rfl, other⟩
    intro q hq
    simp only [State.mapStore, State.mapSeq, Store.slot, Store.setSlot, Slot.activeProgram, Option.mem_def, Option.some.injEq]
      at hq
    exact hq ▸ pos
  · refine ⟨h.1, ⟨legal, full⟩, ?_, rfl, other⟩
    intro q hq
    simp only [State.mapStore, State.mapSeq, Store.slot, Store.setSlot, Slot.activeProgram, Option.mem_def, Option.some.injEq]
      at hq
    exact hq ▸ pos

/-- A program started (R122). -/
theorem startProgram_does (ix : SlotIx) (p : Program) (s : State) :
    Does runAspects [.store] s (s.startProgram ix p)
      ∧ (s.StoreLegal → s.seq.run = none → p.Legal → p.complete = true → (s.startProgram ix p).StoreLegal) := by
  have start : Does [.slots, .program] [.store] s ((s.mapStore (Store.setSlot ix (.active p))).mapSeq
      (fun q => { q.idle with run := some ⟨ix, 0, .count⟩ })) := by
    refine ⟨?_, fun b h => ?_⟩
    case refine_2 =>
      cases b
      case seq => exact idle_legal
      all_goals first | exact absurd (by decide) h | exact id | exact fun _ => id
    intro a h
    cases a
    case staging => unfold State.mapSeq State.mapStore Store.setSlot Same; cases ix <;> rfl
    all_goals first | exact absurd (by decide) h | rfl
  have told : ∀ t : State, Does [.integrators, .millilitres, .chainRefusal, .coolingFan, .sharing, .queue] [] t
      ((((t.mapClimate Climate.forStart).mapSteam (fun w => { w with millilitres := 0 })).mapReport
        (fun u => { u with chainRefusal := none })).coolOn.leaveQuiet) := fun t =>
    (((((forStart_record_does t).seq (clearMillilitres_does _)).seq (chainRefusal_does none _)).seq (coolOn_does _)).seq
      (leaveQuiet_does _)).mono
  unfold State.startProgram
  refine ⟨((start.seq (told _)).seq (enterStep_does ix p 0 _).1).mono, fun h idle legal full => ?_⟩
  refine (enterStep_does ix p 0 _).2 ((told _).kept .store (by decide) (placed_store h idle legal full)) ?_ legal.2.1.1
  have e := Prod.mk.inj ((told ((s.mapStore (Store.setSlot ix (.active p))).mapSeq
    (fun q => { q.idle with run := some ⟨ix, 0, .count⟩ }))).same .slots (by decide))
  have f := Prod.mk.inj e.2
  cases ix
  · exact e.1
  · exact f.1

/-- The chain (R144). -/
theorem chain_does (ended : SlotIx) (s : State) :
    Does runAspects [.store] s (s.chain ended)
      ∧ (s.StoreLegal → s.seq.run = none → (s.chain ended).StoreLegal) := by
  unfold State.chain
  split
  case h_1 p hp =>
    split
    · split
      · refine ⟨(startProgram_does _ p s).1, fun h idle => ?_⟩
        have l := slot_legal h ended.other
        rw [hp] at l
        exact (startProgram_does _ p s).2 h idle l.1 l.2
      · exact ⟨(chainRefusal_does _ s).mono, fun h _ => (chainRefusal_does _ s).kept .store (by decide) h⟩
    · exact ⟨Does.refl s, fun h _ => h⟩
  all_goals exact ⟨Does.refl s, fun h _ => h⟩

/-- A step complete (R131, R142). -/
theorem stepComplete_does (s : State) : Does runAspects [] s s.stepComplete := by
  unfold State.stepComplete
  split
  · exact Does.refl s
  · rename_i at_ p ha
    refine Does.ite (fun _ => endAborted_does _ s) (fun _ => Does.ite (fun lt => ?_) (fun _ => ?_))
    · refine ⟨(enterStep_does _ p _ s).1.same, fun b _ => ?_⟩
      by_cases hb : b = .store
      · subst hb
        exact fun h => (enterStep_does _ p _ s).2 h (activeRun_slot ha).2 lt
      · exact (enterStep_does _ p _ s).1.kept b (by simpa using hb)
    · have ended : Does runAspects [] s (s.endProgram .finished).openDueValve :=
        ((endProgram_does .finished s).seq (openDueValve_does _)).mono
      have both := ended.andThen (chain_does at_.slot _).1 (es := runAspects) (fs := [.store])
      refine ⟨both.same, fun b _ => ?_⟩
      by_cases hb : b = .store
      · subst hb
        exact fun h => (chain_does at_.slot _).2 (ended.kept .store (by decide) h)
          ((openDueValve_seq _).symm ▸ endProgram_idle .finished h)
      · exact both.kept b (by simpa using hb)

/-- VENT or the end of the step (R131). -/
theorem ventOrComplete_does (s : State) : Does runAspects [] s s.ventOrComplete := by
  unfold State.ventOrComplete
  split
  · exact Does.refl s
  · exact Does.ite (fun _ => toVent_does s) (fun _ => stepComplete_does s)

/-- COUNT ends (R131). -/
theorem endCount_does (s : State) : Does runAspects [] s s.endCount := by
  unfold State.endCount
  split
  · exact Does.refl s
  · refine Does.ite (fun _ => ?_) (fun _ => ((clearProbe_does s).seq (ventOrComplete_does _)).mono)
    exact ((((clearProbe_does s).seq (setPhase_does _ _)).seq (handRequest_does _ _)).seq (waitPrompt_does _ _)).mono

/-- A prompt completed (R137). -/
theorem completePrompt_does (s : State) : Does runAspects [] s s.completePrompt := by
  unfold State.completePrompt
  split
  · exact ((dropPrompt_does s).seq (toPrepare_does _ _)).mono
  · exact ((dropPrompt_does s).seq (ventOrComplete_does _)).mono
  · exact (((dropPrompt_does s).seq (clearProbe_does _)).seq (ventOrComplete_does _)).mono
  · exact (dropPrompt_does s).mono

/-- A step skipped (R139). -/
theorem skipStep_does (s : State) : Does runAspects [] s s.skipStep :=
  (((dropPrompt_does s).seq (clearProbe_does _)).seq (ventOrComplete_does _)).mono

/-- A humid step stopped (R138). -/
theorem stopHumid_does (s : State) : Does runAspects [] s s.stopHumid := by
  have flags : Does [.program] [] s (s.mapSeq (fun q =>
      { q.dropPrompt with stopFlag := true, pauseFlag := false, probeHold := false })) := by
    refine ⟨by intro a h; cases a <;> first | exact absurd (by decide) h | rfl, fun b _ => ?_⟩
    cases b
    case seq => exact fun ⟨el, _, r⟩ => ⟨el, noCount _, r⟩
    all_goals first | exact id | exact fun _ => id
  unfold State.stopHumid
  exact Does.ite (fun _ => flags.mono) (fun _ => (flags.seq (toVent_does _)).mono)

/-- A forced drain (R159). -/
theorem forcedDrain_does (c : AbortCause) (s : State) : Does runAspects [] s (s.forcedDrain c) := by
  refine Does.mono (Does.seq (Does.seq (as := [.program]) (bs := []) ?_ (setPhase_does _ _)) (handRequest_does _ _))
  refine ⟨by intro a h; cases a <;> first | exact absurd (by decide) h | rfl, fun b _ => ?_⟩
  cases b
  case seq => exact fun ⟨el, _, _, ck⟩ => ⟨el, noCount _, noCount _, ck⟩
  all_goals first | exact id | exact fun _ => id

/-! ## What follows within the event -/

/-- A completion taken (R153, R159). -/
theorem takeHanded_does (s : State) : Does runAspects [] s s.takeHanded := by
  have t := clearHanded_does s
  unfold State.takeHanded
  refine Does.ite (fun _ => Does.ite (fun _ => Does.ite (fun _ => ?_) (fun _ => t.mono)) (fun _ => ?_)) (fun _ => t.mono)
  · exact (t.seq (endAborted_does _ _)).mono
  · exact (t.seq (stepComplete_does _)).mono

/-- PREPARE ended (R126). -/
theorem endPrepare_does (s : State) : Does runAspects [] s s.endPrepare := by
  unfold State.endPrepare
  split
  · exact toPreheat_does _ s
  · exact Does.refl s

/-- One turn of what is due (R91, R84, R126). -/
theorem settleOnce_does (s : State) : Does runAspects [] s s.settleOnce := by
  unfold State.settleOnce
  exact Does.ite (fun _ => (openValve_does s).mono) (fun _ => Does.ite (fun _ => takeHanded_does s)
    (fun _ => Does.ite (fun _ => endPrepare_does s) (fun _ => Does.refl s)))

/-- Any number of turns. -/
theorem settleTurns_does (n : Nat) (s : State) : Does runAspects [] s (s.settleTurns n) := by
  induction n generalizing s with
  | zero => exact Does.refl s
  | succ n ih =>
    exact Does.ite (fun _ => (((keepInterruption_does s).seq (settleOnce_does _)).seq (ih _)).mono) (fun _ => Does.refl s)

/-- What follows from an event (R40, R126, R134, R153). -/
theorem runSettle_does (s : State) : Does runAspects [] s s.runSettle :=
  (((settleTurns_does settleBound s).seq (updateCeiling_does _)).seq (keepInterruption_does _)).mono

end Sys2Proof.Machine
end

