-- ==== Sys2Proof/Laws/Door.lean ====
section
/-! SUPPORT. What each operation of the door does (Machine/Door.lean), and the examination of its switch by case. -/

namespace Sys2Proof.Machine

-- Each proof is done before the next begins, so that few are held in memory at once.
set_option Elab.async false

/-- A DONE slot at a door-open event (R115). -/
theorem doorClear_does (ix : SlotIx) (s : State) : Does [.slots] [] s (s.mapStore (Store.doorClear ix)) := by
  unfold State.mapStore Store.doorClear
  cases hs : s.store.slot ix with
  | done p o => exact releaseSlot_does ix s (by simp [hs, Slot.isActive, Slot.activeProgram])
  | empty => simpa only [hs] using Does.refl s
  | loading p => simpa only [hs] using Does.refl s
  | ready p => simpa only [hs] using Does.refl s
  | active p => simpa only [hs] using Does.refl s

/-- The door-open event (R68). -/
theorem doorOpens_does (s : State) : Does (doorAspects ++ runAspects) [] s s.doorOpens := by
  have door : Does doorAspects [] s ((s.mapClimate (fun c => { c with door := some .opened, doorPending := false })).mapLoad
      (fun l => { l with doorTimer := some .zero })) :=
    ⟨by intro a h; cases a <;> first | exact absurd (by decide) h | rfl,
     by intro b h; cases b <;> first | exact absurd (by decide) h | exact id | exact fun _ => id⟩
  have notice : ∀ t : State, Does [.queue] [] t t.doorNotice := by
    intro t
    unfold State.doorNotice
    exact Does.ite (fun _ => handNotice_does _ t) (fun _ => Does.refl t)
  have clear : ∀ t : State, Does [.slots] [] t (t.mapStore (fun st => (st.doorClear .s0).doorClear .s1)) :=
    fun t => (doorClear_does .s0 t).trans (doorClear_does .s1 (t.mapStore (Store.doorClear .s0)))
  exact (((((door.seq (withdraw_does (fun _ => true) _)).seq (notice _)).seq (clear _)).seq (leaveQuiet_does _)).seq
    (runSettle_does _)).mono

/-- The door-close event (R69). -/
theorem doorCloses_does (s : State) : Does (doorAspects ++ runAspects) [] s s.doorCloses := by
  have door : Does doorAspects [] s ((s.mapClimate (fun c => { c with door := some .closed, doorPending := false })).mapLoad
      (fun l => { l with doorTimer := none })) :=
    ⟨by intro a h; cases a <;> first | exact absurd (by decide) h | rfl,
     by intro b h; cases b <;> first | exact absurd (by decide) h | exact id | exact fun _ => id⟩
  exact ((((door.seq (commandFlap_does _)).seq (driveFlap_does _)).seq (leaveQuiet_does _)).seq (runSettle_does _)).mono

/-! ## The examination of the switch (R67) -/

/-- What an examination notes. -/
theorem doorExamined_does (opposite : Bool) (s : State) : Does doorAspects [] s (s.doorExamined opposite) :=
  ⟨by intro a h; cases a <;> first | exact absurd (by decide) h | rfl,
   by intro b h; cases b <;> first | exact absurd (by decide) h | exact id | exact fun _ => id⟩

/-- The change of the door state. -/
theorem doorChanges_does (s : State) : Does (doorAspects ++ runAspects) [] s s.doorChanges := by
  unfold State.doorChanges
  split
  · exact doorOpens_does s
  · exact doorCloses_does s

/-- An examination changes the door state and what follows from its event. -/
theorem examineDoor_does (s : State) : Does (doorAspects ++ runAspects) [] s s.examineDoor := by
  unfold State.examineDoor
  split
  · exact Does.refl s
  · exact Does.ite (fun _ => (doorExamined_does _ s).mono)
      (fun _ => Does.ite (fun _ => doorChanges_does s) (fun _ => (doorExamined_does _ s).mono))

/-- Before the door state is established an examination here notes nothing. -/
theorem examineDoor_none {s : State} (h : s.climate.door = none) : s.examineDoor = s := by
  unfold State.examineDoor
  simp only [h]

/-- The level of the debounced state. -/
theorem examineDoor_same {s : State} (h : s.climate.door = some s.inputs.door) : s.examineDoor = s.doorExamined false := by
  unfold State.examineDoor
  simp only [h, if_true]

/-- The opposite level, read for the first time. -/
theorem examineDoor_first {s : State} {d : Door} (h : s.climate.door = some d) (raw : s.inputs.door ≠ d)
    (p : s.climate.doorPending = false) : s.examineDoor = s.doorExamined true := by
  unfold State.examineDoor
  simp only [h, if_neg raw, p, Bool.false_eq_true, if_false]

/-- The opposite level, read for the second time in a row. -/
theorem examineDoor_second {s : State} {d : Door} (h : s.climate.door = some d) (raw : s.inputs.door ≠ d)
    (p : s.climate.doorPending = true) : s.examineDoor = s.doorChanges := by
  unfold State.examineDoor
  simp only [h, if_neg raw, p, if_true]

end Sys2Proof.Machine
end

