-- ==== Sys2Proof/Laws/Faults.lean ====
section
/-! SUPPORT. What each operation of the fault set and of the clocks does (Machine/FaultSet.lean, Machine/Clock.lean). -/

namespace Sys2Proof.Machine

-- Each proof is done before the next begins, so that few are held in memory at once.
set_option Elab.async false

/-! ## Effects of a record -/

/-- A boiler fault under a SERVICE program (R160). -/
theorem serviceBoilerFault_does (s : State) : Does runAspects [] s s.serviceBoilerFault := by
  unfold State.serviceBoilerFault
  exact Does.ite (fun _ => Does.refl s)
    (fun _ => Does.ite (fun _ => forcedDrain_does _ s) (fun _ => endAborted_does _ s))

/-- The program at the moment a record becomes active (R160, R171). -/
theorem programFault_does (k : FaultKind) (s : State) : Does runAspects [] s (s.programFault k) := by
  unfold State.programFault
  split
  · exact Does.refl s
  · split
    · exact Does.refl s
    · exact endAborted_does _ s
    · exact Does.ite (fun _ => endAborted_does _ s) (fun _ => Does.refl s)
    · exact serviceBoilerFault_does s

/-- What the detection of MAINS stops (R35, R52, R67). -/
theorem outputsDown_does (s : State) : Does (outageAspects ++ runAspects) [.withdrawals] s s.outputsDown := by
  have fan : ∀ t : State, Does [.coolingFan, .doorPending] [] t
      (t.mapClimate (fun c => { c with coolingFan := false, doorPending := false })) := fun t =>
    ⟨by intro a h; cases a <;> first | exact absurd (by decide) h | rfl,
     by intro b h; cases b <;> first | exact absurd (by decide) h | exact id | exact fun _ => id⟩
  exact ((((gatesOff_does s).seq (endFrame_does _)).seq (fan _)).seq (cutStroke_does _)).mono

/-- The boiler as a kind other than MAINS bars it (R96). -/
theorem barBoiler_does {k : FaultKind} (h : k ≠ .mains) (s : State) : Does [.boiler, .withdrawn] [] s (s.barBoiler k) := by
  cases k
  case mains => exact absurd rfl h
  case cavityOverheat => exact barHeating_does s
  case boilerSensor => exact barFilling_does s
  case boilerDry => exact barFilling_does s
  all_goals exact Does.refl s

/-- A record other than MAINS has become active (R49, R96, R171). -/
theorem faultBegins_does {k : FaultKind} (h : k ≠ .mains) (s : State) : Does runAspects [] s (s.faultBegins k) :=
  (((((withdraw_does k.cuts s).seq (barBoiler_does h _)).seq (programFault_does k _)).seq (updateCeiling_does _)).seq
    (mainsApply_does _)).mono

/-- MAINS has become active (R35, R168). -/
theorem mainsBegins_does (s : State) : Does (outageAspects ++ runAspects) [.withdrawals] s (s.faultBegins .mains) :=
  (((((withdraw_does _ s).seq (outputsDown_does _)).seq (programFault_does _ _)).seq (updateCeiling_does _)).seq
    (mainsApply_does _)).mono

/-- A frame with one more record is a frame. -/
theorem Does.record {k : FaultKind} {bs ds : List Inv} {as : List Aspect} {s t u : State} (h : Does [.fault k] bs s t)
    (e : Does as ds t u) : Does (.fault k :: as) (bs ++ ds) s u :=
  (h.seq e).mono (fun _ m => m) (fun _ m => m)

/-- The condition of a kind other than MAINS arises (R164). -/
theorem raise_does {k : FaultKind} (h : k ≠ .mains) (s : State) : Does (.fault k :: runAspects) [] s (s.raise k) := by
  have set := setFault_does k (arise_move k) s
  unfold State.raise
  refine Does.ite (fun _ => ?_) (fun _ => set.record (faultBegins_does h _))
  exact set.mono (fun _ m => by rw [List.mem_singleton] at m; exact m ▸ List.mem_cons_self)

/-- The MAINS condition arises (R164, R168). -/
theorem raiseMains_does (s : State) :
    Does (.fault .mains :: (outageAspects ++ runAspects)) [.withdrawals] s (s.raise .mains) := by
  have set := setFault_does .mains (arise_move .mains) s
  unfold State.raise
  exact Does.ite (fun _ => set.mono) (fun _ => (set.record (mainsBegins_does _)))

/-- A record of a kind other than LINK and MAINS has become inactive (R94, R96). -/
theorem faultEnds_does {k : FaultKind} (h : k ≠ .link) (m : k ≠ .mains) (s : State) :
    Does waterAspects [] s (s.faultEnds k) := by
  cases k
  case link => exact absurd rfl h
  case mains => exact absurd rfl m
  case cavityOverheat => exact serve_does s
  case boilerSensor => exact serve_does s
  case boilerDry => exact serve_does s
  case drainTimeout => exact (startTimedOutDrain_does s).mono
  all_goals exact Does.refl s

/-- A record of any kind has become inactive (R19, R71, R94, R96). -/
theorem anyFaultEnds_does (k : FaultKind) (s : State) :
    Does (.flap :: .sharing :: .queue :: waterAspects) [.outside] s (s.faultEnds k) := by
  by_cases h : k = .link
  · subst h
    exact (leaveIsolated_does s).mono
  · by_cases m : k = .mains
    · subst m
      exact (driveFlap_does s).mono
    · exact (faultEnds_does h m s).mono

/-- A record released, of a kind other than LINK and MAINS (R164). -/
theorem release_does {k : FaultKind} (h : k ≠ .link) (m : k ≠ .mains) {f : FaultRecord → FaultRecord}
    (move : RecordMove k f) (s : State) : Does (.fault k :: waterAspects) [] s (s.release k f) := by
  have set := setFault_does k move s
  unfold State.release
  refine Does.ite (fun _ => set.record (faultEnds_does h m _)) (fun _ => ?_)
  exact set.mono (fun _ m => by rw [List.mem_singleton] at m; exact m ▸ List.mem_cons_self)

/-- A record released, of any kind (R164). -/
theorem anyRelease_does (k : FaultKind) {f : FaultRecord → FaultRecord} (move : RecordMove k f) (s : State) :
    Does (.fault k :: .flap :: .sharing :: .queue :: waterAspects) [.outside] s (s.release k f) := by
  have set := setFault_does k move s
  unfold State.release
  refine Does.ite (fun _ => set.record (anyFaultEnds_does k _)) (fun _ => ?_)
  exact set.mono (fun _ m => by rw [List.mem_singleton] at m; exact m ▸ List.mem_cons_self)

/-- The condition of a kind other than LINK and MAINS goes (R164). -/
theorem condGone_does {k : FaultKind} (h : k ≠ .link) (m : k ≠ .mains) (s : State) :
    Does (.fault k :: waterAspects) [] s (s.condGone k) := release_does h m (goes_move k) s

/-- The LINK condition goes (R19, R164). -/
theorem linkGone_does (s : State) : Does [.fault .link, .sharing, .queue] [.outside] s (s.condGone .link) := by
  have set := setFault_does .link (goes_move .link) s
  unfold State.condGone State.release
  exact Does.ite (fun _ => (set.seq (leaveIsolated_does _)).mono) (fun _ => set.mono)

/-- The MAINS condition goes (R71, R164). -/
theorem mainsGone_does (s : State) : Does [.fault .mains, .flap] [] s (s.condGone .mains) := by
  have set := setFault_does .mains (goes_move .mains) s
  unfold State.condGone State.release
  exact Does.ite (fun _ => (set.seq (driveFlap_does _)).mono) (fun _ => set.mono)

/-- The condition of a kind as a sample leaves it (R166, R167). -/
theorem condition_does {k : FaultKind} (h : k ≠ .link) (m : k ≠ .mains) (c : Option Bool) (s : State) :
    Does (.fault k :: runAspects) [] s (s.condition k c) := by
  unfold State.condition
  split
  · exact raise_does m s
  · refine (condGone_does h m s).mono (fun a ha => ?_)
    rcases List.mem_cons.mp ha with rfl | ha
    · exact List.mem_cons_self
    · exact List.mem_cons_of_mem _ ((by decide : ∀ a ∈ waterAspects, a ∈ runAspects) a ha)
  · exact Does.refl s

/-- Any one record is among them. -/
theorem fault_mem (k : FaultKind) : Aspect.fault k ∈ faultAspects := List.mem_map_of_mem (mem_all k)

/-- CLEAR_FAULTS (R173). -/
theorem clearFaults_does (s : State) :
    Does (faultAspects ++ .flap :: .sharing :: .queue :: waterAspects) [.outside] s s.clearFaults := by
  unfold State.clearFaults
  generalize FaultKind.all = ks
  induction ks generalizing s with
  | nil => exact Does.refl s
  | cons k ks ih =>
    refine Does.trans ?_ (ih _)
    refine (anyRelease_does k (cleared_move k) s).mono (fun a ha => ?_)
    rcases List.mem_cons.mp ha with rfl | ha
    · exact List.mem_append_left _ (fault_mem k)
    · exact List.mem_append_right _ ha

/-- A condition that returns with a CLEAR_FAULTS (R173). -/
theorem returnsTo_does {k : FaultKind} (m : k ≠ .mains) (back : Bool) (before s : State) :
    Does (.fault k :: runAspects) [] s (s.returnsTo k back before) := by
  unfold State.returnsTo
  refine Does.ite (fun _ => ?_) (fun _ => Does.refl s)
  refine ((raise_does m s).seq (runSettle_does _)).mono ?_ ?_
  · simp
  · simp

/-- CLEAR_FAULTS with the conditions that return (R173). -/
theorem takeClear_does (back : Returning) (s : State) :
    Does (faultAspects ++ .flap :: runAspects) [.outside] s (s.takeClear back) :=
  ((((clearFaults_does s).seq (runSettle_does _)).seq (returnsTo_does (by decide) _ _ _)).seq
    (returnsTo_does (by decide) _ _ _)).mono

/-- A drain's time-out (R93, R169). -/
theorem drainTimeoutEvent_does (s : State) : Does (.fault .drainTimeout :: runAspects) [] s s.drainTimeoutEvent :=
  (((drainTimesOut_does s).seq (raise_does (by decide) _)).seq (condGone_does (by decide) (by decide) _)).mono

/-! ## Samples -/

/-- The runs are in range after any sample (R165). -/
theorem after_le (valid : Bool) (r : SampleRun) (_ : r.bad ≤ 3 ∧ r.good ≤ 3) :
    (r.after valid).bad ≤ 3 ∧ (r.after valid).good ≤ 3 := by
  unfold SampleRun.after satAdd
  split <;> exact ⟨by simp, by simp⟩

/-- The runs of a sensor after a sample (R165). -/
theorem setRun_does (k : SensorKind) (valid : Bool) (s : State) :
    Does [.runs] [] s (s.mapFaults (fun f => f.setRun k ((s.faults.run k).after valid))) := by
  refine ⟨?_, ?_⟩
  · intro a h
    cases a
    case fault j => cases k <;> cases j <;> rfl
    all_goals first | exact absurd (by decide) h | rfl
  · intro b _
    cases b
    case faults =>
      intro ⟨each, c, h, w⟩
      cases k
      · exact ⟨each, after_le valid _ c, h, w⟩
      · exact ⟨each, c, after_le valid _ h, w⟩
      · exact ⟨each, c, h, after_le valid _ w⟩
    all_goals first | exact id | exact fun _ => id

/-- The sensor faults are not LINK and not MAINS. -/
theorem sensorFault_ne (k : SensorKind) : sensorFault k ≠ .link ∧ sensorFault k ≠ .mains := by
  cases k <;> decide

/-- The runs of a sensor kept, with its fault (R165). -/
theorem sensorSample_does (k : SensorKind) (smp : Sample) (s : State) :
    Does (sensorAspects ++ runAspects) [] s (s.sensorSample k smp) := by
  have run := setRun_does k (sensorValid k smp) s
  unfold State.sensorSample
  refine Does.ite (fun _ => ?_) (fun _ => Does.ite (fun _ => ?_) (fun _ => run.mono))
  · exact run.andThen (raise_does (sensorFault_ne k).2 _) (by cases k <;> decide)
  · exact run.andThen (condGone_does (sensorFault_ne k).1 (sensorFault_ne k).2 _) (by cases k <;> decide)

/-- The fault set at a sample (R165 to R167). -/
theorem sampleFaults_does (before : CoreStatus) (smp : Sample) (s : State) :
    Does (sensorAspects ++ runAspects) [] s (s.sampleFaults before smp) := by
  have sensed := ((sensorSample_does .cavity smp s).trans (sensorSample_does .humidity smp _)).trans
    (sensorSample_does .boiler smp _)
  unfold State.sampleFaults
  exact (((sensed.seq (condition_does (by decide) (by decide) _ _)).seq
    (condition_does (by decide) (by decide) _ _)).seq (condition_does (by decide) (by decide) _ _)).mono

/-- The readings of a sample (R56 to R58). -/
theorem climateSample_does (smp : Sample) (s : State) : Does [.readings] [] s (s.mapClimate (Climate.sample smp)) :=
  ⟨by intro a h; cases a <;> first | exact absurd (by decide) h | rfl,
   by intro b h; cases b <;> first | exact absurd (by decide) h | exact id | exact fun _ => id⟩

/-- A sample (R56, R82). -/
theorem sampleAll_does (smp : Sample) (s : State) :
    Does (sampleAspects ++ sensorAspects ++ runAspects) [] s (s.sampleAll smp) :=
  (((((setInputs_does smp s).seq (climateSample_does smp _)).seq (boilerSample_does _ _)).seq
    (sampleFaults_does _ smp _)).seq (coolAtSample_does _)).mono

/-- PREHEAT's test (R127). -/
theorem preheatTest_does (s : State) : Does runAspects [] s s.preheatTest := by
  unfold State.preheatTest
  split
  · exact Does.ite (fun _ => toCount_does _ s) (fun _ => Does.refl s)
  · exact Does.refl s

/-- The core test (R129). -/
theorem coreTest_does (s : State) : Does runAspects [] s s.coreTest := by
  unfold State.coreTest
  split
  · exact Does.refl s
  · refine Does.ite (fun _ => Does.refl s) (fun _ => Does.ite (fun _ => ?_) (fun _ => Does.ite (fun _ => ?_) (fun _ => ?_)))
    · exact Does.ite (fun _ => (clearProbe_does s).mono) (fun _ => Does.refl s)
    · exact (loseProbe_does _ s).mono
    · exact Does.ite (fun _ => endCount_does s) (fun _ => Does.refl s)

/-- The sequencer's tests at a sample (R127, R129). -/
theorem sampleTests_does (boundary : Bool) (s : State) : Does runAspects [] s (s.sampleTests boundary) := by
  unfold State.sampleTests
  split
  · exact Does.ite (fun _ => preheatTest_does s) (fun _ => Does.refl s)
  · exact coreTest_does s
  · exact Does.refl s

/-- A sample of the internal timer (R56). -/
theorem timerSample_does (smp : Sample) (s : State) :
    Does (sampleAspects ++ sensorAspects ++ runAspects) [] s (s.timerSample smp) :=
  (((sampleAll_does smp s).seq (sampleTests_does false _)).seq (runSettle_does _)).mono

/-! ## Crossings -/

/-- A second has at most 60 crossings (R120). -/
theorem perSecond_le (s : State) : s.perSecond ≤ 60 := by
  unfold State.perSecond Config.cyclesPerSecond
  split <;> decide

/-- The steam generator's timers at a crossing (R91, R92). -/
theorem count_legal (perSecond : Nat) (valve : Bool) {w : Steam} (h : w.Legal) : (w.count perSecond valve).Legal := by
  obtain ⟨n, st, cw, dt, ro, r⟩ := h
  refine ⟨n, st, within_tick cw, ?_, ?_, r⟩
  · unfold Steam.count
    dsimp only
    split
    · exact within_tick dt
    · exact dt
  · unfold Steam.count
    dsimp only
    split
    · exact within_tick ro
    · exact ro

/-- The second clock at a crossing (R120). -/
theorem countClock_legal {perSecond : Nat} (le : perSecond ≤ 60) {q : Sequencer} (h : q.Legal) :
    (q.countCycle perSecond).Legal := by
  obtain ⟨el, pt, it, _⟩ := h
  refine ⟨el, pt, it, ?_⟩
  unfold Sequencer.countCycle
  dsimp only
  split <;> omega

/-- Every timer counted at a crossing (R39, R73, R91, R92, R120). -/
theorem countCycle_does (s : State) : Does [.ventTimer, .doorTimer, .boiler, .clock] [] s s.countCycle := by
  refine ⟨by intro a h; cases a <;> first | exact absurd (by decide) h | rfl, fun b _ => ?_⟩
  cases b
  case climate => exact fun ⟨t, u, d, v⟩ => ⟨t, u, d, within_tick v⟩
  case steam => exact count_legal _ _
  case seq => exact countClock_legal (perSecond_le s)
  all_goals first | exact id | exact fun _ => id

/-- The timers and the pump (R88). -/
theorem countCrossing_does (s : State) :
    Does ([.ventTimer, .doorTimer, .clock] ++ waterAspects) [] s s.countCrossing :=
  ((countCycle_does s).seq (strokeCrossing_does _)).mono

/-- A counter at a second stops at its cap (R125, R134). -/
theorem count_map {cap : Nat} {t : Option Nat} : ∀ n ∈ t.map (satAdd cap 1), n ≤ cap := by
  intro n hn
  obtain ⟨m, _, rfl⟩ := Option.mem_map.mp hn
  exact Nat.min_le_left _ _

/-- The counters at a second (R125, R128, R134). -/
theorem countSecond_does (s : State) : Does [.program] [] s s.countSecond := by
  refine ⟨by intro a h; cases a <;> first | exact absurd (by decide) h | rfl, fun b _ => ?_⟩
  cases b
  case seq =>
    intro ⟨el, _, _, ck⟩
    refine ⟨?_, count_map, count_map, ck⟩
    show (if s.counts then satAdd 65535 s.seq.elapsed 1 else s.seq.elapsed) ≤ 65535
    split
    · exact Nat.min_le_left _ _
    · exact el
  all_goals first | exact id | exact fun _ => id

/-- The soak complete (R155). -/
theorem soakDone_does (s : State) :
    Does [.scaleLoad, .soakCount, .writes, .queue, .freeIndex, .ceiling, .sharing] [] s s.soakDone := by
  have done : Does [.scaleLoad, .soakCount] [] s
      (s.mapScale (fun a => { a with load := 0, soakCount := satAdd 65535 a.soakCount 1 })) := by
    refine ⟨by intro a h; cases a <;> first | exact absurd (by decide) h | rfl, ?_⟩
    intro b _
    cases b
    case scale => exact fun h => ⟨⟨h.1.1, Nat.zero_le _, Nat.min_le_left _ _⟩, h.2⟩
    all_goals first | exact id | exact fun _ => id
  exact (((done.seq (requestWrite_does _)).seq (handReportIf_does _ _ _)).seq (updateCeiling_does _)).mono

/-- COUNT ends at a counted second (R128, R155). -/
theorem countEnds_does (s : State) : Does (secondAspects ++ runAspects) [] s s.countEnds := by
  unfold State.countEnds
  split
  · exact Does.ite (fun _ => ((soakDone_does s).seq (stepComplete_does _)).mono) (fun _ => (endCount_does s).mono)
  · exact Does.refl s

/-- A second (R120). -/
theorem secondEvent_does (s : State) : Does (secondAspects ++ runAspects) [] s s.secondEvent := by
  have counted := countSecond_does s
  unfold State.secondEvent
  refine Does.ite (fun _ => ?_) (fun _ => Does.ite (fun _ => ?_) (fun _ => counted.mono))
  · exact ((counted.seq (countEnds_does _)).seq (runSettle_does _)).mono
  · exact ((counted.seq (endAborted_does _ _)).seq (runSettle_does _)).mono

/-- What the drain's timers have reached (R92, R93). -/
theorem fireDrain_does (s : State) : Does ([.evaporation, .fault .drainTimeout] ++ runAspects) [] s s.fireDrain := by
  unfold State.fireDrain
  refine Does.ite (fun _ => ?_) (fun _ => Does.refl s)
  split
  · exact Does.ite (fun _ => (drainEnds_does s).mono) (fun _ => Does.refl s)
  · exact Does.ite (fun _ => (drainTimeoutEvent_does s).mono) (fun _ => Does.refl s)

/-- What the vent timer has reached (R73). -/
theorem fireVent_does (s : State) : Does runAspects [] s s.fireVent := by
  unfold State.fireVent
  split
  · exact Does.ite (fun _ => stepComplete_does s) (fun _ => Does.refl s)
  · exact Does.refl s

/-- What the timers of a crossing have reached. -/
theorem fire_does (second : Bool) (s : State) : Does (fireAspects ++ runAspects) [] s (s.fire second) := by
  have t := (((fireDrain_does s).seq (runSettle_does _)).seq (fireVent_does _)).seq (runSettle_does _)
  have last : ∀ u : State, Does (secondAspects ++ runAspects) [] u (if second then u.secondEvent else u) := fun u =>
    Does.ite (fun _ => secondEvent_does u) (fun _ => Does.refl u)
  exact ((t.seq (last _)).seq (examineDoor_does _)).mono

/-- A crossing within a frame (R48). -/
theorem cycleCrossing_does {s : State} (run : s.load.running = true) (more : s.load.cycle < 19) :
    Does cycleAspects [] s s.cycleCrossing :=
  ((((advanceLfsr_does s).seq (nextSwitch_does (s := s.advanceLfsr) run more)).seq (countCrossing_does _)).seq
    (fire_does _ _)).mono

/-- No frame is in progress once the frame has ended (R52). -/
theorem endFrame_stopped (s : State) : s.endFrame.load.running = false := by
  unfold State.endFrame
  split
  · have e := ((evaporate_does (Load.watts s.startup.variant .boiler * s.load.steamingCount)
      (s.mapLoad LoadFrame.close)).seq (updateCeiling_does _)).same .frame (by decide)
    exact (Prod.mk.inj e).1
  · simp_all

/-- A condition that has arisen leaves its record active (R164). -/
theorem arise_active (r : FaultRecord) : r.arise.active = true := by
  unfold FaultRecord.arise
  split
  · assumption
  · rfl

/-- MAINS is active once raised (R168). -/
theorem raiseMains_active (s : State) : (s.raise .mains).mainsOut = true := by
  have set : (s.setFault .mains FaultRecord.arise).faultActive .mains = true := by
    simp [State.faultActive, State.setFault, State.mapFaults, arise_active]
  unfold State.raise State.mainsOut
  split
  · exact set
  · have same := (mainsBegins_does (s.setFault .mains FaultRecord.arise)).same (.fault .mains) (by decide)
    unfold State.faultActive at set ⊢
    rw [show ((s.setFault .mains FaultRecord.arise).faultBegins .mains).faults.get .mains = _ from same]
    exact set

/-- The frame ends and its length is tested (R52, R168). -/
theorem closeFrame_does (ms : Nat) (s : State) : Does closeAspects [.withdrawals] s (s.closeFrame ms) := by
  unfold State.closeFrame
  exact Does.ite (fun _ => ((endFrame_does s).seq (raiseMains_does _)).mono) (fun _ => (endFrame_does s).mono)

/-- No frame is in progress where a boundary goes on (R41). -/
theorem closeFrame_stopped {ms : Nat} {s : State} (h : (s.closeFrame ms).mainsOut = false) :
    (s.closeFrame ms).load.running = false := by
  unfold State.closeFrame at h ⊢
  split at h
  · simp [raiseMains_active] at h
  · rename_i c
    rw [if_neg c]
    exact endFrame_stopped s

/-- The work of a boundary after the ended frame (R41). -/
theorem boundaryWork_does (smp : Sample) {s : State} (stopped : s.load.running = false) :
    Does workAspects [.hold] s (s.boundaryWork smp) := by
  have a := ((sampleAll_does smp s).seq (sampleTests_does true _)).seq (runSettle_does _)
  have b := (((a.seq (shareBoundary_does _)).seq (regulate_does _)).seq (boilerBoundary_does _)).seq (runSettle_does _)
  have still := b.same .frame (by decide)
  exact (b.seq (beginSwitch_does ((Prod.mk.inj still).1.trans stopped))).mono

/-- A crossing that is a frame boundary (R41). -/
theorem boundaryCrossing_does (smp : Sample) (ms : Nat) (s : State) :
    Does boundaryAspects [.hold, .withdrawals] s (s.boundaryCrossing smp ms) := by
  have t := (advanceLfsr_does s).seq (closeFrame_does ms s.advanceLfsr)
  unfold State.boundaryCrossing
  refine Does.ite (fun _ => (t.seq (runSettle_does _)).mono) (fun m => ?_)
  have stopped := closeFrame_stopped (by simpa using m)
  have c := countCrossing_does (s.advanceLfsr.closeFrame ms)
  have still := c.same .frame (by decide)
  exact (((t.seq c).seq (boundaryWork_does smp ((Prod.mk.inj still).1.trans stopped))).seq (fire_does _ _)).mono

/-- A crossing counted in the mains window (R198). -/
theorem countWindow_does (s : State) :
    Does [.startup] [] s (s.mapStartup (fun u => { u with crossings := u.crossings + 1 })) :=
  ⟨by intro a h; cases a <;> first | exact absurd (by decide) h | rfl,
   by intro b h; cases b <;> first | exact absurd (by decide) h | exact id | exact fun _ => id⟩

/-- Any crossing (R34). -/
theorem crossing_does (s : State) : Does (.startup :: boundaryAspects) [.hold, .withdrawals] s s.crossing := by
  unfold State.crossing
  split
  · exact Does.refl s
  · exact (countWindow_does s).mono
  · refine Does.ite (fun _ => (boundaryCrossing_does _ _ s).mono) (fun b => Does.ite (fun c => ?_) (fun _ => ?_))
    · have run : s.load.running = true := by
        by_contra h
        simp_all [State.boundaryDue]
      have more : s.load.cycle < 19 := by
        by_contra h
        simp_all [State.boundaryDue]
      exact (cycleCrossing_does run more).mono
    · exact (advanceLfsr_does s).mono

/-- A sample wherever it falls (log 2). -/
theorem nextSample_does (smp : Sample) (s : State) : Does boundaryAspects [.hold, .withdrawals] s (s.nextSample smp) := by
  unfold State.nextSample
  exact Does.ite (fun _ => (timerSample_does smp s).mono)
    (fun _ => Does.ite (fun _ => boundaryCrossing_does smp _ s) (fun _ => Does.refl s))

/-- A crossing under a condition (log 2). -/
theorem crossingWhen_does (due : Bool) (s : State) :
    Does (.startup :: boundaryAspects) [.hold, .withdrawals] s (s.crossingWhen due) := by
  unfold State.crossingWhen
  exact Does.ite (fun _ => crossing_does s) (fun _ => Does.refl s)

/-- The end of the MAINS condition (R168, R198). -/
theorem mainsReturns_does (ms : Nat) (s : State) : Does [.startup, .fault .mains, .flap] [] s (s.mainsReturns ms) := by
  have fix : Does [.startup] [] s (s.mapStartup (Startup.fixFreq (freqOfSpan ms))) :=
    ⟨by intro a h; cases a <;> first | exact absurd (by decide) h | rfl,
     by intro b h; cases b <;> first | exact absurd (by decide) h | exact id | exact fun _ => id⟩
  exact (fix.seq (mainsGone_does _)).mono

end Sys2Proof.Machine
end

