-- ==== Sys2Proof/Laws/Requests.lean ====
section
/-! SUPPORT. What each request and each received frame does (Machine/Requests.lean). -/

namespace Sys2Proof.Machine

-- Each proof is done before the next begins, so that few are held in memory at once.
set_option Elab.async false

/-- A move that keeps the store's legality keeps it. -/
theorem Does.store {as : List Aspect} {bs : List Inv} {s t : State} (h : Does as bs s t) (n : Inv.store ∉ bs)
    (k : s.StoreLegal) : t.StoreLegal := h.kept .store n k

/-! ## Program store -/

/-- The lowest EMPTY slot is EMPTY (R100). -/
theorem lowestEmpty_slot {t : Store} {ix : SlotIx} (h : t.lowestEmpty = some ix) : t.slot ix = .empty := by
  have empty : ∀ v : Slot, v.isEmpty = true → v = .empty := by
    intro v hv
    cases v <;> simp_all [Slot.isEmpty]
  unfold Store.lowestEmpty at h
  split at h
  · cases h
    exact empty _ ‹_›
  · split at h
    · cases h
      exact empty _ ‹_›
    · cases h

/-- A slot that is not ACTIVE takes a legal value that is not ACTIVE. -/
theorem fillSlot_does {ix : SlotIx} {v : Slot} {s : State} (old : (s.store.slot ix).isActive = false) (new : v.Legal)
    (idle : v.isActive = false) : Does [.slots] [] s (s.mapStore (Store.setSlot ix v)) := by
  refine ⟨?_, fun b _ => ?_⟩
  · intro a h
    cases a
    case staging => unfold State.mapStore Store.setSlot Same; cases ix <;> rfl
    all_goals first | exact absurd (by decide) h | rfl
  · cases b
    case store => exact setSlot_legal old new idle rfl rfl
    all_goals first | exact id | exact fun _ => id

/-- The staging table changed (R110). -/
theorem staging_does (f : List Staged → List Staged) (s : State) :
    Does [.staging] [] s (s.mapStore (fun t => { t with staging := f t.staging })) := by
  refine ⟨by intro a h; cases a <;> first | exact absurd (by decide) h | rfl, fun b _ => ?_⟩
  cases b
  case store => exact storeLegal_of_same rfl rfl
  all_goals first | exact id | exact fun _ => id

/-- A header's program is legal (R100). -/
theorem ofHeader_legal (src : Nat) {count : Nat} (chain : Bool) (tag : Nat) (range : ¬(count < 1 ∨ 12 < count)) :
    (Program.ofHeader src count chain tag).Legal := by
  refine ⟨by simp [Program.ofHeader], by simp only [Program.ofHeader]; omega, ?_⟩
  intro r hr
  simp [Program.records, Program.ofHeader] at hr

/-- LOAD_HEADER (R100). -/
theorem loadHeader_does (src : Nat) (body : List Byte) (s : State) : Does [.slots] [] s (s.loadHeader src body).state := by
  unfold State.loadHeader
  simp only
  split
  · exact Does.refl s
  · split
    · exact Does.refl s
    · split
      · exact Does.refl s
      · rename_i range _ ix hix
        exact fillSlot_does (by simp [lowestEmpty_slot hix, Slot.isActive, Slot.activeProgram])
          (ofHeader_legal src _ _ range) rfl

/-- STEP_PART_A (R111). -/
theorem stepPartA_does (src : Nat) (body : List Byte) (s : State) : Does [.staging] [] s (s.stepPartA src body).state :=
  staging_does _ s

/-- A clamped value lies in its range. -/
theorem clampNat_range {lo hi : Nat} (h : lo ≤ hi) (x : Nat) : lo ≤ clampNat lo hi x ∧ clampNat lo hi x ≤ hi := by
  unfold clampNat
  omega

/-- A value brought within a range lies in it (R105). -/
theorem within_inRange {range : Option (Nat × Nat)} (h : ∀ r ∈ range, r.1 ≤ r.2) (v : Nat) : InRange range (within range v) := by
  intro n hn
  cases range with
  | none => simp [within] at hn
  | some r =>
    simp only [within, Option.map_some, Option.mem_def, Option.some.injEq] at hn
    subst hn
    exact ⟨r, rfl, clampNat_range (h r rfl) v⟩

/-- The ranges of a mode are ranges (R53). -/
theorem ranges_ordered (m : Mode) : (∀ r ∈ m.setpointRange, r.1 ≤ r.2) ∧ (∀ r ∈ m.humidityRange, r.1 ≤ r.2) := by
  cases m <;> simp [Mode.setpointRange, Mode.humidityRange]

/-- A kept step is legal (R105, R106). -/
theorem keptStep_legal (m : Mode) (e : EndKind) (a : HalfA) (b : HalfB) : (keptStep m e a b).Legal := by
  refine ⟨within_inRange (ranges_ordered m).1 _, ?_, ?_⟩
  · unfold keptStep absentAt
    simp only
    split
    · intro n hn
      simp at hn
    · exact within_inRange (ranges_ordered m).2 _
  · unfold keptStep
    simp only
    split
    · intro n hn
      simp only [Option.mem_def, Option.map_eq_some_iff] at hn
      obtain ⟨v, _, rfl⟩ := hn
      exact ⟨(30, 99), rfl, clampNat_range (by decide) v⟩
    · intro n hn
      simp at hn

/-- A program with a legal record stored in it is legal (R108). -/
theorem stored_legal {p : Program} (h : p.Legal) (i : Nat) {r : StepRecord} (legal : r.Legal) :
    ({ p with steps := p.steps.set i (some r) } : Program).Legal := by
  refine ⟨by simpa using h.1, h.2.1, ?_⟩
  intro q hq
  simp only [Program.records, List.mem_filterMap, id_eq] at hq
  obtain ⟨o, ho, rfl⟩ := hq
  rcases List.mem_or_eq_of_mem_set ho with old | new
  · exact h.2.2 q (by simpa [Program.records] using old)
  · cases new
    exact legal

/-- A step stored in a LOADING slot (R108). -/
theorem storeStep_does {ix : SlotIx} {p : Program} (i : Nat) {r : StepRecord} {s : State}
    (loading : s.store.slot ix = .loading p) (legal : r.Legal) :
    Does [.slots, .staging] [] s (s.mapStore (Store.storeStep ix p i r)) := by
  have old : (s.store.slot ix).isActive = false := by simp [loading, Slot.isActive, Slot.activeProgram]
  refine ⟨?_, fun b _ => ?_⟩
  · intro a h
    cases a
    case slots => exact absurd (by decide) h
    case staging => exact absurd (by decide) h
    all_goals rfl
  · cases b
    case store =>
      intro h
      have lp : p.Legal := by simpa [loading] using slot_legal h ix
      unfold State.mapStore Store.storeStep
      simp only
      split
      · rename_i full
        exact setSlot_legal old (v := .ready _) ⟨stored_legal lp i legal, full⟩ rfl rfl rfl h
      · exact setSlot_legal old (v := .loading _) (stored_legal lp i legal) rfl rfl rfl h
    all_goals first | exact id | exact fun _ => id

/-- A joined step (R109). -/
theorem joinedStep_does (src : Nat) (e : Staged) (b : HalfB) (s : State) :
    Does [.slots, .staging] [] s (s.joinedStep src e b).1 := by
  unfold State.joinedStep
  split
  · exact Does.refl s
  · split
    · rename_i p hp
      split
      · exact Does.refl s
      · split
        · exact Does.refl s
        · split
          · exact Does.refl s
          · exact storeStep_does _ hp (keptStep_legal _ _ _ _)
    all_goals exact Does.refl s

/-- STEP_PART_B (R112). -/
theorem stepPartB_does (src : Nat) (body : List Byte) (s : State) :
    Does [.slots, .staging] [] s (s.stepPartB src body).state := by
  unfold State.stepPartB
  split
  · exact Does.refl s
  · split
    · exact ((staging_does (fun l => l.filter (fun x => decide (x.src ≠ src))) s).seq (joinedStep_does src _ _ _)).mono
    · exact Does.refl s

/-- CLEAR (R114). -/
theorem clearSlot_does (n : Nat) (s : State) : Does [.slots] [] s (s.clearSlot n).1 := by
  unfold State.clearSlot
  split
  · exact Does.refl s
  · split
    case h_5 p o hp => exact releaseSlot_does _ s (by simp [hp, Slot.isActive, Slot.activeProgram])
    all_goals exact Does.refl s

/-- DISCARD (R113). -/
theorem discardSlot_does (src n : Nat) (s : State) : Does [.slots, .staging] [] s (s.discardSlot src n).1 := by
  unfold State.discardSlot
  simp only
  split
  · exact Does.refl s
  · split
    case h_4 p hp =>
      split
      · exact emptySlot_does _ s (by simp [hp, Slot.isActive, Slot.activeProgram])
      · exact Does.refl s
    case h_5 p hp =>
      split
      · exact emptySlot_does _ s (by simp [hp, Slot.isActive, Slot.activeProgram])
      · exact Does.refl s
    all_goals exact Does.refl s

/-! ## Sequencer -/

/-- START (R121). -/
theorem startSlot_does (n : Nat) (s : State) : Does runAspects [] s (s.startSlot n).1 := by
  unfold State.startSlot
  split
  · exact Does.refl s
  · rename_i ix _
    split
    case h_1 p hp =>
      split
      · exact Does.refl s
      · rename_i idle
        split
        · exact Does.refl s
        · have both := ((startProgram_does ix p s).1.seq (runSettle_does _)).mono (cs := runAspects) (ds := [.store])
          refine ⟨both.same, fun b _ => ?_⟩
          by_cases hb : b = .store
          · subst hb
            intro h
            have l := slot_legal h ix
            rw [hp] at l
            have none : s.seq.run = none := activeRun_none h (by simpa [State.hasActive] using idle)
            have started := (startProgram_does ix p s).2 h none l.1 l.2
            have settled := (runSettle_does (s.startProgram ix p)).store (by decide) started
            dsimp only
            exact settled
          · exact both.kept b (by simpa using hb)
    all_goals exact Does.refl s

/-- PAUSED entered (R135). -/
theorem enterPause_does (s : State) : Does runAspects [] s s.enterPause := by
  have flag : Does [.program] [] s (s.mapSeq (fun q => { q with pauseFlag := true })) :=
    ⟨by intro a h; cases a <;> first | exact absurd (by decide) h | rfl,
     by intro b h; cases b <;> first | exact absurd (by decide) h | exact id | exact fun _ => id⟩
  exact (((flag.seq (withdraw_does (fun _ => true) _)).seq (suspendBoiler_does _)).seq (runSettle_does _)).mono

/-- PAUSE (R135). -/
theorem pause_does (s : State) : Does runAspects [] s s.pause.1 := by
  unfold State.pause
  split
  case h_4 => exact enterPause_does s
  case h_5 => exact enterPause_does s
  all_goals exact Does.refl s

/-- PAUSED left (R136). -/
theorem leavePause_does (s : State) : Does runAspects [] s s.leavePause := by
  have flag : Does [.program] [] s (s.mapSeq (fun q => { q with pauseFlag := false })) :=
    ⟨by intro a h; cases a <;> first | exact absurd (by decide) h | rfl,
     by intro b h; cases b <;> first | exact absurd (by decide) h | exact id | exact fun _ => id⟩
  exact ((flag.seq (resumeBoiler_does _)).seq (runSettle_does _)).mono

/-- CONTINUE (R136). -/
theorem continue_does (s : State) : Does runAspects [] s s.continue_.1 := by
  unfold State.continue_
  split
  case h_2 => exact leavePause_does s
  all_goals exact Does.refl s

/-- STOP (R138, R158). -/
theorem stop_does (s : State) : Does runAspects [] s s.stop.1 := by
  unfold State.stop
  split
  · exact Does.refl s
  · split
    · unfold State.stopService
      simp only
      exact Does.ite (fun _ => Does.refl s) (fun _ => Does.ite
        (fun _ => (forcedDrain_does _ s).trans (runSettle_does _)) (fun _ => (endAborted_does _ s).trans (runSettle_does _)))
    · unfold State.stopRecipe
      simp only
      exact Does.ite (fun _ => Does.refl s) (fun _ => Does.ite
        (fun _ => (stopHumid_does s).trans (runSettle_does _)) (fun _ => (endAborted_does _ s).trans (runSettle_does _)))

/-- SKIP (R139). -/
theorem skip_does (src : Nat) (s : State) : Does runAspects [] s (s.skip src).1 := by
  unfold State.skip
  split
  · exact Does.refl s
  · split
    · exact Does.refl s
    · split
      · exact Does.refl s
      · split
        · exact Does.refl s
        · exact (skipStep_does s).trans (runSettle_does _)

/-- CONFIRM (R137). -/
theorem confirm_does (code : Nat) (s : State) : Does runAspects [] s (s.confirm code).1 := by
  unfold State.confirm
  split
  · exact (completePrompt_does s).trans (runSettle_does _)
  · exact Does.refl s

/-- An adjusted record is legal (R141). -/
theorem adjusted_legal (a : Adjustment) (q : Sequencer) {r : StepRecord} (h : r.Legal) : (adjusted a q r).Legal := by
  refine ⟨?_, ?_, ?_⟩
  · unfold adjusted
    simp only
    split
    · exact within_inRange (ranges_ordered _).1 _
    · exact h.1
  · unfold adjusted
    simp only
    split
    · exact within_inRange (ranges_ordered _).2 _
    · exact h.2.1
  · unfold adjusted
    simp only
    split
    · rename_i v _
      intro n hn
      simp only [Option.mem_def, Option.some.injEq] at hn
      exact ⟨(30, 99), rfl, hn ▸ clampNat_range (by decide) v⟩
    · exact h.2.2

/-- A record of a legal program is legal. -/
theorem step_legal {p : Program} (h : p.Legal) {i : Nat} {r : StepRecord} (e : p.step i = some r) : r.Legal := by
  refine h.2.2 r ?_
  unfold Program.step at e
  split at e
  · rename_i o ho
    subst e
    simp only [Program.records, List.mem_filterMap, id_eq]
    exact ⟨some r, List.mem_of_getElem? ho, rfl⟩
  · cases e

/-- A record replaced in the ACTIVE slot (R141). -/
theorem replaceStep_does {at_ : Position} {p : Program} {r : StepRecord} {s : State} (a : s.activeRun = some (at_, p))
    (legal : s.StoreLegal → r.Legal) :
    Does [.slots] [] s (s.mapStore (Store.setSlot at_.slot (.active { p with steps := p.steps.set at_.step (some r) }))) := by
  obtain ⟨run, act⟩ := activeRun_slot a
  refine ⟨?_, fun b _ => ?_⟩
  · intro a h
    cases a
    case staging => unfold State.mapStore Store.setSlot Same; cases at_.slot <;> rfl
    all_goals first | exact absurd (by decide) h | rfl
  · cases b
    case store =>
      intro h
      have lp := slot_legal h at_.slot
      rw [act] at lp
      have oth := other_inactive h act
      have lr := h.2.2
      unfold RunLegal at lr
      rw [run] at lr
      have new : Slot.Legal (.active { p with steps := p.steps.set at_.step (some r) }) := by
        refine ⟨stored_legal lp.1 _ (legal h), ?_⟩
        have full := lp.2
        unfold Program.complete at full ⊢
        rw [List.all_eq_true] at full ⊢
        intro o ho
        rcases List.mem_or_eq_of_mem_set ho with old | rfl
        · exact full o old
        · rfl
      have lt : at_.step < p.stepCount := lr.1 p (by rw [act]; rfl)
      have l0 := h.1
      have l1 := h.2.1
      cases hs : at_.slot
      · rw [hs] at oth
        refine ⟨new, l1, ?_⟩
        unfold RunLegal
        simp only [State.mapStore, run, hs]
        exact ⟨fun q hq => by cases hq; exact lt, rfl, oth⟩
      · rw [hs] at oth
        refine ⟨l0, new, ?_⟩
        unfold RunLegal
        simp only [State.mapStore, run, hs]
        exact ⟨fun q hq => by cases hq; exact lt, rfl, oth⟩
    all_goals first | exact id | exact fun _ => id

/-- The elapsed count after an ADJUST of the remaining time stays in range (R141). -/
theorem remainingTime_le (v : Nat) {elapsed : Nat} (h : elapsed ≤ 65535) : (remainingTime v elapsed).2 ≤ 65535 := by
  unfold remainingTime
  split
  · exact h
  · exact Nat.sub_le _ _

/-- ADJUST (R140, R141). -/
theorem adjust_does (src : Nat) (a : Adjustment) (s : State) : Does [.slots, .program, .record] [] s (s.adjust src a).1 := by
  unfold State.adjust
  split
  · rename_i at_ p r ha hr
    split
    · exact Does.refl s
    · split
      · exact Does.refl s
      · split
        · exact Does.refl s
        · split
          · exact Does.refl s
          · have first := replaceStep_does (r := adjusted a s.seq r) ha (fun h => by
              have lp := slot_legal h at_.slot
              rw [(activeRun_slot ha).2] at lp
              refine adjusted_legal a _ (step_legal (i := at_.step) lp.1 ?_)
              simpa [State.activeStep, ha] using hr)
            have work : ∀ t : State, Does [.program] [] t (t.mapSeq (Sequencer.adjust a)) := by
              intro t
              unfold State.mapSeq Sequencer.adjust
              split
              · refine ⟨by intro a h; cases a <;> first | exact absurd (by decide) h | rfl, fun b _ => ?_⟩
                cases b
                case seq => exact fun ⟨el, r⟩ => ⟨remainingTime_le _ el, r⟩
                all_goals first | exact id | exact fun _ => id
              · exact Does.refl t
            have record : ∀ (v w : Option Nat) (t : State),
                Does [.record] [] t (t.mapClimate (fun c => { c with setpoint := v, humidityTarget := w })) := fun _ _ t =>
              ⟨by intro a h; cases a <;> first | exact absurd (by decide) h | rfl,
               by intro b h; cases b <;> first | exact absurd (by decide) h | exact id | exact fun _ => id⟩
            exact ((first.seq (work _)).seq (record _ _ _)).mono
  · exact Does.refl s

/-! ## Scale accounting -/

/-- SET_HARDNESS (R146, R149). -/
theorem setHardness_does (v : Nat) (s : State) : Does [.hardness, .writes] [] s (s.setHardness v).1 := by
  have set : Does [.hardness] [] s (s.mapScale (fun a => { a with hardness := min 30 v })) := by
    refine ⟨by intro a h; cases a <;> first | exact absurd (by decide) h | rfl, fun b _ => ?_⟩
    cases b
    case scale => exact fun h => ⟨⟨Nat.min_le_left _ _, h.1.2⟩, h.2⟩
    all_goals first | exact id | exact fun _ => id
  unfold State.setHardness
  split
  · exact Does.refl s
  · exact Does.ite (fun _ => set.mono) (fun _ => (set.seq (requestWrite_does _)).mono)

/-- A generated program is legal and complete (R151, R152). -/
theorem generated_legal (station : Nat) (a : Scale) :
    (generated station a).Legal ∧ (generated station a).complete = true := by
  have plain : ∀ (m : Mode) (p d : Option Nat), m.setpointRange = none → (serviceStep m p d).Legal := by
    intro m p d _
    refine ⟨?_, ?_, ?_⟩ <;> intro n hn <;> simp [serviceStep] at hn
  unfold generated
  cases a.rinseOwed
  · refine ⟨⟨rfl, by simp [descaleSteps, rinseSteps], ?_⟩, by simp [Program.complete]⟩
    intro r hr
    simp [Program.records, descaleSteps, rinseSteps] at hr
    rcases hr with rfl | rfl | rfl | rfl | rfl | rfl | rfl | rfl <;> exact plain _ _ _ rfl
  · refine ⟨⟨rfl, by simp [rinseSteps], ?_⟩, by simp [Program.complete]⟩
    intro r hr
    simp [Program.records, rinseSteps] at hr
    rcases hr with rfl | rfl | rfl | rfl <;> exact plain _ _ _ rfl

/-- START_DESCALE (R150). -/
theorem startDescale_does (s : State) : Does runAspects [] s s.startDescale.state := by
  unfold State.startDescale
  split
  · exact Does.refl s
  · rename_i idle
    split
    · exact Does.refl s
    · rename_i ix _
      split
      · exact Does.refl s
      · have start := startProgram_does ix (generated s.station s.scale)
          (s.mapScale (fun a => { a with drainOnStop := false }))
        have both := (((clearDrainOnStop_does s).seq start.1).seq (runSettle_does _)).mono (cs := runAspects) (ds := [.store])
        refine ⟨both.same, fun b _ => ?_⟩
        by_cases hb : b = .store
        · subst hb
          intro h
          have none : s.seq.run = none := activeRun_none h (by simpa [State.hasActive] using idle)
          have legal := generated_legal s.station s.scale
          have started := start.2 ((clearDrainOnStop_does s).kept .store (by decide) h) none legal.1 legal.2
          have settled := runSettle_does ((s.mapScale (fun a => { a with drainOnStop := false })).startProgram ix
            (generated s.station s.scale))
          dsimp only
          exact settled.store (by decide) started
        · exact both.kept b (by simpa using hb)

/-! ## The path of a request -/

/-- A request taken by its block. -/
theorem requestTaken_does (src code : Nat) (body : List Byte) (s : State) {back : Returning} :
    Does requestAspects [.outside] s (s.takeRequest src code body back).state := by
  unfold State.takeRequest
  split
  · exact (loadHeader_does src body s).mono
  · exact (stepPartA_does src body s).mono
  · exact (stepPartB_does src body s).mono
  · exact (startSlot_does _ s).mono
  · exact (pause_does s).mono
  · exact (continue_does s).mono
  · exact (stop_does s).mono
  · exact (skip_does _ s).mono
  · exact (adjust_does _ _ s).mono
  · exact (confirm_does _ s).mono
  · exact (clearSlot_does _ s).mono
  · exact (discardSlot_does _ _ s).mono
  · exact (setHardness_does _ s).mono
  · exact (startDescale_does s).mono
  · exact (takeClear_does back s).mono
  · split <;> exact Does.refl s
  · exact Does.refl s

/-- A request judged (R176, R177). -/
theorem judge_does (src code : Nat) (body : List Byte) (s : State) {back : Returning} :
    Does requestAspects [.outside] s (s.judge src code body back).state := by
  unfold State.judge
  split
  · split <;> exact Does.refl s
  · exact requestTaken_does src code body s

/-- The reply (R178, R184). -/
theorem reply_does (src : Nat) (code : Byte) (v : Verdict) : Does [.queue, .freeIndex] [] v.state (v.reply_ src code) := by
  unfold Verdict.reply_
  split
  · exact Does.refl _
  · exact (answer_does _ _ _ _ _).mono
  · exact answerQuery_does _ _ _

/-- A request arrives (R175, R176). -/
theorem arrive_does (src : Nat) (payload : List Byte) (s : State) {back : Returning} :
    Does requestAspects [.outside] s (s.arrive src payload back) := by
  unfold State.arrive
  simp only
  split
  · exact (leaveQuiet_does s).mono
  · exact Does.ite (fun _ => (leaveQuiet_does s).mono)
      (fun _ => (((leaveQuiet_does s).seq (judge_does src _ _ _)).seq (reply_does src _ _)).mono)

/-! ## Receiving -/

/-- An ANNOUNCE heard (R7 to R10). -/
theorem hearAnnounce_does (f : RxFrame) (s : State) : Does [.peers, .slots, .staging] [] s (s.hearAnnounce f) := by
  unfold State.hearAnnounce
  refine Does.ite (fun c => ?_) (fun _ => Does.refl s)
  have uses := c.2
  simp only [State.usesAnnouncement, Bool.and_eq_true, decide_eq_true_eq] at uses
  exact recordPeer_does (ofPayload_inRange _) uses.1.1 uses.2

/-- A frame accepted (R175, R192). -/
theorem takeFrame_does (f : RxFrame) (s : State) {back : Returning} :
    Does (.peers :: requestAspects) [.outside] s (s.takeFrame f back) := by
  unfold State.takeFrame
  exact Does.ite (fun _ => (hearAnnounce_does f s).mono)
    (fun _ => Does.ite (fun _ => (arrive_does _ _ s).mono) (fun _ => Does.refl s))

/-- The end of a frame (R31, R189). -/
theorem frameEnds_does (s : State) : Does [.link, .lfsr] [] s s.frameEnds := by
  have idle : Does [.link] [] s (s.mapBus (fun b => { b with link := .idle, awaitGap := false })) := by
    refine ⟨by intro a h; cases a <;> first | exact absurd (by decide) h | rfl, fun b _ => ?_⟩
    cases b
    case bus => exact fun h => ⟨h.1, h.2.1, h.2.2.1, h.2.2.2.1, h.2.2.2.2.1, fun x => nomatch x⟩
    all_goals first | exact id | exact fun _ => id
  exact (idle.seq (advanceLfsr_does _)).mono

/-- A frame received with a good check (R192). -/
theorem receiveGood_does (f : RxFrame) (s : State) {back : Returning} :
    Does ([.peers, .link, .lfsr] ++ requestAspects) [.outside] s (s.receiveGood f back) := by
  have ended := frameEnds_does s
  unfold State.receiveGood
  refine Does.ite (fun _ => ?_) (fun _ => Does.ite (fun _ => ?_) (fun _ => ended.mono))
  · exact ((ended.seq (raise_does (by decide) _)).seq (runSettle_does _)).mono
  · exact (ended.seq (takeFrame_does f _)).mono

/-- A frame received, with the reports of its effects (R183, R192). -/
theorem receive_does (f : RxFrame) (s : State) {back : Returning} :
    Does ([.peers, .link, .lfsr] ++ requestAspects) [.outside] s (s.receive f back) := by
  unfold State.receive
  exact Does.ite (fun _ => ((receiveGood_does f s).seq (reported_does s _)).mono) (fun _ => Does.refl s)

end Sys2Proof.Machine
end

