-- ==== Sys2Proof/Laws/Commands.lean ====
section
/-! SUPPORT. What each command does: it answers a next state that differs from the one before in the aspects named and keeps
the invariants not named. -/

namespace Sys2Proof.Machine

-- Each proof is done before the next begins, so that few are held in memory at once.
set_option Elab.async false

/-- The outcome is a next state, which differs from s in the aspects `as` alone and keeps every invariant but `bs`. -/
def Answers (as : List Aspect) (bs : List Inv) (s : State) (o : StepOutcome) : Prop := ∃ t, o = .next t ∧ Does as bs s t

/-- A command that answers a state answers it with what the state differs in. -/
theorem Does.answers {as : List Aspect} {bs : List Inv} {s t : State} (h : Does as bs s t) : Answers as bs s (.next t) :=
  ⟨t, rfl, h⟩

/-- A command with its reports (R183). -/
theorem Does.reports {as cs : List Aspect} {bs : List Inv} {s t : State} (h : Does as bs s t)
    (ha : ∀ a ∈ as ++ [.queue, .freeIndex], a ∈ cs := by decide) : Answers cs bs s (s.report_ t) :=
  ⟨_, rfl, (h.seq (reported_does s t)).mono ha (by simp)⟩

/-! ## Start-up -/

/-- An input established (R198). -/
theorem establish_does (i : EstablishedInput) (s : State) : Does [.door, .probes, .tank, .boiler] [] s (s.establish i) := by
  cases i with
  | door d =>
    unfold State.establish State.establishDoor
    simp only
    split
    · exact
        ⟨by intro a h; cases a <;> first | exact absurd (by decide) h | rfl,
         by intro b h; cases b <;> first | exact absurd (by decide) h | exact id | exact fun _ => id⟩
    · exact Does.refl s
  | lowProbe p =>
    unfold State.establish State.mapSteam Steam.establishLow
    simp only
    split
    · split
      all_goals exact
        ⟨by intro a h; cases a <;> first | exact absurd (by decide) h | rfl,
         by intro b h; cases b <;> first | exact absurd (by decide) h | exact id | exact fun _ => id⟩
    · exact Does.refl s
  | highProbe p =>
    unfold State.establish State.mapSteam Steam.establishHigh
    simp only
    split
    · exact
        ⟨by intro a h; cases a <;> first | exact absurd (by decide) h | rfl,
         by intro b h; cases b <;> first | exact absurd (by decide) h | exact id | exact fun _ => id⟩
    · exact Does.refl s
  | tank t =>
    unfold State.establish State.mapSteam Steam.establishTank
    simp only
    split
    · exact
        ⟨by intro a h; cases a <;> first | exact absurd (by decide) h | rfl,
         by intro b h; cases b <;> first | exact absurd (by decide) h | exact id | exact fun _ => id⟩
    · exact Does.refl s

/-- The pin of the input that is established (R67). -/
theorem pinEstablished_does (i : EstablishedInput) (s : State) : Does [.inputs] [] s (s.pinEstablished i) := by
  unfold State.pinEstablished
  split
  · exact setInputs_does _ s
  · exact Does.refl s

/-- INPUT_STATE_ESTABLISHED (R198). -/
theorem inputStateEstablished_answers (i : EstablishedInput) (s : State) :
    Answers [.inputs, .door, .probes, .tank, .boiler] [] s (execInputStateEstablished i s) :=
  Does.answers (Does.ite (fun _ => ((pinEstablished_does i s).seq (establish_does i _)).mono) (fun _ => Does.refl s))

/-- The contents a record load hands over are in range (R199). -/
theorem load_inRange (r : StoredRecord) : r.load.1.inRange = true := by
  cases r with
  | blank => rfl
  | written c check =>
    unfold StoredRecord.load
    simp only
    split
    · exact (‹_ ∧ _›).2
    · rfl

/-- The record load (R199). -/
theorem loadRecord_does (s : State) :
    Does ([.hardness, .scaleLoad, .soakCount, .fault .retainedRecord] ++ runAspects) [] s s.loadRecord := by
  have range := load_inRange s.retained.stored
  have take : Does [.hardness, .scaleLoad, .soakCount, .scaleFlags] [] s
      (s.mapScale (Scale.take s.retained.stored.load.1)) := by
    refine ⟨by intro a h; cases a <;> first | exact absurd (by decide) h | rfl, fun b _ => ?_⟩
    cases b
    case scale =>
      intro h
      simp only [Contents.inRange, Bool.and_eq_true, Config.scaleMax] at range
      exact ⟨⟨of_decide_eq_true range.1.1, of_decide_eq_true range.1.2, of_decide_eq_true range.2⟩, h.2⟩
    all_goals first | exact id | exact fun _ => id
  unfold State.loadRecord
  exact Does.ite (fun _ => (take.seq (raise_does (by decide) _)).mono) (fun _ => take.mono)

/-- The frequency fixed, or MAINS set (R198). -/
theorem measure_does (gap : Bool) (s : State) : Does (.startup :: closeAspects) [.withdrawals] s (s.measure gap) := by
  have fix : Does [.startup] [] s
      (s.mapStartup (fun u => { u with freq := measuredFreq s.startup.crossings gap })) :=
    ⟨by intro a h; cases a <;> first | exact absurd (by decide) h | rfl,
     by intro b h; cases b <;> first | exact absurd (by decide) h | exact id | exact fun _ => id⟩
  unfold State.measure
  exact Does.ite (fun _ => (fix.seq (raiseMains_does _)).mono) (fun _ => fix.mono)

/-- The last stages of start-up (R201). -/
theorem enterService_does (s : State) : Does ([.startup, .rotation] ++ runAspects) [] s s.enterService := by
  have stage : Does [.startup] [] s (s.mapStartup (fun u => { u with stage := .service })) :=
    ⟨by intro a h; cases a <;> first | exact absurd (by decide) h | rfl,
     by intro b h; cases b <;> first | exact absurd (by decide) h | exact id | exact fun _ => id⟩
  have rotate : ∀ t : State, Does [.rotation] [] t (t.mapReport (fun u => { u with rotating := true })) := fun t =>
    ⟨by intro a h; cases a <;> first | exact absurd (by decide) h | rfl,
     by intro b h; cases b <;> first | exact absurd (by decide) h | exact id | exact fun _ => id⟩
  exact ((((stage.seq (driveFlap_does _)).seq (rotate _)).seq (startStandingDrain_does _)).seq (runSettle_does _)).mono

/-- MAINS_MEASUREMENT_END (R198, R199, R201). -/
theorem mainsMeasurementEnd_answers (gap : Bool) (s : State) :
    Answers measuredAspects [.withdrawals] s (execMainsMeasurementEnd gap s) := by
  have rest : Does [.door, .probes, .tank, .boiler] [] s s.establishRest :=
    (((establish_does _ s).trans (establish_does _ _)).trans (establish_does _ _)).trans (establish_does _ _)
  refine Does.answers (Does.ite (fun _ => ?_) (fun _ => Does.refl s))
  have entered := ((rest.seq (measure_does gap _)).seq (loadRecord_does _)).seq (enterService_does _)
  exact (entered.seq (handReportIf_does _ .fault _)).mono

/-! ## The share engine -/

/-- The announce tick with its reports (R25). -/
theorem tickEvent_does (s : State) : Does tickAspects [.hold, .outside] s s.tickEvent := by
  unfold State.tickEvent
  exact Does.ite (fun _ => ((shareTick_does s).seq (reported_does s _)).mono) (fun _ => Does.refl s)

/-- ANNOUNCE_TICK (R25). -/
theorem announceTick_answers (s : State) : Answers tickAspects [.hold, .outside] s (execAnnounceTick s) :=
  (tickEvent_does s).answers

/-- PEER_ENTRY_REMOVED (R11). -/
theorem peerEntryRemoved_answers (station : Nat) (s : State) :
    Answers tickAspects [.hold, .outside] s (execPeerEntryRemoved station s) :=
  Does.answers (Does.ite (fun _ => tickEvent_does s) (fun _ => Does.refl s))

/-- TABLE_FULL_CLEARED (R11). -/
theorem tableFullCleared_answers (s : State) : Answers tickAspects [.hold, .outside] s (execTableFullCleared s) :=
  Does.answers (Does.ite (fun _ => tickEvent_does s) (fun _ => Does.refl s))

/-- LISTEN_END (R12). -/
theorem listenEnd_answers (s : State) : Answers tickAspects [.hold, .outside] s (execListenEnd s) :=
  Does.answers (Does.ite (fun _ => tickEvent_does s) (fun _ => Does.refl s))

/-- QUIET_ENTRY (R21). -/
theorem quietEntry_answers (s : State) : Answers tickAspects [.hold, .outside] s (execQuietEntry s) :=
  Does.answers (Does.ite (fun _ => tickEvent_does s) (fun _ => Does.refl s))

/-! ## Mains and clocks -/

/-- A crossing, with its reports. -/
theorem crossing_answers (s : State) : Answers crossingAspects [.hold, .withdrawals] s (s.report_ s.crossing) :=
  (crossing_does s).reports

/-- ZERO_CROSSING (R34). -/
theorem zeroCrossing_answers (s : State) : Answers crossingAspects [.hold, .withdrawals] s (execZeroCrossing s) :=
  crossing_answers s

/-- FRAME_BOUNDARY (R41). -/
theorem frameBoundary_answers (smp : Sample) (ms : Nat) (s : State) :
    Answers boundaryAspects [.hold, .withdrawals] s (execFrameBoundary smp ms s) :=
  Does.reports (Does.ite (fun _ => boundaryCrossing_does smp ms s) (fun _ => Does.refl s))

/-- SAMPLE_TICK (R56). -/
theorem sampleTick_answers (smp : Sample) (s : State) :
    Answers (.freeIndex :: (sampleAspects ++ sensorAspects ++ runAspects)) [] s (execSampleTick smp s) :=
  Does.reports (as := sampleAspects ++ sensorAspects ++ runAspects)
    (Does.ite (fun _ => timerSample_does smp s)
      (fun _ => Does.ite (fun _ => Does.refl s) (fun _ => (setInputs_does smp s).mono)))

/-- SENSOR_FAULT_RAISED (R165). -/
theorem sensorFaultRaised_answers (k : SensorKind) (smp : Sample) (s : State) :
    Answers boundaryAspects [.hold, .withdrawals] s (execSensorFaultRaised k smp s) :=
  Does.reports (Does.ite (fun _ => nextSample_does smp s) (fun _ => Does.refl s))

/-- SENSOR_FAULT_ENDED (R165). -/
theorem sensorFaultEnded_answers (k : SensorKind) (smp : Sample) (s : State) :
    Answers boundaryAspects [.hold, .withdrawals] s (execSensorFaultEnded k smp s) :=
  Does.reports (Does.ite (fun _ => nextSample_does smp s) (fun _ => Does.refl s))

/-- The events of a crossing (log 2). -/
theorem crossingWhen_answers (due : Bool) (s : State) :
    Answers crossingAspects [.hold, .withdrawals] s (s.report_ (s.crossingWhen due)) :=
  (crossingWhen_does due s).reports

/-- DRAIN_VALVE_OPENS (R91). -/
theorem drainValveOpens_answers (smp : Sample) (s : State) :
    Answers boundaryAspects [.hold, .withdrawals] s (execDrainValveOpens smp s) :=
  Does.reports (Does.ite (fun _ => nextSample_does smp s) (fun _ => Does.refl s))

/-- MAINS_LOSS (R35, R168). -/
theorem mainsLoss_answers (s : State) : Answers (.freeIndex :: closeAspects) [.withdrawals] s (execMainsLoss s) :=
  Does.reports (cs := .freeIndex :: closeAspects)
    (Does.ite (fun _ => ((raiseMains_does s).seq (runSettle_does _)).mono (cs := closeAspects) (ds := [.withdrawals]))
      (fun _ => Does.refl s))

/-- MAINS_RESTORED (R35, R168). -/
theorem mainsRestored_answers (ms : Nat) (s : State) :
    Answers ([.startup, .fault .mains, .freeIndex] ++ runAspects) [] s (execMainsRestored ms s) :=
  Does.reports (cs := [.startup, .fault .mains, .freeIndex] ++ runAspects)
    (Does.ite (fun _ => ((mainsReturns_does ms s).seq (runSettle_does _)).mono
      (cs := [.startup, .fault .mains] ++ runAspects) (ds := [])) (fun _ => Does.refl s))

/-! ## Door, probes and tank -/

/-- DOOR_OPEN (R67, R68). -/
theorem doorOpen_answers (s : State) :
    Answers ([.inputs, .freeIndex] ++ doorAspects ++ runAspects) [] s (execDoorOpen s) :=
  Does.reports (as := .inputs :: (doorAspects ++ runAspects))
    (Does.ite (fun _ => ((setInputs_does _ s).seq (doorOpens_does _)).mono) (fun _ => Does.refl s))

/-- DOOR_CLOSE (R67, R69). -/
theorem doorClose_answers (s : State) :
    Answers ([.inputs, .freeIndex] ++ doorAspects ++ runAspects) [] s (execDoorClose s) :=
  Does.reports (as := .inputs :: (doorAspects ++ runAspects))
    (Does.ite (fun _ => ((setInputs_does _ s).seq (doorCloses_does _)).mono) (fun _ => Does.refl s))

/-- LOW_DRY (R87, R92). -/
theorem lowDry_answers (s : State) : Answers probeAspects [] s (execLowDry s) :=
  Does.reports (as := .probes :: runAspects)
    (Does.ite (fun _ => ((lowGoesDry_does s).seq (runSettle_does _)).mono) (fun _ => Does.refl s))

/-- A LOW wet event (R87, R92, R93). -/
theorem lowWetEvent_does (s : State) : Does ([.probes, .fault .drainTimeout] ++ runAspects) [] s s.lowWetEvent := by
  have wet : Does [.probes] [] s (s.mapSteam (fun w => { w with low := some .wet })) :=
    ⟨by intro a h; cases a <;> first | exact absurd (by decide) h | rfl,
     by intro b h; cases b <;> first | exact absurd (by decide) h | exact id | exact fun _ => id⟩
  unfold State.lowWetEvent
  exact Does.ite (fun _ => (wet.seq (drainTimeoutEvent_does _)).mono) (fun _ => (lowGoesWet_does s).mono)

/-- LOW_WET (R87, R92, R93). -/
theorem lowWet_answers (s : State) : Answers probeAspects [] s (execLowWet s) :=
  Does.reports (as := [.probes, .fault .drainTimeout] ++ runAspects)
    (Does.ite (fun _ => ((lowWetEvent_does s).seq (runSettle_does _)).mono) (fun _ => Does.refl s))

/-- HIGH_WET (R88, R89). -/
theorem highWet_answers (s : State) : Answers probeAspects [] s (execHighWet s) :=
  Does.reports (as := .probes :: runAspects)
    (Does.ite (fun _ => ((highGoesWet_does s).seq (runSettle_does _)).mono) (fun _ => Does.refl s))

/-- HIGH_DRY (R80). -/
theorem highDry_answers (s : State) : Answers [.probes] [] s (execHighDry s) :=
  Does.answers (Does.ite
    (fun _ =>
      ⟨by intro a h; cases a <;> first | exact absurd (by decide) h | rfl,
       by intro b h; cases b <;> first | exact absurd (by decide) h | exact id | exact fun _ => id⟩)
    (fun _ => Does.refl s))

/-- TANK_ARRIVES (R90). -/
theorem tankArrives_answers (level : TankLevel) (s : State) : Answers tankAspects [] s (execTankArrives level s) :=
  Does.reports (as := .tank :: runAspects)
    (Does.ite (fun _ => ((tankHere_does level s).seq (runSettle_does _)).mono) (fun _ => Does.refl s))

/-- TANK_REMOVED (R89, R92). -/
theorem tankRemoved_answers (s : State) : Answers tankAspects [] s (execTankRemoved s) :=
  Does.reports (as := .tank :: runAspects)
    (Does.ite (fun _ => ((tankGone_does s).seq (runSettle_does _)).mono) (fun _ => Does.refl s))

/-- TANK_LEVEL_CHANGE (R89, R90). -/
theorem tankLevelChange_answers (level : TankLevel) (s : State) :
    Answers tankAspects [] s (execTankLevelChange level s) :=
  Does.reports (as := .tank :: runAspects)
    (Does.ite (fun _ => ((levelChanges_does level s).seq (runSettle_does _)).mono) (fun _ => Does.refl s))

/-! ## The bus link -/

/-- A change of the link's registers that leaves it legal. -/
theorem mapBus_does {f : BusLink → BusLink} {s : State} (legal : s.bus.Legal → (f s.bus).Legal) :
    Does [.link, .queue, .busCounts] [.entries] s (s.mapBus f) := by
  refine ⟨by intro a h; cases a <;> first | exact absurd (by decide) h | rfl, fun b hb => ?_⟩
  cases b
  case bus => exact legal
  case entries => exact absurd (by decide) hb
  all_goals first | exact id | exact fun _ => id

/-- The classes of a queue bound its length and order. -/
theorem legal_of_classes {b : BusLink} {q r : List Entry} (h : b.Legal) (hq : b.queue = q)
    (cl : (r.map (fun e => e.kind.cls)).Sublist (q.map (fun e => e.kind.cls))) {t : BusLink} (ht : t.queue = r)
    (counts : t.broken ≤ 255 ∧ t.badFrames ≤ 255 ∧ t.dropped ≤ 255 ∧ (t.awaitGap = true → t.link = .receiving)) :
    t.Legal := by
  refine ⟨?_, ?_, counts⟩
  · have l := cl.length_le
    simp only [List.length_map] at l
    rw [ht]
    exact Nat.le_trans l (hq ▸ h.1)
  · rw [ht]
    exact (sorted_iff r).mpr (((sorted_iff q).mp (hq ▸ h.2.1)).sublist cl)

/-- The frame of the head goes on the line: classes as they were. -/
theorem startHead_classes (q : List Entry) : (startHead q).map (fun e => e.kind.cls) = q.map (fun e => e.kind.cls) := by
  cases q <;> rfl

/-- A SENT frame: the classes left are among those there were. -/
theorem sentOn_classes (q : List Entry) :
    ((sentOn q).map (fun e => e.kind.cls)).Sublist (q.map (fun e => e.kind.cls)) := by
  induction q with
  | nil => exact List.Sublist.refl _
  | cons e q ih =>
    unfold sentOn
    split
    · split
      · exact List.Sublist.refl _
      · exact List.sublist_cons_self _ _
    · exact ih.cons_cons _

/-- A BROKEN frame: the classes left are among those there were. -/
theorem brokenOn_classes (q : List Entry) :
    ((brokenOn q).map (fun e => e.kind.cls)).Sublist (q.map (fun e => e.kind.cls)) := by
  unfold brokenOn
  cases h : removeFirst Entry.onLine q with
  | none => exact List.Sublist.refl _
  | some r => exact (sublist_removeFirst h).map _

/-- A LOST frame: the classes left are among those there were. -/
theorem lostOn_classes (q : List Entry) :
    ((lostOn q).map (fun e => e.kind.cls)).Sublist (q.map (fun e => e.kind.cls)) := by
  induction q with
  | nil => exact List.Sublist.refl _
  | cons e q ih =>
    unfold lostOn
    split
    · split
      · exact List.Sublist.refl _
      · split
        · rename_i x hx
          have same : x.kind.cls = e.kind.cls := by
            have k := List.find?_some hx
            simp only [Bool.and_eq_true] at k
            exact (cls_of_sameKind k.2).symm
          simp only [List.map_cons, same]
          refine List.Sublist.cons_cons _ ?_
          cases h : removeFirst (fun y => y.waiting && y.kind.sameKind e.kind) q with
          | none => exact List.Sublist.refl _
          | some r => exact (sublist_removeFirst h).map _
        · exact List.Sublist.refl _
    · exact ih.cons_cons _

/-- QUIET_GAP (R188, R189). -/
theorem quietGap_answers (s : State) : Answers [.link, .queue, .busCounts] [.entries] s (execQuietGap s) := by
  refine Does.answers (Does.ite (fun _ => mapBus_does (fun h => ?_)) (fun _ => Does.refl s))
  unfold BusLink.quietGap
  split
  · exact ⟨h.1, h.2.1, h.2.2.1, h.2.2.2.1, h.2.2.2.2.1, fun x => nomatch x⟩
  · rename_i e q hq
    refine legal_of_classes h hq ?_ (t := { s.bus with link := .sending, awaitGap := false, queue := startHead (e :: q) })
      rfl ⟨h.2.2.1, h.2.2.2.1, h.2.2.2.2.1, fun x => nomatch x⟩
    rw [startHead_classes]

/-- An own announcement counted (R5). -/
theorem countOwn_does (k : Option EntryKind) (s : State) : Does [.sharing] [] s (s.countOwn k) := by
  unfold State.countOwn
  split
  · refine Does.ite (fun _ => ?_) (fun _ => Does.refl s)
    refine ⟨by intro a h; cases a <;> first | exact absurd (by decide) h | rfl, fun b _ => ?_⟩
    cases b
    case share => exact fun ⟨h, hc⟩ => ⟨⟨h.1, h.2.1, Nat.min_le_left _ _, h.2.2.2⟩, hc⟩
    all_goals first | exact id | exact fun _ => id
  all_goals exact Does.refl s

/-- The link that sends an own frame is SENDING. -/
theorem link_sending {s : State} (h : s.sends = true) : s.bus.link = .sending := by
  simp [State.sends] at h
  exact h.2

/-- FRAME_SENT (R5, R169, R188). -/
theorem frameSent_answers (s : State) :
    Answers [.link, .queue, .busCounts, .sharing, .fault .link, .freeIndex] [.entries, .outside] s (execFrameSent s) := by
  refine Does.reports (as := [.link, .queue, .busCounts, .sharing, .fault .link]) (Does.ite (fun sends => ?_) (fun _ => Does.refl s))
  refine Does.mono (Does.seq (Does.seq (mapBus_does (fun h => ?_)) (countOwn_does _ _)) (linkGone_does _))
  exact legal_of_classes h rfl (sentOn_classes _) rfl
    ⟨Nat.zero_le _, h.2.2.2.1, h.2.2.2.2.1, fun x => absurd (h.2.2.2.2.2 x) (by simp [link_sending sends])⟩

/-- FRAME_LOST (R188, R190). -/
theorem frameLost_answers (s : State) : Answers [.link, .queue, .busCounts] [.entries] s (execFrameLost s) := by
  refine Does.answers (Does.ite (fun _ => mapBus_does (fun h => ?_)) (fun _ => Does.refl s))
  exact legal_of_classes h rfl (lostOn_classes _) rfl ⟨h.2.2.1, h.2.2.2.1, h.2.2.2.2.1, fun _ => rfl⟩

/-- FRAME_BROKEN (R169, R188). -/
theorem frameBroken_answers (s : State) :
    Answers ([.link, .busCounts, .fault .link, .freeIndex] ++ runAspects) [.entries] s (execFrameBroken s) := by
  refine Does.reports (as := [.link, .busCounts, .fault .link] ++ runAspects) (Does.ite (fun _ => ?_) (fun _ => Does.refl s))
  refine Does.mono (Does.seq (mapBus_does (f := fun b =>
    { b with link := .receiving, awaitGap := true, queue := brokenOn b.queue, broken := satAdd 255 b.broken 1 })
    (fun h => ?_))
    (cs := .fault .link :: runAspects) (ds := []) ?_)
  · exact legal_of_classes h rfl (brokenOn_classes _) rfl
      ⟨Nat.min_le_left _ _, h.2.2.2.1, h.2.2.2.2.1, fun _ => rfl⟩
  · unfold State.linkCheck
    exact Does.ite (fun _ => raise_does (by decide) _) (fun _ => Does.refl _)

/-- A dropped frame counted (R192). -/
theorem countBad_does (abandoned : Bool) (s : State) :
    Does [.link, .queue, .busCounts] [.entries] s (s.mapBus (BusLink.countBad abandoned)) := by
  refine mapBus_does (fun h => ⟨h.1, h.2.1, h.2.2.1, Nat.min_le_left _ _, h.2.2.2.2.1, ?_⟩)
  intro x
  have a : abandoned = true := x
  subst a
  rfl

/-- BAD_FRAME (R192). -/
theorem badFrame_answers (s : State) : Answers [.link, .queue, .busCounts] [.entries] s (execBadFrame s) :=
  Does.answers (Does.ite (fun _ => countBad_does _ s) (fun _ => Does.refl s))

/-- FRAME_ABANDONED (R189, R192). -/
theorem frameAbandoned_answers (s : State) : Answers [.link, .queue, .busCounts] [.entries] s (execFrameAbandoned s) :=
  Does.answers (Does.ite (fun _ => countBad_does _ s) (fun _ => Does.refl s))

/-- Every command that is a received frame (R192). -/
theorem receive_answers (f : RxFrame) (s : State) {back : Returning} :
    Answers ([.peers, .link, .lfsr] ++ requestAspects) [.outside] s (.next (s.receive f back)) := (receive_does f s).answers

/-- ROTATION_REPORT (R182). -/
theorem rotationReport_answers (s : State) : Answers [.queue, .freeIndex, .rotation] [] s (execRotationReport s) := by
  have next : ∀ t : State, Does [.rotation] [] t (t.mapReport (fun u => { u with rotation := u.rotation.next })) := fun t =>
    ⟨by intro a h; cases a <;> first | exact absurd (by decide) h | rfl,
     by intro b h; cases b <;> first | exact absurd (by decide) h | exact id | exact fun _ => id⟩
  refine Does.answers ?_
  unfold State.rotate
  exact Does.ite (fun _ => Does.refl s) (fun _ => ((handReport_does _ s).seq (next _)).mono)

/-- The end of a write (R200). -/
theorem completeWrite_does (good : Bool) (s : State) :
    Does [.stored, .writes] [] s (s.mapRetained (Retained.complete good)) := by
  refine ⟨by intro a h; cases a <;> first | exact absurd (by decide) h | rfl, fun b _ => ?_⟩
  cases b
  case scale =>
    intro ⟨h, w, p⟩
    refine ⟨h, ?_⟩
    unfold State.mapRetained Retained.complete
    cases hw : s.retained.writing with
    | none => exact ⟨w, p⟩
    | some c =>
      simp only
      split
      · exact ⟨p, by simp⟩
      · refine ⟨?_, by simp⟩
        intro d hd
        simp only [Option.mem_def, Option.some.injEq] at hd
        subst hd
        cases hp : s.retained.pendingWrite with
        | none => exact w c (by simp [hw])
        | some e => exact p e (by simp [hp])
  all_goals first | exact id | exact fun _ => id

/-- RETAINED_WRITE_COMPLETE (R169, R200). -/
theorem retainedWriteComplete_answers (good : Bool) (s : State) :
    Answers ([.stored, .fault .retainedRecord, .queue, .freeIndex] ++ waterAspects) [] s (execRetainedWriteComplete good s) := by
  refine Does.reports (as := [.stored, .fault .retainedRecord] ++ waterAspects) ?_
  unfold State.writeEnds
  exact Does.ite (fun _ => ((completeWrite_does good s).seq (condGone_does (by decide) (by decide) _)).mono)
    (fun _ => (completeWrite_does good s).mono)

/-! ## Reset -/

/-- The state after a reset is legal in every block (R32, R36, R79, R98, R117, R118, R163, R193). -/
theorem afterReset_legal (station limitClass variant : Nat) (stored : StoredRecord) (q : List Instr) (i : Sample) (n : Nat) :
    (State.afterReset station limitClass variant stored q i n).Legal := by
  have store : Store.reset.slot0.Legal ∧ Store.reset.slot1.Legal ∧ RunLegal Sequencer.reset.run Store.reset :=
    ⟨trivial, trivial, rfl, rfl⟩
  have steam : Steam.reset.Legal :=
    ⟨Nat.zero_le _, trivial, within_none _, within_none _, within_none _, (by decide : 0 < 156000), Nat.zero_le _⟩
  refine ⟨(by decide : BusLink.reset.Legal), ⟨?_, Nat.zero_le _⟩, ⟨Nat.zero_le _, List.nodup_nil, fun _ h => (nomatch h)⟩,
    (by decide : LoadFrame.reset.Legal), (by decide : Climate.reset.Legal), steam,
    ⟨(by decide : Scale.reset.Legal), ⟨fun _ h => (nomatch h), fun _ h => (nomatch h)⟩⟩, store,
    (by decide : Sequencer.reset.Legal), (by decide : FaultSet.reset.Legal)⟩
  exact ⟨Nat.le_refl _, Nat.zero_le _, Nat.zero_le _, Nat.zero_le _, Nat.zero_le _, Nat.zero_le _, Nat.zero_le _,
    Nat.zero_le _, Nat.zero_le _⟩

end Sys2Proof.Machine
end

