-- ==== Sys2Proof/Laws/Frames.lean ====
section
/-! SUPPORT. A block none of whose aspects a frame names is the same in both states. -/

namespace Sys2Proof.Machine

-- Each proof is done before the next begins, so that few are held in memory at once.
set_option Elab.async false

/-- Start-up outside a frame. -/
theorem Only.startup {as : List Aspect} {s t : State} (h : Only as s t) (n : .startup ∉ as := by decide) :
    t.startup = s.startup := h .startup n

/-- The waiting commands outside a frame. -/
theorem Only.pending {as : List Aspect} {s t : State} (h : Only as s t) (n : .pending ∉ as := by decide) :
    t.pending = s.pending := h .pending n

/-- The sensor inputs outside a frame. -/
theorem Only.inputs {as : List Aspect} {s t : State} (h : Only as s t) (n : .inputs ∉ as := by decide) :
    t.inputs = s.inputs := h .inputs n

/-- The free-value counter outside a frame. -/
theorem Only.freeIndex {as : List Aspect} {s t : State} (h : Only as s t) (n : .freeIndex ∉ as := by decide) :
    t.freeIndex = s.freeIndex := h .freeIndex n

/-- The peer table outside a frame. -/
theorem Only.peers {as : List Aspect} {s t : State} (h : Only as s t) (n : .peers ∉ as := by decide) :
    t.share.peers = s.share.peers := congrArg Prod.fst (h .peers n)

/-- The share engine outside a frame. -/
theorem Only.share {as : List Aspect} {s t : State} (h : Only as s t)
    (n : ∀ a ∈ [Aspect.lfsr, .peers, .coolDown, .sharing], a ∉ as := by decide) : t.share = s.share := by
  have h1 := h .lfsr (n _ (by decide))
  have h2 := h .peers (n _ (by decide))
  have h3 := h .coolDown (n _ (by decide))
  have h4 := h .sharing (n _ (by decide))
  simp only [Same, Prod.mk.injEq] at h1 h2 h3 h4
  cases hs : s.share
  cases ht : t.share
  simp_all

/-- The load frame outside a frame. -/
theorem Only.load {as : List Aspect} {s t : State} (h : Only as s t)
    (n : ∀ a ∈ [Aspect.frame, .withdrawn, .doorTimer, .ceiling, .gates], a ∉ as := by decide) : t.load = s.load := by
  have h1 := h .frame (n _ (by decide))
  have h2 := h .withdrawn (n _ (by decide))
  have h3 := h .doorTimer (n _ (by decide))
  have h4 := h .ceiling (n _ (by decide))
  have h5 := h .gates (n _ (by decide))
  simp only [Same, Prod.mk.injEq] at h1 h2 h3 h4 h5
  cases hs : s.load
  cases ht : t.load
  simp_all

/-- The climate regulator outside a frame. -/
theorem Only.climate {as : List Aspect} {s t : State} (h : Only as s t)
    (n : ∀ a ∈ [Aspect.record, .integrators, .ventTimer, .flap, .demands, .readings, .door, .doorPending, .coolingFan], a ∉ as := by
      decide) : t.climate = s.climate := by
  have h1 := h .record (n _ (by decide))
  have h2 := h .integrators (n _ (by decide))
  have h3 := h .ventTimer (n _ (by decide))
  have h4 := h .flap (n _ (by decide))
  have h5 := h .demands (n _ (by decide))
  have h6 := h .readings (n _ (by decide))
  have h7 := h .door (n _ (by decide))
  have h8 := h .doorPending (n _ (by decide))
  have h9 := h .coolingFan (n _ (by decide))
  simp only [Same, Prod.mk.injEq] at h1 h2 h3 h4 h5 h6 h7 h8 h9
  cases hs : s.climate
  cases ht : t.climate
  simp_all

/-- The steam generator outside a frame. -/
theorem Only.steam {as : List Aspect} {s t : State} (h : Only as s t)
    (n : ∀ a ∈ [Aspect.probes, .tank, .boilerReadings, .evaporation, .millilitres, .boiler], a ∉ as := by decide) :
    t.steam = s.steam := by
  have h1 := h .probes (n _ (by decide))
  have h2 := h .tank (n _ (by decide))
  have h3 := h .boilerReadings (n _ (by decide))
  have h4 := h .evaporation (n _ (by decide))
  have h5 := h .millilitres (n _ (by decide))
  have h6 := h .boiler (n _ (by decide))
  simp only [Same, Prod.mk.injEq] at h1 h2 h3 h4 h5 h6
  cases hs : s.steam
  cases ht : t.steam
  simp_all

/-- Scale accounting outside a frame. -/
theorem Only.scale {as : List Aspect} {s t : State} (h : Only as s t)
    (n : ∀ a ∈ [Aspect.hardness, .scaleLoad, .soakCount, .scaleFlags], a ∉ as := by decide) : t.scale = s.scale := by
  have h1 := h .hardness (n _ (by decide))
  have h2 := h .scaleLoad (n _ (by decide))
  have h3 := h .soakCount (n _ (by decide))
  have h4 := h .scaleFlags (n _ (by decide))
  simp only [Same, Prod.mk.injEq] at h1 h2 h3 h4
  cases hs : s.scale
  cases ht : t.scale
  simp_all

/-- The program store outside a frame. -/
theorem Only.store {as : List Aspect} {s t : State} (h : Only as s t)
    (n : ∀ a ∈ [Aspect.slots, .staging], a ∉ as := by decide) : t.store = s.store := by
  have h1 := h .slots (n _ (by decide))
  have h2 := h .staging (n _ (by decide))
  simp only [Same, Prod.mk.injEq] at h1 h2
  cases hs : s.store
  cases ht : t.store
  simp_all

/-- The sequencer outside a frame. -/
theorem Only.seq {as : List Aspect} {s t : State} (h : Only as s t)
    (n : ∀ a ∈ [Aspect.clock, .program], a ∉ as := by decide) : t.seq = s.seq := by
  have h1 := h .clock (n _ (by decide))
  have h2 := h .program (n _ (by decide))
  simp only [Same, Prod.mk.injEq] at h1 h2
  cases hs : s.seq
  cases ht : t.seq
  simp_all

/-- The fault set outside a frame. -/
theorem Only.faults {as : List Aspect} {s t : State} (h : Only as s t)
    (n : ∀ a ∈ Aspect.runs :: faultAspects, a ∉ as := by decide) : t.faults = s.faults := by
  have h1 := h .runs (n _ (by decide))
  have one : ∀ k, t.faults.get k = s.faults.get k := fun k => h (.fault k) (n _ (by cases k <;> decide))
  have e1 := one .cavitySensor
  have e2 := one .humiditySensor
  have e3 := one .boilerSensor
  have e4 := one .coreProbeShort
  have e5 := one .cavityOverheat
  have e6 := one .boilerDry
  have e7 := one .drainTimeout
  have e8 := one .mains
  have e9 := one .link
  have e10 := one .duplicateStation
  have e11 := one .retainedRecord
  simp only [Same, Prod.mk.injEq] at h1
  simp only [FaultSet.get] at e1 e2 e3 e4 e5 e6 e7 e8 e9 e10 e11
  cases hs : s.faults
  cases ht : t.faults
  simp_all

/-- The bus link outside a frame. -/
theorem Only.bus {as : List Aspect} {s t : State} (h : Only as s t)
    (n : ∀ a ∈ [Aspect.link, .queue, .busCounts], a ∉ as := by decide) : t.bus = s.bus := by
  have h1 := h .link (n _ (by decide))
  have h2 := h .queue (n _ (by decide))
  have h3 := h .busCounts (n _ (by decide))
  simp only [Same, Prod.mk.injEq] at h1 h2 h3
  cases hs : s.bus
  cases ht : t.bus
  simp_all

/-- The request and report unit outside a frame. -/
theorem Only.report {as : List Aspect} {s t : State} (h : Only as s t)
    (n : ∀ a ∈ [Aspect.rotation, .chainRefusal], a ∉ as := by decide) : t.report = s.report := by
  have h1 := h .rotation (n _ (by decide))
  have h2 := h .chainRefusal (n _ (by decide))
  simp only [Same, Prod.mk.injEq] at h1 h2
  cases hs : s.report
  cases ht : t.report
  simp_all

/-- The retained record outside a frame. -/
theorem Only.retained {as : List Aspect} {s t : State} (h : Only as s t)
    (n : ∀ a ∈ [Aspect.stored, .writes], a ∉ as := by decide) : t.retained = s.retained := by
  have h1 := h .stored (n _ (by decide))
  have h2 := h .writes (n _ (by decide))
  simp only [Same, Prod.mk.injEq] at h1 h2
  cases hs : s.retained
  cases ht : t.retained
  simp_all

/-- Two frames in turn. -/
theorem Only.trans {as : List Aspect} {s t u : State} (h : Only as s t) (k : Only as t u) : Only as s u :=
  fun a n => (h a n).trans (k a n)

/-- A frame within a wider one. -/
theorem Only.mono {as bs : List Aspect} {s t : State} (h : Only as s t) (sub : ∀ a ∈ as, a ∈ bs := by decide) :
    Only bs s t := fun a n => h a (fun m => n (sub a m))

end Sys2Proof.Machine
end

