-- ==== Sys2Proof/Laws/Arrivals.lean ====
section
/-! SUPPORT. A request as it arrives: what a heard frame leaves, and how a taken request is judged. -/

namespace Sys2Proof.Machine

-- Each proof is done before the next begins, so that few are held in memory at once.
set_option Elab.async false

/-- A heard frame changes the link, the LFSR, and QUIET with what leaving it queues. -/
theorem heard_only (s : State) : Only [.link, .lfsr, .sharing, .queue] s s.heard := by
  have a : Only [.link, .lfsr] s s.frameEnds := by
    intro a h; cases a <;> first | exact absurd (by decide) h | rfl
  exact (a.mono).trans (leaveQuiet_does s.frameEnds).only.mono

/-- A heard frame leaves start-up. -/
@[simp] theorem heard_startup (s : State) : s.heard.startup = s.startup := (heard_only s).startup

/-- A heard frame leaves the fault set. -/
@[simp] theorem heard_faults (s : State) : s.heard.faults = s.faults := (heard_only s).faults

/-- A heard frame leaves the store. -/
@[simp] theorem heard_store (s : State) : s.heard.store = s.store := (heard_only s).store

/-- A heard frame leaves the sequencer. -/
@[simp] theorem heard_seq (s : State) : s.heard.seq = s.seq := (heard_only s).seq

/-- A heard frame leaves the load frame. -/
@[simp] theorem heard_load (s : State) : s.heard.load = s.load := (heard_only s).load

/-- A heard frame leaves the climate regulator. -/
@[simp] theorem heard_climate (s : State) : s.heard.climate = s.climate := (heard_only s).climate

/-- A heard frame leaves the steam generator. -/
@[simp] theorem heard_steam (s : State) : s.heard.steam = s.steam := (heard_only s).steam

/-- A heard frame leaves the account. -/
@[simp] theorem heard_scale (s : State) : s.heard.scale = s.scale := (heard_only s).scale

/-- A heard frame leaves the report unit. -/
@[simp] theorem heard_report (s : State) : s.heard.report = s.report := (heard_only s).report

/-- A heard frame leaves the retained record. -/
@[simp] theorem heard_retained (s : State) : s.heard.retained = s.retained := (heard_only s).retained

/-- A heard frame leaves the peer table. -/
@[simp] theorem heard_peers (s : State) : s.heard.share.peers = s.share.peers := (heard_only s).peers

/-- A heard frame leaves the active run. -/
@[simp] theorem heard_activeRun (s : State) : s.heard.activeRun = s.activeRun := by simp [State.activeRun]

/-- A heard frame leaves what State.hasActive reads. -/
@[simp] theorem heard_hasActive (s : State) : s.heard.hasActive = s.hasActive := by simp [State.hasActive]

/-- A heard frame leaves what State.activeProgram reads. -/
@[simp] theorem heard_activeProgram (s : State) : s.heard.activeProgram = s.activeProgram := by simp [State.activeProgram]

/-- A heard frame leaves what State.activeStep reads. -/
@[simp] theorem heard_activeStep (s : State) : s.heard.activeStep = s.activeStep := by simp [State.activeStep]

/-- A heard frame leaves what State.phase reads. -/
@[simp] theorem heard_phase (s : State) : s.heard.phase = s.phase := by simp [State.phase]

/-- A heard frame leaves what State.stepHumid reads. -/
@[simp] theorem heard_stepHumid (s : State) : s.heard.stepHumid = s.stepHumid := by simp [State.stepHumid]

/-- A heard frame leaves what State.serviceActive reads. -/
@[simp] theorem heard_serviceActive (s : State) : s.heard.serviceActive = s.serviceActive := by simp [State.serviceActive]

/-- A heard frame leaves what State.anyHold reads. -/
@[simp] theorem heard_anyHold (s : State) : s.heard.anyHold = s.anyHold := by
  simp [State.anyHold, State.doorHold, State.tankHold, State.probeHold, State.doorOpen, State.tankWait, State.drainInHand, State.tankPresent]

/-- A heard frame leaves what State.runState reads. -/
@[simp] theorem heard_runState (s : State) : s.heard.runState = s.runState := by simp [State.runState]

/-- A heard frame leaves what State.isRunning reads. -/
@[simp] theorem heard_isRunning (s : State) : s.heard.isRunning = s.isRunning := by simp [State.isRunning]

/-- A heard frame leaves what State.suspended reads. -/
@[simp] theorem heard_suspended (s : State) : s.heard.suspended = s.suspended := by simp [State.suspended]

/-- A heard frame leaves what State.faultActive reads. -/
@[simp] theorem heard_faultActive (s : State) (k) : s.heard.faultActive k = s.faultActive k := by simp [State.faultActive]

/-- A heard frame leaves what State.station reads. -/
@[simp] theorem heard_station (s : State) : s.heard.station = s.station := by simp [State.station]

/-- A heard frame leaves what State.countedPeers reads. -/
@[simp] theorem heard_countedPeers (s : State) : s.heard.countedPeers = s.countedPeers := by simp [State.countedPeers]

/-- A heard frame leaves what State.humidBlocked reads. -/
@[simp] theorem heard_humidBlocked (s : State) : s.heard.humidBlocked = s.humidBlocked := by simp [State.humidBlocked]

/-- A heard frame leaves what State.heatBlocked reads. -/
@[simp] theorem heard_heatBlocked (s : State) : s.heard.heatBlocked = s.heatBlocked := by simp [State.heatBlocked]

/-- A heard frame leaves what State.mustDrainFirst reads. -/
@[simp] theorem heard_mustDrainFirst (s : State) : s.heard.mustDrainFirst = s.mustDrainFirst := by simp [State.mustDrainFirst, State.drainInHand]

/-- A heard frame leaves what State.barsHeating reads. -/
@[simp] theorem heard_barsHeating (s : State) : s.heard.barsHeating = s.barsHeating := by simp [State.barsHeating]

/-- A heard frame leaves what State.startRefusal reads. -/
@[simp] theorem heard_startRefusal (s : State) (p) : s.heard.startRefusal p = s.startRefusal p := by simp [State.startRefusal, State.scaleLock]

/-- The end of a frame with QUIET left is a heard frame. -/
theorem frameEnds_leaveQuiet (s : State) : s.frameEnds.leaveQuiet = s.heard := rfl

/-- A request of a good length from a station the part takes requests from is judged, answered and reported. -/
theorem arrive_taken {src : Nat} {code : Byte} {body : List Byte} {s : State} {back : Returning} (h : s.TakesFrom src)
    (len : requestLength code.toNat = some (body.length + 1)) :
    s.receive (s.requestFrame src code body) back
      = s.reported ((s.heard.takeRequest src code.toNat body back).reply_ src code) := by
  obtain ⟨h1, h2, ⟨p, h3, h4⟩, h5⟩ := h
  have e1 : s.frameEnds.station = s.station := rfl
  have sr : s.heard.sourceRefusal src = none := by simp [State.sourceRefusal, h3, h4]
  simp [State.receive, h1, State.receiveGood, State.requestFrame, h2, e1, State.takeFrame, State.arrive, frameEnds_leaveQuiet,
    State.judge, State.requestRefusal, sr, len, h5]

/-- A request that is dropped, refused, or no CLEAR_FAULTS takes no returning condition. -/
theorem judge_returning {src code : Nat} {body : List Byte} {s : State} (back : Returning)
    (h : s.requestRefusal src code body ≠ none ∨ code ≠ codeClearFaults) :
    s.judge src code body back = s.judge src code body := by
  unfold State.judge
  cases r : s.requestRefusal src code body with
  | some a => rfl
  | none =>
    have other : code ≠ 15 := h.resolve_left (fun n => n r)
    show s.takeRequest src code body back = s.takeRequest src code body
    unfold State.takeRequest
    split <;> first | rfl | exact absurd rfl other

/-- STOP of a good length is judged even under DUPLICATE_STATION. -/
theorem arrive_stop {src : Nat} {code : Byte} {body : List Byte} {s : State} (h : s.receives = true) (h2 : src ≠ s.station)
    (h3 : ∃ p, s.countedPeers.find? (fun p => decide (p.station = src)) = some p ∧ (p.kind = .panel ∨ p.kind = .module))
    (st : code.toNat = codeStop)
    (len : requestLength code.toNat = some (body.length + 1)) :
    s.receive (s.requestFrame src code body) = s.reported ((s.heard.takeRequest src code.toNat body).reply_ src code) := by
  obtain ⟨p, h3, h4⟩ := h3
  have e1 : s.frameEnds.station = s.station := rfl
  have sr : s.heard.sourceRefusal src = none := by simp [State.sourceRefusal, h3, h4]
  simp [State.receive, h, State.receiveGood, State.requestFrame, h2, e1, State.takeFrame, State.arrive, frameEnds_leaveQuiet,
    State.judge, State.requestRefusal, sr, st ▸ len, st]

end Sys2Proof.Machine
end

