-- ==== Sys2Proof/Laws/Steps.lean ====
section
/-! SUPPORT. What a boiler request, a climate record, a ceiling and the first phase of a step leave and set. -/

namespace Sys2Proof.Machine

-- Each proof is done before the next begins, so that few are held in memory at once.
set_option Elab.async false

/-- A withdrawal leaves the steam generator. -/
@[simp] theorem withdraw_steam (w) (s : State) : (s.withdraw w).steam = s.steam := rfl

/-- A write request leaves the steam generator. -/
@[simp] theorem requestWrite_steam (s : State) : s.requestWrite.steam = s.steam := rfl

/-- A boiler state leaves the boiler request. -/
@[simp] theorem setBoiler_request (b) (s : State) : (s.setBoiler b).steam.request = s.steam.request := by
  unfold State.setBoiler; dsimp only; split <;> rfl

/-- The end of soak heating leaves the boiler request. -/
@[simp] theorem endSoak_request (s : State) : (s.endSoak).steam.request = s.steam.request := by
  unfold State.endSoak; split <;> rfl

/-- The start of soak heating leaves the boiler request. -/
@[simp] theorem startSoak_request (s : State) : (s.startSoak).steam.request = s.steam.request := by
  unfold State.startSoak; dsimp only; split <;> simp [State.mapSteam]

/-- A drain begun leaves the boiler request. -/
@[simp] theorem beginDrain_request (b) (s : State) : (s.beginDrain b).steam.request = s.steam.request := by
  unfold State.beginDrain; dsimp only [State.mapSteam]; split <;> simp

/-- The stroke event leaves the steam generator. -/
@[simp] theorem strokeEvent_steam (s : State) : (s.strokeEvent).steam = s.steam := by
  unfold State.strokeEvent; split <;> rfl

/-- The end of a fill leaves the boiler request. -/
@[simp] theorem fillEnds_request (s : State) : (s.fillEnds).steam.request = s.steam.request := by
  unfold State.fillEnds; dsimp only [State.mapSteam]
  split <;> simp [Steam.stopPump]
  split <;> simp

/-- The start of a fill leaves the boiler request. -/
@[simp] theorem startFill_request (s : State) : (s.startFill).steam.request = s.steam.request := by
  unfold State.startFill; dsimp only [State.mapSteam]
  split
  · rfl
  · split <;> simp

/-- A fill stopped leaves the boiler request. -/
@[simp] theorem stopFill_request (s : State) : (s.stopFill).steam.request = s.steam.request := by
  unfold State.stopFill; split <;> simp [State.mapSteam, Steam.stopPump]

/-- Service leaves the boiler request. -/
@[simp] theorem serve_request (s : State) : (s.serve).steam.request = s.steam.request := by
  unfold State.serve
  split
  · rfl
  · split <;> (try split) <;> (try split) <;> simp_all

/-- An owed drain cleared leaves the boiler request. -/
@[simp] theorem clearOwed_request (r) (w : Steam) : (w.clearOwed r).request = w.request := by
  unfold Steam.clearOwed; split <;> (try split) <;> rfl

/-- Leaving a request leaves the boiler request. -/
@[simp] theorem leaveRequest_request (r) (s : State) : (s.leaveRequest r).steam.request = s.steam.request := by
  unfold State.leaveRequest
  dsimp only
  repeat' split
  all_goals simp

/-- The request handed is the one in force. -/
@[simp] theorem handRequest_request (r) (s : State) : (s.handRequest r).steam.request = r := by
  unfold State.handRequest
  split
  · rename_i h; exact h.symm
  · simp [State.mapSteam]

/-- A request handed leaves the sequencer. -/
@[simp] theorem handRequest_seq (r) (s : State) : (s.handRequest r).seq = s.seq := (handRequest_does r s).only.seq

/-- A request handed leaves the store. -/
@[simp] theorem handRequest_store (r) (s : State) : (s.handRequest r).store = s.store := (handRequest_does r s).only.store

/-- A request handed leaves the climate regulator. -/
@[simp] theorem handRequest_climate (r) (s : State) : (s.handRequest r).climate = s.climate := (handRequest_does r s).only.climate

/-- A request handed leaves the fault set. -/
@[simp] theorem handRequest_faults (r) (s : State) : (s.handRequest r).faults = s.faults := (handRequest_does r s).only.faults

/-- A request handed leaves start-up. -/
@[simp] theorem handRequest_startup (r) (s : State) : (s.handRequest r).startup = s.startup := (handRequest_does r s).only.startup

/-- A request handed leaves the report unit. -/
@[simp] theorem handRequest_report (r) (s : State) : (s.handRequest r).report = s.report := (handRequest_does r s).only.report

/-- A request handed leaves the millilitres. -/
@[simp] theorem handRequest_millilitres (r) (s : State) : (s.handRequest r).steam.millilitres = s.steam.millilitres := (handRequest_does r s).only .millilitres (by decide)

/-- A request handed leaves the active run. -/
@[simp] theorem handRequest_activeRun (r) (s : State) : (s.handRequest r).activeRun = s.activeRun := by simp [State.activeRun]

/-- A step at the climate record changes the record, the integrators, the vent timer and the flap. -/
theorem recordStep_only (r) (s : State) : Only [.record, .integrators, .ventTimer, .flap] s (s.recordStep r) := (recordStep_does r s).only.mono

/-- A step at the climate record leaves the sequencer. -/
@[simp] theorem recordStep_seq (r) (s : State) : (s.recordStep r).seq = s.seq := (recordStep_only r s).seq

/-- A step at the climate record leaves the store. -/
@[simp] theorem recordStep_store (r) (s : State) : (s.recordStep r).store = s.store := (recordStep_only r s).store

/-- A step at the climate record leaves the steam generator. -/
@[simp] theorem recordStep_steam (r) (s : State) : (s.recordStep r).steam = s.steam := (recordStep_only r s).steam

/-- A step at the climate record leaves the fault set. -/
@[simp] theorem recordStep_faults (r) (s : State) : (s.recordStep r).faults = s.faults := (recordStep_only r s).faults

/-- A step at the climate record leaves the report unit. -/
@[simp] theorem recordStep_report (r) (s : State) : (s.recordStep r).report = s.report := (recordStep_only r s).report

/-- A step at the climate record leaves start-up. -/
@[simp] theorem recordStep_startup (r) (s : State) : (s.recordStep r).startup = s.startup := (recordStep_only r s).startup

/-- A step at the climate record leaves the account. -/
@[simp] theorem recordStep_scale (r) (s : State) : (s.recordStep r).scale = s.scale := (recordStep_only r s).scale

/-- The flap at a change of the record moves the command and the drive alone. -/
theorem flapAtRecord_climate (s : State) : ∃ a b, s.flapAtRecord.climate = { s.climate with flapCommand := a, flapDriven := b } := by
  unfold State.flapAtRecord State.driveFlap State.commandFlap State.mapClimate
  dsimp only
  split
  · exact ⟨_, _, rfl⟩
  · split <;> exact ⟨_, _, rfl⟩

/-- The climate regulator at a step, but for the flap. -/
theorem recordStep_climate (r) (s : State) : ∃ a b, (s.recordStep r).climate = { Climate.forStep r s.climate with flapCommand := a, flapDriven := b } :=
  flapAtRecord_climate (s.mapClimate (Climate.forStep r))

/-- The ceiling changes with the share engine and its announcements. -/
theorem updateCeiling_only (s : State) : Only [.ceiling, .sharing, .queue] s s.updateCeiling := (updateCeiling_does s).only.mono

/-- The ceiling leaves the sequencer. -/
@[simp] theorem updateCeiling_seq (s : State) : s.updateCeiling.seq = s.seq := (updateCeiling_only s).seq

/-- The ceiling leaves the store. -/
@[simp] theorem updateCeiling_store (s : State) : s.updateCeiling.store = s.store := (updateCeiling_only s).store

/-- The ceiling leaves the steam generator. -/
@[simp] theorem updateCeiling_steam (s : State) : s.updateCeiling.steam = s.steam := (updateCeiling_only s).steam

/-- The ceiling leaves the climate regulator. -/
@[simp] theorem updateCeiling_climate (s : State) : s.updateCeiling.climate = s.climate := (updateCeiling_only s).climate

/-- The ceiling leaves the fault set. -/
@[simp] theorem updateCeiling_faults (s : State) : s.updateCeiling.faults = s.faults := (updateCeiling_only s).faults

/-- The ceiling leaves the report unit. -/
@[simp] theorem updateCeiling_report (s : State) : s.updateCeiling.report = s.report := (updateCeiling_only s).report

/-- The ceiling leaves start-up. -/
@[simp] theorem updateCeiling_startup (s : State) : s.updateCeiling.startup = s.startup := (updateCeiling_only s).startup

/-- The ceiling leaves the account. -/
@[simp] theorem updateCeiling_scale (s : State) : s.updateCeiling.scale = s.scale := (updateCeiling_only s).scale

/-- The ceiling leaves the retained record. -/
@[simp] theorem updateCeiling_retained (s : State) : s.updateCeiling.retained = s.retained := (updateCeiling_only s).retained

/-- The active run gives the sequencer position and the ACTIVE slot. -/
theorem activeRun_parts {s : State} {a p} (h : s.activeRun = some (a, p)) : s.seq.run = some a ∧ s.store.slot a.slot = .active p := by
  unfold State.activeRun at h
  split at h
  · cases h
  · rename_i at_ hr
    split at h
    · rename_i q hq
      cases h
      refine ⟨hr, ?_⟩
      unfold Slot.activeProgram at hq
      split at hq <;> cases hq
      assumption
    · cases h

/-- A sequencer position at an ACTIVE slot is the active run. -/
theorem activeRun_of {s : State} {a p} (h : s.seq.run = some a) (h2 : s.store.slot a.slot = .active p) : s.activeRun = some (a, p) := by
  simp [State.activeRun, h, h2, Slot.activeProgram]

/-- The first phase of a RECIPE step (R124). -/
def firstPhase (r : StepRecord) : Phase := if r.promptIn.isSome then .promptIn else if r.mode.humid then .prepare
                else if r.preheat then .preheat else .count

/-- The step enters COUNT at once with its core probe not PRESENT (R129). -/
def probeLost (r : StepRecord) (s : State) : Prop := firstPhase r = .count ∧ r.endKind = some .core ∧ s.climate.coreStatus ≠ .present

/-- A step just admitted, before its first phase (R123). -/
def stepAdmitted (ix : SlotIx) (i : Nat) (r : StepRecord) (s : State) : State := ((s.mapSeq (Sequencer.forStep ix i (StepRecord.forWork r))).recordStep r).updateCeiling

/-- The sequencer at a step just admitted. -/
theorem stepAdmitted_seq (ix i r) (s : State) : (stepAdmitted ix i r s).seq = Sequencer.forStep ix i r.forWork s.seq := by
  simp [stepAdmitted, State.mapSeq]

/-- The store at a step just admitted. -/
theorem stepAdmitted_store (ix i r) (s : State) : (stepAdmitted ix i r s).store = s.store := by
  simp [stepAdmitted, State.mapSeq]

/-- The climate regulator at a step just admitted, but for the flap. -/
theorem stepAdmitted_climate (ix i r) (s : State) : ∃ a b, (stepAdmitted ix i r s).climate = { Climate.forStep r s.climate with flapCommand := a, flapDriven := b } := by
  simp only [stepAdmitted, updateCeiling_climate]
  exact recordStep_climate _ _

/-- The probe test leaves the store. -/
@[simp] theorem countProbe_store (r) (s : State) : (s.countProbe r).store = s.store := by unfold State.countProbe; split <;> rfl

/-- The probe test leaves the climate regulator. -/
@[simp] theorem countProbe_climate (r) (s : State) : (s.countProbe r).climate = s.climate := by unfold State.countProbe; split <;> rfl

/-- The probe test leaves the steam generator. -/
@[simp] theorem countProbe_steam (r) (s : State) : (s.countProbe r).steam = s.steam := by unfold State.countProbe; split <;> rfl

/-- The probe test leaves the report unit. -/
@[simp] theorem countProbe_report (r) (s : State) : (s.countProbe r).report = s.report := by unfold State.countProbe; split <;> rfl

/-- The prompt of COUNT leaves the store. -/
@[simp] theorem countPrompt_store (r) (s : State) : (s.countPrompt r).store = s.store := by unfold State.countPrompt; split <;> rfl

/-- The prompt of COUNT leaves the climate regulator. -/
@[simp] theorem countPrompt_climate (r) (s : State) : (s.countPrompt r).climate = s.climate := by unfold State.countPrompt; split <;> rfl

/-- The prompt of COUNT leaves the steam generator. -/
@[simp] theorem countPrompt_steam (r) (s : State) : (s.countPrompt r).steam = s.steam := by unfold State.countPrompt; split <;> rfl

/-- The prompt of COUNT leaves the report unit. -/
@[simp] theorem countPrompt_report (r) (s : State) : (s.countPrompt r).report = s.report := by unfold State.countPrompt; split <;> rfl

/-- A phase set leaves the store. -/
@[simp] theorem setPhase_store (p) (s : State) : (s.setPhase p).store = s.store := rfl

/-- A phase set leaves the climate regulator. -/
@[simp] theorem setPhase_climate (p) (s : State) : (s.setPhase p).climate = s.climate := rfl

/-- A phase set leaves the steam generator. -/
@[simp] theorem setPhase_steam (p) (s : State) : (s.setPhase p).steam = s.steam := rfl

/-- A phase set leaves the report unit. -/
@[simp] theorem setPhase_report (p) (s : State) : (s.setPhase p).report = s.report := rfl

/-- A prompt that waits leaves the store. -/
@[simp] theorem waitPrompt_store (p) (s : State) : (s.waitPrompt p).store = s.store := rfl

/-- A prompt that waits leaves the climate regulator. -/
@[simp] theorem waitPrompt_climate (p) (s : State) : (s.waitPrompt p).climate = s.climate := rfl

/-- A prompt that waits leaves the steam generator. -/
@[simp] theorem waitPrompt_steam (p) (s : State) : (s.waitPrompt p).steam = s.steam := rfl

/-- A prompt that waits leaves the report unit. -/
@[simp] theorem waitPrompt_report (p) (s : State) : (s.waitPrompt p).report = s.report := rfl

/-- The first phase of a step: the blocks it leaves and the boiler request it hands. -/
theorem toPromptIn_blocks (r : StepRecord) (s : State) :
   let t := s.toPromptIn r
   t.store = s.store ∧ t.climate = s.climate ∧ t.report = s.report ∧ t.steam.request = (if firstPhase r = .promptIn then .none else r.mode.request)
   ∧ t.steam.millilitres = s.steam.millilitres := by
  simp only [State.toPromptIn, State.toPrepare, State.toPreheat, State.toCount, firstPhase]
  by_cases h1 : r.promptIn.isSome = true <;> by_cases h2 : r.mode.humid = true <;> by_cases h3 : r.preheat = true <;> simp [h1, h2, h3]
  all_goals (cases hm : r.mode <;> simp [hm, Mode.humid, Mode.request] at h2 ⊢)

/-- The first phase of a step at the sequencer. -/
theorem toPromptIn_seq (r : StepRecord) (s : State) (a : Position) (h : s.seq.run = some a) (hp : s.seq.prompt = none) (ht : s.seq.promptTimer = none) :
   let t := s.toPromptIn r
   t.seq.run = some { a with phase := firstPhase r }
   ∧ (¬probeLost r s → t.seq.workKind = s.seq.workKind ∧ t.seq.probeHold = s.seq.probeHold ∧ t.seq.workDuration = s.seq.workDuration ∧ t.seq.elapsed = s.seq.elapsed)
   ∧ (probeLost r s → ∀ d, r.fallback = some d → t.seq.workKind = some .timed ∧ t.seq.workDuration = some d ∧ t.seq.probeHold = s.seq.probeHold ∧ t.seq.elapsed = 0)
   ∧ (probeLost r s → r.fallback = none → t.seq.workKind = s.seq.workKind ∧ t.seq.probeHold = true ∧ t.seq.elapsed = s.seq.elapsed)
   ∧ (firstPhase r = .promptIn → t.seq.prompt = r.promptIn ∧ t.seq.promptTimer = some 0)
   ∧ (firstPhase r = .count → r.endKind = some .promptOnly → t.seq.prompt = r.promptOut ∧ t.seq.promptTimer = some 0)
   ∧ (firstPhase r ≠ .promptIn → ¬(firstPhase r = .count ∧ r.endKind = some .promptOnly) → t.seq.prompt = none ∧ t.seq.promptTimer = none)
   ∧ t.seq.pauseFlag = s.seq.pauseFlag ∧ t.seq.stopFlag = s.seq.stopFlag ∧ t.seq.interruption = s.seq.interruption := by
  simp only [State.toPromptIn, State.toPrepare, State.toPreheat, State.toCount, firstPhase, probeLost]
  by_cases h1 : r.promptIn.isSome = true
  · simp [h1, State.setPhase, State.waitPrompt, State.mapSeq, h, hp, ht]
  · by_cases h2 : r.mode.humid = true
    · simp [h1, h2, State.setPhase, State.mapSeq, h, hp, ht]
    · by_cases h3 : r.preheat = true
      · simp [h1, h2, h3, State.setPhase, State.mapSeq, h, hp, ht]
      · simp only [h1, h2, h3, if_false, Bool.false_eq_true]
        unfold State.countProbe State.countPrompt
        by_cases h4 : r.endKind = some .core
        · by_cases h5 : s.climate.coreStatus = .present
          · simp [h4, h5, State.setPhase, State.mapSeq, h, hp, ht]
          · cases h6 : r.fallback <;> simp [h4, h5, h6, State.setPhase, State.mapSeq, h, hp, ht, Sequencer.loseProbe]
        · by_cases h5 : r.endKind = some .promptOnly <;> simp [h4, h5, State.setPhase, State.waitPrompt, State.mapSeq, h, hp, ht]

end Sys2Proof.Machine
end

