-- ==== Sys2Proof/Laws/Crossings.lean ====
section
/-! SUPPORT. The ceiling and the run state by the blocks they read; a counted crossing as its counting and what its timers have reached. -/

namespace Sys2Proof.Machine

-- Each proof is done before the next begins, so that few are held in memory at once.
set_option Elab.async false

/-- The ceiling event leaves the load frame. -/
theorem ceilingEvent_load (s : State) : s.ceilingEvent.load = s.load := (ceilingEvent_does s).only.load

/-- The load frame with the ceiling that the situation gives. -/
theorem updateCeiling_load (s : State) : s.updateCeiling.load = { s.load with ceiling := s.ceilingNow } := by
  unfold State.updateCeiling
  split
  · rename_i h; rw [h]
  · rw [ceilingEvent_load]; rfl

/-- The run state depends on four blocks. -/
theorem runState_congr {s t : State} (h1 : t.seq = s.seq) (h2 : t.store = s.store) (h3 : t.climate = s.climate) (h4 : t.steam = s.steam) : t.runState = s.runState := by
  simp only [State.runState, State.hasActive, State.anyHold, State.doorHold, State.tankHold, State.probeHold, State.doorOpen, State.tankWait, State.drainInHand, State.tankPresent, State.activeRun, h1, h2, h3, h4]
  rfl

/-- The ceiling of the situation depends on these blocks. -/
theorem ceilingNow_congr {s t : State} (h1 : t.seq = s.seq) (h2 : t.store = s.store) (h3 : t.climate = s.climate) (h4 : t.steam = s.steam) (h5 : t.load.doorTimer = s.load.doorTimer)
   (h6 : t.startup = s.startup) (h7 : t.scale = s.scale) : t.ceilingNow = s.ceilingNow := by
  have := runState_congr h1 h2 h3 h4
  simp only [State.ceilingNow, State.suspended, this, State.activeStep, State.activeRun, h1, h2, State.doorMinute, h5, State.baseUnits, h6, State.scaleWarning, h7]
  rfl

/-- The interruption timer has no part in the run state. -/
theorem keepInterruption_runState (s : State) : s.keepInterruption.runState = s.runState := by rfl

/-- The interruption timer has no part in the ceiling. -/
theorem keepInterruption_ceilingNow (s : State) : s.keepInterruption.ceilingNow = s.ceilingNow := by rfl

/-- The ceiling has no part in what the situation gives. -/
theorem updateCeiling_ceilingNow (s : State) : s.updateCeiling.ceilingNow = s.ceilingNow := by
  apply ceilingNow_congr <;> simp [updateCeiling_load]

/-- After settling, the ceiling and the interruption timer follow the program. -/
theorem runSettle_follows (s : State) : s.runSettle.Follows := by
  unfold State.runSettle
  generalize s.settleTurns settleBound = t
  refine ⟨?_, ?_⟩
  · rw [keepInterruption_ceilingNow, updateCeiling_ceilingNow]
    show t.updateCeiling.load.ceiling = _
    rw [updateCeiling_load]
  · rw [keepInterruption_runState]
    show Option.isSome (if _ then _ else _) = true ↔ _
    split <;> simp_all

/-- A frame of nominal length ends without a fault. -/
theorem closeFrame_nominal (s : State) : s.closeFrame nominalFrameMs = s.endFrame := by
  unfold State.closeFrame
  rw [if_neg]
  simp [badFrameLength, nominalFrameMs]

/-- The end of a frame leaves the fault set. -/
theorem endFrame_faults (s : State) : s.endFrame.faults = s.faults := (endFrame_does s).only.faults

/-- A counted crossing is its counting and then what its timers have reached. -/
theorem crossing_eq {s : State} (h : s.crossingRuns = true) : s.crossing = s.crossed.fire s.secondDue := by
  have hs : s.startup.stage = .service := by
    simp [State.crossingRuns, State.inService] at h; exact h.1.1
  have hm : s.mainsOut = false := by
    simp [State.crossingRuns] at h; exact h.2
  unfold State.crossing
  rw [hs]
  dsimp only
  unfold State.crossed
  split
  · unfold State.boundaryCrossing
    rw [closeFrame_nominal]
    have : s.advanceLfsr.endFrame.mainsOut = false := by
      simp only [State.mainsOut, State.faultActive, endFrame_faults] at hm ⊢; exact hm
    simp only [this]; rfl
  · rfl

/-- What the timers reach, at a second. -/
theorem fire_second (s : State) : s.fire true = ((s.fireDrain.runSettle).fireVent.runSettle).secondEvent.examineDoor := by
  unfold State.fire; dsimp only; rw [if_pos rfl]

/-- What the timers reach: the drain first, then the rest. -/
theorem fire_rest (s : State) (b) : s.fire b = s.fireDrain.fireRest b := by
  rfl

/-- A second that is due is one of a counted crossing. -/
theorem secondDue_runs {s : State} (h : s.secondDue = true) : s.crossingRuns = true := by
  simp [State.secondDue] at h; exact h.1

/-- A crossing that is a second runs it on the state before it, and examines the door then. -/
theorem crossing_second {s : State} (h : s.secondDue = true) : s.crossing = s.beforeSecond.secondEvent.examineDoor := by
  rw [crossing_eq (secondDue_runs h), h, fire_second]; unfold State.beforeSecond; rfl

end Sys2Proof.Machine
end

