-- ==== Sys2Proof/Laws/Boiler.lean ====
section
/-! SUPPORT. The steam generator after strokes, the end of soak heating and of fills, a request left, and a drain begun. -/

namespace Sys2Proof.Machine

-- Each proof is done before the next begins, so that few are held in memory at once.
set_option Elab.async false

/-- The steam generator at a boiler state set. -/
theorem setBoiler_steam (b) (s : State) : (s.setBoiler b).steam = { s.steam with boiler := b } := by
  unfold State.setBoiler; dsimp only; split <;> rfl

/-- The steam generator without soak heating. -/
theorem endSoak_steam (s : State) : s.endSoak.steam = { s.steam with soakHeating := false } := by
  unfold State.endSoak; split
  · rfl
  · rename_i h; cases hs : s.steam; simp_all

/-- The steam generator at a fill stopped. -/
theorem stopFill_steam (s : State) : s.stopFill.steam = if s.steam.boiler = .filling then { s.steam.stopPump with boiler := s.stillState } else s.steam := by
  unfold State.stopFill; split
  · rw [setBoiler_steam]; rfl
  · rfl

/-- The steam generator as a request is left for NONE. -/
theorem leaveNone_steam (s : State) : (s.leaveRequest .none).steam =
   (if s.steam.boiler = .filling then { s.steam.stopPump with boiler := s.stillState, soakHeating := false } else if s.steam.boiler.working then { s.steam with boiler := .off, soakHeating := false } else { s.steam with soakHeating := false}) := by
  unfold State.leaveRequest
  dsimp only
  simp only [reduceCtorEq, if_false, true_or, if_true, ne_eq, not_false_eq_true, decide_true, Bool.and_true]
  have e : s.endSoak.stopFill.steam = (if s.steam.boiler = .filling then { s.steam.stopPump with boiler := s.stillState, soakHeating := false } else { s.steam with soakHeating := false}) := by
    rw [stopFill_steam, endSoak_steam]
    have : s.endSoak.stillState = s.stillState := by simp [State.stillState, State.lowWet, endSoak_steam]
    rw [this]; split <;> rfl
  by_cases hf : s.steam.boiler = .filling
  · rw [if_neg]
    · rw [e, if_pos hf, if_pos hf]
    · rw [e, if_pos hf]; simp [State.stillState]; split <;> simp [BoilerState.working]
  · rw [if_neg hf] at e
    by_cases hw : s.steam.boiler.working = true
    · rw [if_pos (by rw [e]; simpa using hw), setBoiler_steam, e, if_neg hf, if_pos hw]
    · rw [if_neg (by rw [e]; simpa using hw), e, if_neg hf, if_neg hw]

/-- The steam generator as a request is left for any other: soak heating, a fill under NONE and DRAIN, and the working states
(R87, R95, R159). -/
theorem leaveRequest_steam (req : BoilerRequest) (s : State) :
    (s.leaveRequest req).steam =
      if s.steam.boiler = .filling ∧ (req = .none ∨ req = .drain) then
        { s.steam.stopPump with boiler := s.stillState, soakHeating := s.steam.soakHeating && decide (req = .soak) }
      else
        { s.steam with
          boiler := if s.steam.boiler.working && decide (req ≠ .steam) then .off else s.steam.boiler
          soakHeating := s.steam.soakHeating && decide (req = .soak) } := by
  unfold State.leaveRequest State.stopFill State.stillState State.lowWet Steam.stopPump
  cases hb : s.steam.boiler <;> cases req <;> by_cases hl : s.steam.low = some .wet <;> cases hs : s.steam.soakHeating <;>
    simp [endSoak_steam, setBoiler_steam, State.mapSteam, hb, hl, hs, BoilerState.working] <;>
    (cases hw : s.steam; simp_all)

/-- The owed drain that a request clears (R94). -/
theorem clearOwed_eq (req : BoilerRequest) (w : Steam) :
    w.clearOwed req =
      if req ≠ .none ∧ w.boiler ≠ .draining ∧ (w.owed = some .endOfProgram ∨ w.owed = some .timedOut) then
        { w with owed := none, drainStarted := false, drainServes := false, coolWait := none }
      else w := by
  unfold Steam.clearOwed; split <;> (try split) <;> simp_all

/-- At or above a temperature: a reading in use that is so. -/
theorem boilerAtLeast_iff (x : Int) (s : State) : s.boilerAtLeast x = true ↔ ∃ c, s.boilerInUse = some c ∧ x ≤ c := by
  unfold State.boilerAtLeast; split <;> simp_all

/-- Below a temperature: a reading in use that is so. -/
theorem boilerBelow_iff (x : Int) (s : State) : s.boilerBelow x = true ↔ ∃ c, s.boilerInUse = some c ∧ c < x := by
  unfold State.boilerBelow; split <;> simp_all

/-- Between working states, and where it stays, a boiler state set withdraws nothing. -/
theorem setBoiler_quiet {b : BoilerState} {s : State} (h : b.working = s.steam.boiler.working) :
    s.setBoiler b = { s with steam := { s.steam with boiler := b } } := by
  unfold State.setBoiler; dsimp only; rw [h]; cases s.steam.boiler.working <;> rfl

/-- Leaving a request for NONE keeps the account and the writes. -/
theorem leaveNone_keeps (s : State) : (s.leaveRequest .none).scale = s.scale ∧ (s.leaveRequest .none).retained = s.retained :=
  ⟨(leaveRequest_does _ s).only.scale, (leaveRequest_does _ s).only.retained⟩

/-- Nothing is served with no request. -/
theorem serve_noRequest (x : State) (hx : x.steam.request = .none) : x.serve = x := by unfold State.serve; simp [hx]

/-- NONE clears no owed drain. -/
theorem clearOwed_none (w : Steam) : w.clearOwed .none = w := by simp [Steam.clearOwed]

/-- A drain given up leaves the boiler, what is owed, and the used flag. -/
theorem dropDrain_fields (w : Steam) : w.dropDrain.boiler = w.boiler ∧ w.dropDrain.owed = w.owed ∧ w.dropDrain.used = w.used := by
  unfold Steam.dropDrain; split <;> simp

/-- NONE handed in place of another request ends fill, heating and soak (R87, R95). -/
theorem handNone_changes (s : State) (h : s.steam.request ≠ .none) :
   let t := s.handRequest .none
   t.steam.boiler ≠ .filling ∧ t.steam.boiler.working = false ∧ t.steam.soakHeating = false 
   ∧ t.scale = s.scale ∧ t.retained = s.retained ∧ t.steam.owed = s.steam.owed ∧ t.steam.used = s.steam.used := by
  unfold State.handRequest
  rw [if_neg (Ne.symm h)]
  dsimp only
  rw [serve_noRequest _ (by simp [State.mapSteam])]
  have r := leaveNone_keeps
  have hd := dropDrain_fields s.steam
  simp only [State.mapSteam, clearOwed_none] at *
  generalize hx : ({ s with steam := { s.steam.dropDrain with
      request := .none
      used := s.steam.dropDrain.used || (decide (BoilerRequest.none ≠ .none) && s.hasActive), rinsePass :=
          if BoilerRequest.none = .rinse then 0 else s.steam.dropDrain.rinsePass } } : State) = x
  have hb : x.steam.owed = s.steam.owed := by rw [← hx]; exact hd.2.1
  have hu : x.steam.used = s.steam.used := by rw [← hx]; simp [hd.2.2]
  have hsc : x.scale = s.scale := by rw [← hx]
  have hre : x.retained = s.retained := by rw [← hx]
  have hx' : ({ s with steam := { s.steam.dropDrain with
      request := .none
      used := s.steam.used || (decide (BoilerRequest.none ≠ .none) && s.hasActive), rinsePass :=
          if BoilerRequest.none = .rinse then 0 else s.steam.rinsePass } } : State) = x := by
    rw [← hx]; unfold Steam.dropDrain; split <;> rfl
  rw [hx']
  have st := leaveNone_steam x
  have key : (x.leaveRequest .none).steam.boiler ≠ .filling ∧ (x.leaveRequest .none).steam.boiler.working = false ∧ (x.leaveRequest .none).steam.soakHeating = false
     ∧ (x.leaveRequest .none).steam.owed = x.steam.owed ∧ (x.leaveRequest .none).steam.used = x.steam.used := by
    rw [st]
    by_cases h1 : x.steam.boiler = .filling
    · rw [if_pos h1]; simp only [State.stillState, Steam.stopPump]; split <;> simp [BoilerState.working]
    · rw [if_neg h1]
      by_cases h2 : x.steam.boiler.working = true
      · rw [if_pos h2]; simp [BoilerState.working]
      · rw [if_neg h2]; simp [h1, h2]
  exact ⟨key.1, key.2.1, key.2.2.1, (r x).1.trans hsc, (r x).2.trans hre, key.2.2.2.1.trans hb, key.2.2.2.2.trans hu⟩

/-- NONE handed keeps the account, the writes, what is owed and the used flag. -/
theorem handNone_keeps (s : State) : let t := s.handRequest .none
   t.scale = s.scale ∧ t.retained = s.retained ∧ t.steam.owed = s.steam.owed ∧ t.steam.used = s.steam.used := by
  by_cases h : s.steam.request = .none
  · simp [State.handRequest, h]
  · exact (handNone_changes s h).2.2.2

/-- A boiler that does not work is in none of the working states. -/
theorem not_working {b : BoilerState} (h : b.working = false) : b ≠ .heating ∧ b ≠ .ready ∧ b ≠ .steaming := by
  cases b <;> simp_all [BoilerState.working]

/-- A drain begun: what it keeps, and the boiler (R91). -/
theorem beginDrain_fields (b) (s : State) : (s.beginDrain b).scale = s.scale ∧ (s.beginDrain b).retained = s.retained ∧ (s.beginDrain b).steam.owed = s.steam.owed ∧ (s.beginDrain b).steam.used = s.steam.used ∧ (s.beginDrain b).steam.soakHeating = false ∧ (s.beginDrain b).steam.boiler = (if s.steam.boiler.working then .off else s.steam.boiler) := by
  have : ∀ x : State, x.endSoak.scale = x.scale ∧ x.endSoak.retained = x.retained := by intro x; unfold State.endSoak; split <;> exact ⟨rfl, rfl⟩
  have this2 : ∀ x : State, (x.setBoiler .off).scale = x.scale ∧ (x.setBoiler .off).retained = x.retained := by intro x; unfold State.setBoiler; dsimp only; split <;> exact ⟨rfl, rfl⟩
  unfold State.beginDrain; dsimp only [State.mapSteam]; split <;> simp_all [endSoak_steam, setBoiler_steam]

/-- A stroke outside the first of a descale FILL is no event. -/
theorem strokeEvent_no {s : State} (h : ¬(s.steam.request = .fill ∧ s.scale.rinseOwed = false)) : s.strokeEvent = s := by
  unfold State.strokeEvent; exact if_neg h

/-- The first stroke of a descale FILL (R154). -/
theorem strokeEvent_yes {s : State} (h : s.steam.request = .fill ∧ s.scale.rinseOwed = false) : s.strokeEvent = 
   (s.mapScale (fun a => { a with rinseOwed := true, drainOnStop := true })).requestWrite := by
  unfold State.strokeEvent; exact if_pos h

/-- What a stroke that begins changes (R88, R154). -/
theorem beginStroke_changes (s : State) : 
    let under := s.steam.request = .fill ∧ s.scale.rinseOwed = false
    let t := s.beginStroke;
      t.steam.stroke = .running 0 ∧ t.steam.strokes = s.steam.strokes + 1 ∧ t.steam.fillWait = s.steam.fillWait
      ∧ (under → t.scale = { s.scale with rinseOwed := true, drainOnStop := true }
          ∧ t.retained =
              s.retained.request ⟨s.scale.hardness, s.scale.load, true, s.scale.soakCount⟩)
      ∧ (¬under → t.scale = s.scale ∧ t.retained = s.retained) := by
  dsimp only
  refine ⟨by simp [State.beginStroke, State.mapSteam], by simp [State.beginStroke, State.mapSteam], by simp [State.beginStroke, State.mapSteam], ?_, ?_⟩
  · intro h; unfold State.beginStroke; rw [strokeEvent_yes (by exact h)]; exact ⟨rfl, rfl⟩
  · intro h; unfold State.beginStroke; rw [strokeEvent_no (by exact h)]; exact ⟨rfl, rfl⟩

/-- Counting leaves the boiler, its strokes, its request and the account. -/
theorem countCycle_boilerKept (s : State) : let v := s.countCycle
   v.steam.boiler = s.steam.boiler ∧ v.suspended = s.suspended ∧ v.steam.stroke = s.steam.stroke ∧ v.steam.strokes = s.steam.strokes
   ∧ v.scale = s.scale ∧ v.steam.request = s.steam.request := by
  refine ⟨rfl, ?_, rfl, rfl, rfl, rfl⟩
  simp only [State.suspended]
  congr 1

end Sys2Proof.Machine
end

