-- ==== Sys2Proof/Laws/Records.lean ====
section
/-! SUPPORT. A fault record after its condition arises, goes or is cleared. -/

namespace Sys2Proof.Machine

-- Each proof is done before the next begins, so that few are held in memory at once.
set_option Elab.async false

/-- A record replaced. -/
theorem get_set_same (f : FaultSet) (k r) : (f.set k r).get k = r := by cases k <;> rfl

/-- Another record is left. -/
theorem get_set_ne (f : FaultSet) {k j} (r) (h : j ≠ k) : (f.set k r).get j = f.get j := by
  cases k <;> cases j <;> first | exact absurd rfl h | rfl

/-- An outage changes no record but its own. -/
theorem fault_notin_outage (k) : Aspect.fault k ∉ outageAspects ++ runAspects := by cases k <;> decide

/-- The effects of a record leave the records. -/
theorem faultBegins_get (k j) (s : State) : (s.faultBegins k).faults.get j = s.faults.get j := by
  have h : Same (.fault j) s (s.faultBegins k) := by
    by_cases hm : k = .mains
    · subst hm; exact (mainsBegins_does s).only _ (fault_notin_outage j)
    · exact (faultBegins_does hm s).only _ (by cases j <;> decide)
  exact h

/-- The record of a condition that arises. -/
theorem raise_get_same (k) (s : State) : (s.raise k).faults.get k = (s.faults.get k).arise := by
  unfold State.raise; split
  · simp [State.setFault, State.mapFaults]
  · rw [faultBegins_get]; simp [State.setFault, State.mapFaults]

/-- The other records at a condition that arises. -/
theorem raise_get_ne {k j} (s : State) (h : j ≠ k) : (s.raise k).faults.get j = s.faults.get j := by
  unfold State.raise; split
  · simp [State.setFault, State.mapFaults, get_set_ne _ _ h]
  · rw [faultBegins_get]; simp [State.setFault, State.mapFaults, get_set_ne _ _ h]

/-- The end of a record leaves the records. -/
theorem faultEnds_get (k j) (s : State) : (s.faultEnds k).faults.get j = s.faults.get j := by
  have h : Same (.fault j) s (s.faultEnds k) := (anyFaultEnds_does k s).only _ (by cases j <;> decide)
  exact h

/-- The record released. -/
theorem release_get_same (k f) (s : State) : (s.release k f).faults.get k = f (s.faults.get k) := by
  unfold State.release; dsimp only; split
  · rw [faultEnds_get]; simp [State.setFault, State.mapFaults]
  · simp [State.setFault, State.mapFaults]

/-- The other records at a release. -/
theorem release_get_ne {k j} (f) (s : State) (h : j ≠ k) : (s.release k f).faults.get j = s.faults.get j := by
  unfold State.release; dsimp only; split
  · rw [faultEnds_get]; simp [State.setFault, State.mapFaults, get_set_ne _ _ h]
  · simp [State.setFault, State.mapFaults, get_set_ne _ _ h]

/-- A record among several that are cleared. -/
theorem clearFaults_list (k : FaultKind) : ∀ (ks : List FaultKind) (s : State), ks.Nodup →
   (ks.foldl (fun t j => t.release j FaultRecord.cleared) s).faults.get k = if k ∈ ks then (s.faults.get k).cleared else s.faults.get k
  | [], s, _ => by simp
  | j :: ks, s, h => by
    rw [List.nodup_cons] at h
    simp only [List.foldl_cons, List.mem_cons]
    rw [clearFaults_list k ks _ h.2]
    by_cases hj : k = j
    · subst hj; simp [h.1, release_get_same]
    · simp [hj, release_get_ne _ _ hj]

/-- A record after CLEAR_FAULTS (R173). -/
theorem clearFaults_get (k) (s : State) : s.clearFaults.faults.get k = (s.faults.get k).cleared := by
  unfold State.clearFaults
  rw [clearFaults_list k _ s (by decide), if_pos (by cases k <;> decide)]

/-- What is left due changes no record. -/
theorem runSettle_get (k) (s : State) : s.runSettle.faults.get k = s.faults.get k := by
  have h : Same (.fault k) s s.runSettle := (runSettle_does s).only _ (by cases k <;> decide)
  exact h

/-- The records where a condition may return with a CLEAR_FAULTS. -/
theorem returnsTo_get (k j) (back : Bool) (before s : State) :
    (s.returnsTo k back before).faults.get j =
      if (j = k ∧ back = true) ∧ (before.faults.get k).active = true ∧ (before.faults.get k).latched = true then
        (s.faults.get j).arise
      else s.faults.get j := by
  unfold State.returnsTo
  by_cases c : (back && (before.faults.get k).active && (before.faults.get k).latched) = true
  · rw [if_pos c, runSettle_get]
    simp only [Bool.and_eq_true, and_assoc] at c
    by_cases e : j = k
    · subst e; rw [raise_get_same, if_pos ⟨⟨rfl, c.1⟩, c.2⟩]
    · rw [raise_get_ne s e, if_neg (fun a => e a.1.1)]
  · rw [if_neg c]
    simp only [Bool.and_eq_true, and_assoc] at c
    rw [if_neg (fun a => c ⟨a.1.2, a.2⟩)]

/-- The records after a CLEAR_FAULTS: a latched one is cleared, or active again where its condition returns. -/
theorem takeClear_get (back : Returning) (k) (s : State) :
    (s.takeClear back).faults.get k =
      if ((k = .cavityOverheat ∧ back.cavityOverheat = true) ∨ (k = .boilerDry ∧ back.boilerDry = true))
          ∧ (s.faults.get k).active = true ∧ (s.faults.get k).latched = true then
        (s.faults.get k).cleared.arise
      else (s.faults.get k).cleared := by
  unfold State.takeClear
  rw [returnsTo_get, returnsTo_get, runSettle_get, clearFaults_get]
  by_cases h : k = .cavityOverheat <;> by_cases d : k = .boilerDry
  · subst h; exact absurd d (by decide)
  all_goals simp [h, d]

end Sys2Proof.Machine
end

