-- ==== Sys2Proof/Laws/Reports.lean ====
section
/-! SUPPORT. The pages of a report and of a QUERY answer, the codes of its fields, and what a report handed changes. -/

namespace Sys2Proof.Machine

-- Each proof is done before the next begins, so that few are held in memory at once.
set_option Elab.async false

/-! ## Pages (R196) -/

/-- The pieces of a list, each of one size, the last padded with 0. -/
theorem chunks_eq (size : Nat) (hs : 0 < size) (fuel : Nat) (bytes : List Byte) (h1 : 1 ≤ bytes.length)
    (h2 : bytes.length ≤ size * fuel) :
    chunks size fuel bytes =
      (List.range ((bytes.length + (size - 1)) / size)).map
        (fun i => (List.range size).map (fun j => bytes.getD (i * size + j) 0#8)) := by
  induction fuel generalizing bytes with
  | zero => simp at h2; simp [h2] at h1
  | succ n ih =>
    unfold chunks
    split
    · rename_i h
      have one : (bytes.length + (size - 1)) / size = 1 := by
        rw [Nat.div_eq_iff hs]; omega
      rw [one]
      simp only [List.range_one, List.map_cons, List.map_nil, Nat.zero_mul, Nat.zero_add, List.cons.injEq, and_true]
      apply List.ext_getElem
      · simp; omega
      · intro i h3 h4
        simp only [List.getElem_map, List.getElem_range, List.getD_eq_getElem?_getD]
        rw [List.getElem_append]
        split
        · rename_i h5; simp [h5]
        · rename_i h5; simp [Nat.le_of_not_lt h5]
    · rename_i h
      have count : (bytes.length + (size - 1)) / size = ((bytes.drop size).length + (size - 1)) / size + 1 := by
        rw [List.length_drop, ← Nat.add_div_right _ hs]; congr 1; omega
      rw [count, List.range_succ_eq_map, List.map_cons, List.map_map, ih]
      · congr 1
        · apply List.ext_getElem
          · simp; omega
          · intro i h3 h4
            simp only [List.length_map, List.length_range] at h4
            simp [List.getElem_take]
            rw [List.getElem?_eq_getElem (by omega)]; rfl
        · apply List.map_congr_left
          intro i _
          apply List.map_congr_left
          intro j _
          simp only [List.getD_eq_getElem?_getD, List.getElem?_drop]
          congr 2
          rw [Nat.succ_mul]; omega
      · simp; omega
      · have := Nat.mul_succ size n
        simp; omega

/-- The pages of contents that fit in sixteen of them. -/
theorem pages_eq (lead : List Byte) (size : Nat) (hs : 0 < size) (bytes : List Byte) (h1 : 1 ≤ bytes.length)
    (h2 : bytes.length ≤ size * 16) :
    pages lead size bytes =
      (List.range ((bytes.length + (size - 1)) / size)).map (fun i =>
        lead ++ byteOf (i * 16 + (bytes.length + (size - 1)) / size)
          :: (List.range size).map (fun j => bytes.getD (i * size + j) 0#8)) := by
  unfold pages
  simp only [chunks_eq size hs 16 bytes h1 h2, List.length_map, List.length_range]
  apply List.ext_getElem
  · simp
  · intro i h3 h4
    simp

/-! ## Codes (R196): the place of each value in its row of the layout -/

/-- The mode codes (R195). -/
theorem mode_code (m : Mode) :
    [Mode.convection, .topBottom, .grill, .bottomHeat, .steam, .combi, .reheat, .proof, .keepWarm, .wait, .drain, .fill, .soak,
      .rinse].idxOf m = m.code := by cases m <;> rfl

/-- The core status codes. -/
theorem core_code (c : CoreStatus) : [CoreStatus.absent, .present, .shorted].idxOf c = c.code := by cases c <;> rfl

/-- The boiler state codes. -/
theorem boiler_code (b : BoilerState) :
    [BoilerState.empty, .filling, .heating, .ready, .steaming, .draining, .standing, .off].idxOf b = b.code := by
  cases b <;> rfl

/-- The share state codes. -/
theorem share_code (h : ShareState) : [ShareState.listen, .steady, .asking, .isolated, .unshared, .quiet].idxOf h = h.code := by
  cases h <;> rfl

/-- The phase codes. -/
theorem phase_code (p : Phase) : [Phase.promptIn, .prepare, .preheat, .count, .promptOut, .vent].idxOf p = p.code := by
  cases p <;> rfl

/-- The end kind codes. -/
theorem endKind_code (e : EndKind) : [EndKind.timed, .banded, .core, .promptOnly].idxOf e = e.code := by cases e <;> rfl

/-- The answer codes. -/
theorem answer_code (a : AnswerCode) :
    [AnswerCode.ok, .clamped, .busy, .notReady, .notLoading, .badMode, .badField, .badIndex, .outOfOrder, .notOriginator,
      .notPermitted, .unknownSource, .scaleLock, .rinseOwed, .faultBlock, .stalePrompt, .noProgram].idxOf a = a.number := by
  cases a <;> rfl

/-- The abort cause codes. -/
theorem abort_code (c : AbortCause) : [AbortCause.stopped, .fault, .timeout].idxOf c = c.code := by cases c <;> rfl

/-- The run state codes. -/
theorem run_code (v : RunState) : 1 + [RunState.running, .held, .paused, .stopping].idxOf v = runStateCode (some v) := by
  cases v <;> rfl

/-! ## Handing (R181) -/

/-- A report handed once start-up has reached LISTEN. -/
theorem handReport_inService {s : State} (h : s.inService = true) (k : ReportKind) :
    s.handReport k =
      { s with bus := s.bus.hand (.report k) (reportFrames (s.contents k)), freeIndex := s.freeIndex + 16 } := by
  unfold State.handReport
  rw [if_pos h]
  rfl

/-- No report is handed before. -/
theorem handReport_before {s : State} (h : s.inService = false) (k : ReportKind) : s.handReport k = s := by
  unfold State.handReport
  rw [h]
  rfl

end Sys2Proof.Machine
end

