-- ==== Sys2Proof/Laws/Settle.lean ====
section
/-! SUPPORT. What is left due within an event: every turn of it leaves less, so that the turns allowed are enough. -/

namespace Sys2Proof.Machine

-- Each proof is done before the next begins, so that few are held in memory at once.
set_option Elab.async false

/-! ## What is left -/

/-- The steps a slot has yet to complete, given the index of the current one; a READY slot has its start to come as well. -/
def Slot.stepsLeft (current : Nat) : Slot → Nat
  | .ready p => p.stepCount + 1
  | .active p => p.stepCount - current
  | .empty => 0
  | .loading _ => 0
  | .done _ _ => 0

/-- The index of the current step. -/
def State.currentStep (s : State) : Nat :=
  match s.seq.run with
  | some at_ => at_.step
  | none => 0

/-- The steps that both slots have yet to complete. -/
def State.stepsLeft (s : State) : Nat := s.store.slot0.stepsLeft s.currentStep + s.store.slot1.stepsLeft s.currentStep

/-- What one step can leave due beside its completion: the end of PREPARE, a completion handed, a valve that opens. -/
def State.dueLeft (s : State) : Nat :=
  bitIf (decide (s.phase = some .prepare)) 4 + bitIf s.steam.handed.isSome 2 + bitIf s.steam.drainStarted 1

/-- A bound on the turns to come. -/
def State.turnsLeft (s : State) : Nat := 8 * s.stepsLeft + s.dueLeft

/-- A bit is worth at most its weight. -/
theorem bitIf_le (b : Bool) (weight : Nat) : bitIf b weight ≤ weight := by
  unfold bitIf; split <;> omega

/-- Beside its completion a step leaves fewer than eight turns. -/
theorem dueLeft_le (s : State) : s.dueLeft ≤ 7 := by
  have := bitIf_le (decide (s.phase = some .prepare)) 4
  have := bitIf_le s.steam.handed.isSome 2
  have := bitIf_le s.steam.drainStarted 1
  unfold State.dueLeft
  omega

/-- A completed step leaves fewer turns. -/
theorem turnsLeft_of_steps {s t : State} (h : t.stepsLeft < s.stepsLeft) : t.turnsLeft < s.turnsLeft := by
  have := dueLeft_le t
  unfold State.turnsLeft
  omega

/-- A slot that is not ACTIVE has steps left whatever the current step. -/
theorem stepsLeft_inactive {v : Slot} (h : v.isActive = false) (m n : Nat) : v.stepsLeft m = v.stepsLeft n := by
  cases v with
  | active p => simp [Slot.isActive, Slot.activeProgram] at h
  | empty => rfl
  | loading p => rfl
  | ready p => rfl
  | done p o => rfl

/-- The steps left, with one slot put first. -/
theorem stepsLeft_at (s : State) (ix : SlotIx) :
    s.stepsLeft = (s.store.slot ix).stepsLeft s.currentStep + (s.store.slot ix.other).stepsLeft s.currentStep := by
  cases ix
  · rfl
  · exact Nat.add_comm _ _

/-- The slots and the step decide what is left of the steps. -/
theorem stepsLeft_congr {s t : State} (slots : Same .slots s t) (step : t.currentStep = s.currentStep) :
    t.stepsLeft = s.stepsLeft := by
  have e := Prod.mk.inj slots
  have f := Prod.mk.inj e.2
  unfold State.stepsLeft
  rw [step, e.1, f.1]

/-! ## Phases -/

/-- The probe test leaves the sequencer's position. -/
@[simp] theorem countProbe_run (r : StepRecord) (s : State) : (s.countProbe r).seq.run = s.seq.run := by
  unfold State.countProbe State.mapSeq Sequencer.loseProbe
  split
  · dsimp only; split <;> rfl
  · rfl

/-- The prompt of COUNT leaves the sequencer's position. -/
@[simp] theorem countPrompt_run (r : StepRecord) (s : State) : (s.countPrompt r).seq.run = s.seq.run := by
  unfold State.countPrompt; split <;> rfl

/-- A phase set at the sequencer's position. -/
@[simp] theorem setPhase_run (p : Phase) (s : State) :
    (s.setPhase p).seq.run = s.seq.run.map (fun at_ => { at_ with phase := p }) := rfl

/-- A prompt that waits leaves the sequencer's position. -/
@[simp] theorem waitPrompt_run (code) (s : State) : (s.waitPrompt code).seq.run = s.seq.run := rfl

/-- Drain-on-stop leaves the sequencer. -/
@[simp] theorem rinseEntry_seq (r : StepRecord) (s : State) : (s.rinseEntry r).seq = s.seq := by
  unfold State.rinseEntry; split <;> rfl

/-- Drain-on-stop leaves the store. -/
@[simp] theorem rinseEntry_store (r : StepRecord) (s : State) : (s.rinseEntry r).store = s.store := by
  unfold State.rinseEntry; split <;> rfl

/-- Entry to COUNT moves the phase alone, of position and slots. -/
theorem toCount_position (r : StepRecord) (s : State) :
    (s.toCount r).store = s.store ∧ (s.toCount r).seq.run = s.seq.run.map (fun at_ => { at_ with phase := .count }) := by
  simp [State.toCount]

/-- The end of PREPARE moves the phase alone, of position and slots. -/
theorem toPreheat_position (r : StepRecord) (s : State) :
    (s.toPreheat r).store = s.store
      ∧ (s.toPreheat r).seq.run
        = s.seq.run.map (fun at_ => { at_ with phase := if r.preheat then .preheat else .count }) := by
  unfold State.toPreheat
  split
  · simp [*]
  · simpa [*] using toCount_position r s

/-- Neither entry to COUNT nor that to PREHEAT moves the interruption timer. -/
theorem toPreheat_interruption (r : StepRecord) (s : State) :
    (s.toPreheat r).seq.interruption = s.seq.interruption := by
  have probe : ∀ t : State, (t.countProbe r).seq.interruption = t.seq.interruption := by
    intro t
    unfold State.countProbe State.mapSeq Sequencer.loseProbe
    split
    · dsimp only; split <;> rfl
    · rfl
  have prompt : ∀ t : State, (t.countPrompt r).seq.interruption = t.seq.interruption := by
    intro t
    unfold State.countPrompt
    split <;> rfl
  have phase : ∀ (p : Phase) (t : State), (t.setPhase p).seq.interruption = t.seq.interruption := fun _ _ => rfl
  unfold State.toPreheat State.toCount
  split <;> simp [probe, prompt, phase]

/-- Entry to the first phase moves the phase alone, of position and slots. -/
theorem toPromptIn_position (r : StepRecord) (s : State) :
    (s.toPromptIn r).store = s.store
      ∧ ∃ p : Phase, (s.toPromptIn r).seq.run = s.seq.run.map (fun at_ => { at_ with phase := p }) := by
  unfold State.toPromptIn
  split
  · exact ⟨by simp, .promptIn, by simp⟩
  · unfold State.toPrepare
    split
    · exact ⟨by simp, .prepare, by simp⟩
    · exact ⟨(toPreheat_position r s).1, _, (toPreheat_position r s).2⟩

/-! ## Steps -/

/-- A step of a complete program is there. -/
theorem step_some {p : Program} (legal : p.Legal) (full : p.complete = true) {i : Nat} (lt : i < p.stepCount) :
    ∃ r, p.step i = some r := by
  have h : i < p.steps.length := legal.1 ▸ lt
  have some := List.all_eq_true.mp full _ (List.getElem_mem h)
  obtain ⟨r, e⟩ := Option.isSome_iff_exists.mp some
  exact ⟨r, by simp [Program.step, List.getElem?_eq_getElem h, e]⟩

/-- A step admitted leaves the slots, and is the current one. -/
theorem admitStep_left (ix : SlotIx) (p : Program) (i : Nat) (r : StepRecord) (s : State) :
    (s.admitStep ix p i r).store = s.store ∧ (s.admitStep ix p i r).currentStep = i := by
  unfold State.admitStep State.currentStep
  cases p.kind
  · obtain ⟨st, ph, run⟩ := toPromptIn_position r (stepAdmitted ix i r s)
    refine ⟨st.trans (stepAdmitted_store ix i r s), ?_⟩
    rw [stepAdmitted_seq] at run
    exact (congrArg (fun o : Option Position => match o with
      | some at_ => at_.step
      | none => 0) run).trans rfl
  · obtain ⟨st, run⟩ := toCount_position r ((stepAdmitted ix i r s).rinseEntry r)
    refine ⟨(st.trans (rinseEntry_store _ _)).trans (stepAdmitted_store ix i r s), ?_⟩
    rw [rinseEntry_seq, stepAdmitted_seq] at run
    exact (congrArg (fun o : Option Position => match o with
      | some at_ => at_.step
      | none => 0) run).trans rfl

/-- The slots after the end of a program: DONE in the place of the ACTIVE one. -/
theorem endProgram_slots (o : ProgramOutcome) {s : State} {at_ : Position} {p : Program} (h : s.activeRun = some (at_, p)) :
    Same .slots (s.mapStore (Store.finish at_.slot p o)) (s.endProgram o) := by
  unfold State.endProgram
  rw [h]
  have idle : ∀ t : State, Does [.program] [.store] t (t.mapSeq Sequencer.idle) := by
    intro t
    refine ⟨by intro a n; cases a <;> first | exact absurd (by decide) n | rfl, fun b n => ?_⟩
    cases b
    case seq => exact idle_legal
    all_goals first | exact absurd (by decide) n | exact id | exact fun _ => id
  exact ((((((((recordNone_does _).seq (releaseBoiler_does _)).seq (idle _)).seq (clearHanded_does _)).seq
    (clearDrainOnStop_does _)).seq (requestWrite_does _)).seq (withdraw_does _ _)).seq (updateCeiling_does _)).same .slots
    (by decide)

/-- The end of a program leaves the steps of the other slot. -/
theorem endProgram_left (o : ProgramOutcome) {s : State} {at_ : Position} {p : Program} (legal : s.StoreLegal)
    (h : s.activeRun = some (at_, p)) :
    (s.endProgram o).stepsLeft + (p.stepCount - at_.step) = s.stepsLeft ∧ at_.step < p.stepCount := by
  obtain ⟨run, act⟩ := activeRun_slot h
  have lt : at_.step < p.stepCount := by
    have l := legal.2.2
    unfold RunLegal at l
    rw [run] at l
    exact l.1 p (by simp [act, Slot.activeProgram])
  refine ⟨?_, lt⟩
  have off := other_inactive legal act
  have e := Prod.mk.inj (endProgram_slots o h)
  have f := Prod.mk.inj e.2
  have cur : s.currentStep = at_.step := by unfold State.currentStep; rw [run]
  rw [stepsLeft_at s at_.slot, stepsLeft_at (s.endProgram o) at_.slot, act, cur,
    stepsLeft_inactive off at_.step (s.endProgram o).currentStep]
  cases hs : at_.slot <;> rw [hs] at e f <;>
    simp [Store.slot, SlotIx.other, e.1, f.1, State.mapStore, Store.finish, Store.setSlot, Slot.stepsLeft] <;> omega

/-- A step entered in the ACTIVE slot leaves no more steps than the slot has from it on. -/
theorem enterStep_left {at_ : Position} {p : Program} {i : Nat} {s : State} (legal : s.StoreLegal)
    (h : s.activeRun = some (at_, p)) (lt : i < p.stepCount) :
    (s.enterStep at_.slot p i).stepsLeft
      ≤ (p.stepCount - i) + (s.store.slot at_.slot.other).stepsLeft s.currentStep := by
  obtain ⟨run, act⟩ := activeRun_slot h
  have l := slot_legal legal at_.slot
  rw [act] at l
  obtain ⟨r, hr⟩ := step_some l.1 l.2 lt
  have off := other_inactive legal act
  have cur : s.currentStep = at_.step := by unfold State.currentStep; rw [run]
  have own : ∀ n, (Slot.active p).stepsLeft n = p.stepCount - n := fun _ => rfl
  unfold State.enterStep
  rw [hr]
  dsimp only
  split
  · have left := (endProgram_left (.aborted .fault) legal h).1
    rw [stepsLeft_at s at_.slot, act, own, cur] at left
    show (s.endProgram _).stepsLeft ≤ _
    rw [cur]
    omega
  · obtain ⟨st, step⟩ := admitStep_left at_.slot p i r s
    rw [stepsLeft_at _ at_.slot, st, act, own, step, stepsLeft_inactive off i s.currentStep]

/-- A program started takes no more steps than it has. -/
theorem startProgram_left {ix : SlotIx} {p : Program} {s : State} (legal : s.StoreLegal) (idle : s.seq.run = none)
    (ready : s.store.slot ix = .ready p) : (s.startProgram ix p).stepsLeft < s.stepsLeft := by
  have l := slot_legal legal ix
  rw [ready] at l
  have other := none_active legal idle ix.other
  unfold State.startProgram
  dsimp only
  generalize hv : ((s.mapStore (Store.setSlot ix (.active p))).mapSeq
    (fun q => { q.idle with run := some ⟨ix, 0, .count⟩ })) = v
  have placed : v.StoreLegal := hv ▸ placed_store legal idle l.1 l.2
  generalize hu : (((v.mapClimate Climate.forStart).mapSteam (fun w => { w with millilitres := 0 })).mapReport
        (fun u => { u with chainRefusal := none })).coolOn.leaveQuiet = u
  have told : Does [.integrators, .millilitres, .chainRefusal, .coolingFan, .sharing, .queue] [] v u := hu ▸
    (((((forStart_record_does v).seq (clearMillilitres_does _)).seq (chainRefusal_does none _)).seq (coolOn_does _)).seq
      (leaveQuiet_does _)).mono
  have st : u.store = v.store := told.only.store
  have sq : u.seq = v.seq := told.only.seq
  have act : u.store.slot ix = .active p := by rw [st, ← hv]; cases ix <;> rfl
  have oth : u.store.slot ix.other = s.store.slot ix.other := by rw [st, ← hv]; cases ix <;> rfl
  have run : u.activeRun = some (⟨ix, 0, .count⟩, p) := activeRun_of (by rw [sq, ← hv]; rfl) act
  have left := enterStep_left (told.kept .store (by decide) placed) run l.1.2.1.1
  rw [oth, stepsLeft_inactive other _ s.currentStep] at left
  rw [stepsLeft_at s ix, ready]
  have own : (Slot.ready p).stepsLeft s.currentStep = p.stepCount + 1 := rfl
  have ixeq : (⟨ix, 0, .count⟩ : Position).slot = ix := rfl
  rw [ixeq] at left
  omega

/-- A chain leaves no more steps. -/
theorem chain_left (ended : SlotIx) {s : State} (legal : s.StoreLegal) (idle : s.seq.run = none) :
    (s.chain ended).stepsLeft ≤ s.stepsLeft := by
  unfold State.chain
  split
  case h_1 p ready =>
    split
    · split
      · exact Nat.le_of_lt (startProgram_left legal idle ready)
      · exact Nat.le_refl _
    · exact Nat.le_refl _
  all_goals exact Nat.le_refl _

/-- A completed step leaves fewer steps. -/
theorem stepComplete_left {s : State} (legal : s.StoreLegal) (active : s.hasActive = true) :
    s.stepComplete.stepsLeft < s.stepsLeft := by
  obtain ⟨⟨at_, p⟩, h⟩ := Option.isSome_iff_exists.mp active
  obtain ⟨run, act⟩ := activeRun_slot h
  have cur : s.currentStep = at_.step := by unfold State.currentStep; rw [run]
  have own : (Slot.active p).stepsLeft at_.step = p.stepCount - at_.step := rfl
  have ends := fun o => endProgram_left o legal h
  unfold State.stepComplete
  rw [h]
  dsimp only
  split
  · have := ends (.aborted .stopped)
    show (s.endProgram _).stepsLeft < _
    omega
  · split
    · rename_i lt
      have left := enterStep_left legal h lt
      rw [stepsLeft_at s at_.slot, act, cur, own]
      rw [cur] at left
      omega
    · have := ends .finished
      have ended := (endProgram_does .finished s).kept .store (by decide) legal
      have kept := chain_left at_.slot ((openDueValve_does _).kept .store (by decide) ended)
        (by rw [openDueValve_seq]; exact endProgram_idle .finished legal)
      have same : (s.endProgram .finished).openDueValve.stepsLeft = (s.endProgram .finished).stepsLeft := by
        simp [State.stepsLeft, State.currentStep]
      omega

/-! ## Turns -/

/-- A valve that opens leaves one turn less. -/
theorem openValve_turns {s : State} (due : s.valveDue = true) : s.openValve.turnsLeft < s.turnsLeft := by
  have started : s.steam.drainStarted = true := by
    unfold State.valveDue at due
    simp only [Bool.and_eq_true] at due
    exact due.1.1.1.1.2
  have e : s.openValve.turnsLeft + 1 = s.turnsLeft := by
    show _ = 8 * s.stepsLeft + (_ + _ + bitIf s.steam.drainStarted 1)
    rw [started]
    rfl
  omega

/-- A completion taken leaves fewer turns. -/
theorem takeHanded_turns {s : State} (legal : s.StoreLegal) (due : s.steam.handed.isSome = true) :
    s.takeHanded.turnsLeft < s.turnsLeft := by
  have taken : (s.mapSteam (fun w => { w with handed := none })).turnsLeft + 2 = s.turnsLeft := by
    show _ = 8 * s.stepsLeft + (_ + bitIf s.steam.handed.isSome 2 + _)
    rw [due]
    show 8 * s.stepsLeft + (bitIf (decide (s.phase = some .prepare)) 4 + 0 + bitIf s.steam.drainStarted 1) + 2 = _
    have : bitIf true 2 = 2 := rfl
    omega
  have legal' : (s.mapSteam (fun w => { w with handed := none })).StoreLegal := legal
  unfold State.takeHanded
  dsimp only
  split
  · rename_i service
    have active : s.hasActive = true := by
      unfold State.serviceActive State.activeProgram at service
      unfold State.hasActive
      cases hr : s.activeRun with
      | none => simp [hr] at service
      | some r => rfl
    split
    · split
      · obtain ⟨⟨at_, p⟩, h⟩ := Option.isSome_iff_exists.mp active
        have := turnsLeft_of_steps (s := s.mapSteam (fun w => { w with handed := none }))
          (t := (s.mapSteam (fun w => { w with handed := none })).endAborted (s.seq.forcedCause.getD .stopped)) (by
            have := endProgram_left (.aborted (s.seq.forcedCause.getD .stopped)) legal' h
            show (State.endProgram _ _).stepsLeft < _
            omega)
        omega
      · omega
    · have := turnsLeft_of_steps (stepComplete_left legal' active)
      omega
  · omega

/-- The end of PREPARE leaves fewer turns. -/
theorem endPrepare_turns {s : State} (legal : s.StoreLegal) (due : s.prepareDue = true) :
    s.endPrepare.turnsLeft < s.turnsLeft := by
  have prepare : s.phase = some .prepare := by
    unfold State.prepareDue at due
    simp only [Bool.and_eq_true, decide_eq_true_eq] at due
    exact due.1.1
  cases hrun : s.activeRun with
  | none => simp [State.phase, hrun] at prepare
  | some run =>
    obtain ⟨at_, p⟩ := run
    obtain ⟨sq, act⟩ := activeRun_slot hrun
    have l := slot_legal legal at_.slot
    rw [act] at l
    obtain ⟨r, hr⟩ := step_some l.1 l.2 (endProgram_left .finished legal hrun).2
    have ends : s.endPrepare = s.toPreheat r := by
      unfold State.endPrepare State.activeStep
      rw [hrun]
      dsimp only
      rw [hr]
    obtain ⟨st, pos⟩ := toPreheat_position r s
    rw [sq, Option.map_some] at pos
    have after : (s.toPreheat r).phase = some (if r.preheat then .preheat else .count) := by
      have := activeRun_of pos (by rw [st]; exact act)
      simp [State.phase, this]
    have steps : (s.toPreheat r).stepsLeft = s.stepsLeft := by
      unfold State.stepsLeft State.currentStep
      rw [st, pos, sq]
    have less : (s.toPreheat r).dueLeft ≤ 3 := by
      have no : decide ((s.toPreheat r).phase = some .prepare) = false := by rw [after]; split <;> rfl
      have := bitIf_le (s.toPreheat r).steam.handed.isSome 2
      have := bitIf_le (s.toPreheat r).steam.drainStarted 1
      unfold State.dueLeft
      rw [no]
      simp only [bitIf, Bool.false_eq_true, if_false] at *
      omega
    have more : 4 ≤ s.dueLeft := by
      unfold State.dueLeft
      rw [prepare]
      simp only [bitIf, decide_true, if_true]
      omega
    rw [ends]
    unfold State.turnsLeft
    omega

/-- Nothing is due. -/
theorem settleDue_none (s : State) : s.settleDue = false ↔ s.NothingDue := by
  unfold State.settleDue
  simp [and_assoc]

/-- The ceiling and the interruption timer make nothing due. -/
theorem settleDue_after (s : State) : (s.updateCeiling).keepInterruption.settleDue = s.settleDue := by
  have e : (s.updateCeiling).keepInterruption.runState = s.runState := by
    rw [keepInterruption_runState]
    exact runState_congr (updateCeiling_seq s) (updateCeiling_store s) (updateCeiling_climate s) (updateCeiling_steam s)
  have f : (s.updateCeiling).keepInterruption.phase = s.phase := by
    show (s.updateCeiling).phase = s.phase
    simp [State.phase, State.activeRun]
  have g : (s.updateCeiling).keepInterruption.valveDue = s.valveDue := by
    show (s.updateCeiling).valveDue = s.valveDue
    simp [State.valveDue, State.inService, State.coolForDrain, State.boilerInUse, State.tankPresent, State.mainsOut,
      State.faultActive]
    rfl
  have h : (s.updateCeiling).keepInterruption.steam = s.steam := updateCeiling_steam s
  simp only [State.settleDue, State.prepareDue, State.boilerReady, State.isRunning, e, f, g, h]

/-- Every turn leaves fewer of them. -/
theorem settleOnce_turns {s : State} (legal : s.StoreLegal) (due : s.settleDue = true) :
    s.settleOnce.turnsLeft < s.turnsLeft := by
  unfold State.settleDue at due
  unfold State.settleOnce
  split
  · exact openValve_turns (by assumption)
  · split
    · exact takeHanded_turns legal (by assumption)
    · split
      · exact endPrepare_turns legal (by assumption)
      · simp_all

/-- The interruption timer has no part in what is due, nor in the turns to come. -/
theorem keepInterruption_turns (s : State) :
    s.keepInterruption.settleDue = s.settleDue ∧ s.keepInterruption.turnsLeft = s.turnsLeft := ⟨rfl, rfl⟩

/-- A turn, with the timer that follows the run state before it, leaves fewer turns, and legal slots. -/
theorem settleTurn_left {s : State} (legal : s.StoreLegal) (due : s.settleDue = true) :
    s.keepInterruption.settleOnce.turnsLeft < s.turnsLeft ∧ s.keepInterruption.settleOnce.StoreLegal := by
  have kept : s.keepInterruption.StoreLegal := (keepInterruption_does s).kept .store (by decide) legal
  exact ⟨settleOnce_turns kept due, (settleOnce_does _).kept .store (by decide) kept⟩

/-- As many turns as are left leave nothing due, however many more are allowed. -/
theorem settleTurns_settles (n : Nat) {s : State} (legal : s.StoreLegal) (enough : s.turnsLeft ≤ n) :
    (s.settleTurns n).settleDue = false ∧ ∀ m, n ≤ m → s.settleTurns m = s.settleTurns n := by
  induction n generalizing s with
  | zero =>
    have idle : s.settleDue = false := by
      cases due : s.settleDue with
      | false => rfl
      | true => have := (settleTurn_left legal due).1; omega
    refine ⟨idle, fun m _ => ?_⟩
    cases m with
    | zero => rfl
    | succ k => show (if s.settleDue then _ else s) = s; rw [idle]; rfl
  | succ n ih =>
    cases due : s.settleDue with
    | false =>
      have stops : ∀ m, s.settleTurns (m + 1) = s := fun m => by
        show (if s.settleDue then _ else s) = s; rw [due]; rfl
      refine ⟨by rw [stops]; exact due, fun m le => ?_⟩
      obtain ⟨k, rfl⟩ : ∃ k, m = k + 1 := ⟨m - 1, by omega⟩
      rw [stops, stops]
    | true =>
      have goes : ∀ m, s.settleTurns (m + 1) = s.keepInterruption.settleOnce.settleTurns m := fun m => by
        show (if s.settleDue then _ else s) = _; rw [due]; rfl
      obtain ⟨fewer, legal'⟩ := settleTurn_left legal due
      obtain ⟨idle, more⟩ := ih legal' (by omega)
      refine ⟨by rw [goes]; exact idle, fun m le => ?_⟩
      obtain ⟨k, rfl⟩ : ∃ k, m = k + 1 := ⟨m - 1, by omega⟩
      rw [goes, goes, more k (by omega)]

/-- A slot has at most thirteen steps to come, an ACTIVE one at most twelve. -/
theorem stepsLeft_slot {v : Slot} (legal : v.Legal) (n : Nat) : v.stepsLeft n ≤ 13 := by
  cases v with
  | empty => exact Nat.zero_le _
  | loading p => exact Nat.zero_le _
  | ready p => have := legal.1.2.1.2; simp only [Slot.stepsLeft]; omega
  | active p => have := legal.1.2.1.2; simp only [Slot.stepsLeft]; omega
  | done p o => exact Nat.zero_le _

/-- The turns allowed are enough where the slots are legal. -/
theorem turnsLeft_le {s : State} (legal : s.StoreLegal) : s.turnsLeft ≤ settleBound := by
  have := stepsLeft_slot legal.1 s.currentStep
  have := stepsLeft_slot legal.2.1 s.currentStep
  have := dueLeft_le s
  unfold State.turnsLeft State.stepsLeft settleBound
  omega

end Sys2Proof.Machine
end

