-- ==== Sys2Proof/WellFormed.lean ====
section
/-! DEFINITION. Which commands the lines and pins of the part can carry: field widths of the frame (R187), ranges of
the sensor inputs (R57, R58, R82). The meanings are total and do not rest on it. -/

namespace Sys2Proof

/-- The core probe reads −20.0 to 150.0 °C when it reads at all (R58). -/
def CoreInput.wf : CoreInput → Bool
  | .openCircuit => true
  | .shorted => true
  | .reading t => decide (-200 ≤ t ∧ t ≤ 1500)

/-- The sensor inputs are in the ranges the converter gives (R57, R82); humidity is carried in a byte whose value 255
stands for no reading (R196). -/
def Sample.wf (s : Sample) : Bool :=
  decide (-400 ≤ s.cavity ∧ s.cavity ≤ 4000) && decide (-400 ≤ s.boiler ∧ s.boiler ≤ 4000)
    && (match s.humidity with
        | some h => decide (h ≤ 254)
        | none => true)
    && s.core.wf

/-- A station field has five bits (R187). -/
def stationFits (n : Nat) : Bool := decide (n < 32)

/-- A received frame's fields fit the header, and its payload has at most 8 bytes (R187, R189). -/
def RxFrame.wf (f : RxFrame) : Bool :=
  decide (f.cls < 4) && decide (f.kind < 8) && stationFits f.src && stationFits f.dst && decide (f.payload.length ≤ 8)

/-- A request's source fits the header and its payload, the code included, has at most 8 bytes (R187, R195). -/
def requestFits (src : Nat) (body : List Byte) : Bool := stationFits src && decide (body.length ≤ 7)

/-- The command is one that the lines and pins can carry. -/
def Instr.wf : Instr → Bool
  | .reset _ _ _ _ => true
  | .mainsMeasurementEnd _ => true
  | .announceTick => true
  | .peerEntryRemoved station => decide (1 ≤ station ∧ station ≤ 30)
  | .tableFullCleared => true
  | .listenEnd => true
  | .quietEntry => true
  | .zeroCrossing => true
  | .frameBoundary smp _ => smp.wf
  | .sampleTick smp => smp.wf
  | .sensorFaultRaised _ smp => smp.wf
  | .sensorFaultEnded _ smp => smp.wf
  | .second => true
  | .stepCountEnd => true
  | .promptTimeout => true
  | .interruptionTimeout => true
  | .soakComplete => true
  | .doorOpenMinute => true
  | .ventComplete => true
  | .doorOpen => true
  | .doorClose => true
  | .lowDry => true
  | .lowWet => true
  | .highWet => true
  | .highDry => true
  | .strokeEnd => true
  | .tankArrives _ => true
  | .tankRemoved => true
  | .tankLevelChange _ => true
  | .drainValveOpens smp => smp.wf
  | .coolWaitExpired => true
  | .drainComplete => true
  | .drainTimeout => true
  | .mainsLoss => true
  | .mainsRestored _ => true
  | .rotationReport => true
  | .quietGap => true
  | .frameSent => true
  | .frameLost => true
  | .frameBroken => true
  | .announcementReceived src payload => stationFits src && decide (payload.length ≤ 8)
  | .announcementIgnored src payload => stationFits src && decide (payload.length ≤ 8)
  | .badFrame => true
  | .frameAbandoned => true
  | .frameNotAccepted f => f.wf
  | .frameDropped f => f.wf
  | .duplicateStation cls kind dst payload =>
      decide (cls < 4) && decide (kind < 8) && stationFits dst && decide (payload.length ≤ 8)
  | .requestUnknownCode src _ body => requestFits src body
  | .loadHeader src body => requestFits src body
  | .stepPartA src body => requestFits src body
  | .stepPartB src body => requestFits src body
  | .start src body => requestFits src body
  | .pause src body => requestFits src body
  | .continue_ src body => requestFits src body
  | .stop src body => requestFits src body
  | .skip src body => requestFits src body
  | .adjust src body => requestFits src body
  | .confirm src body => requestFits src body
  | .clear src body => requestFits src body
  | .discard src body => requestFits src body
  | .setHardness src body => requestFits src body
  | .startDescale src body => requestFits src body
  | .clearFaults src body => requestFits src body.bytes
  | .query src body => requestFits src body
  | .retainedWriteComplete _ => true
  | .inputStateEstablished _ => true

end Sys2Proof
end

