-- ==== Sys2Proof/Tests/Slice0.lean ====
section
/-! SUPPORT. The model's own tests: what well-formedness refuses, the manual's worked figures, single steps on small states, and a
state that meets the hypotheses of each statement. -/

namespace Sys2Proof.Tests

open Sys2Proof.Machine

set_option maxRecDepth 20000
set_option Elab.async false

/-! ## Small states -/

/-- A counted panel. -/
def panel (n : Nat) : Peer := ⟨n, .panel, 0, 2, 5, false, 0, 1, none, 0⟩

/-- Inputs in range. -/
def inputs : Sample := ⟨250, some 50, .openCircuit, 250, .closed⟩

/-- A part in service at 50 Hz as station 7 of class 4: door closed, boiler dry, tank filled, STEADY, one panel in its table. -/
def served : State :=
  { State.reset with
    startup := ⟨.service, 7, 4, 0, some .hz50, 50⟩
    climate := { Climate.reset with door := some .closed }
    inputs := inputs
    steam := { Steam.reset with low := some .dry, high := some .dry, tank := some (.present .ok) }
    share := { Share.reset 7 with state := .steady, peers := [panel 2] } }

/-- A part in the mains measurement after n crossings. -/
def measuring (n : Nat) : State :=
  { State.reset with startup := ⟨.measuring, 7, 4, 0, none, n⟩ }

/-- A step of 60 s at 180 °C. -/
def roast : StepRecord where
  mode := .convection
  setpoint := some 180
  humidity := none
  endKind := some .timed
  duration := some 60
  band := none
  coreTarget := none
  fallback := none
  preheat := false
  promptIn := none
  promptOut := none
  rank := 2

/-- A humid step. -/
def steamed : StepRecord := { roast with mode := .steam, setpoint := some 100 }

/-- A recipe of these steps, loaded by station 2. -/
def recipe (l : List StepRecord) : Program := ⟨.recipe, l.length, false, 7, 2, l.map some⟩

/-- The program ACTIVE in slot 0 at a step and phase. -/
def runs (p : Program) (i : Nat) (ph : Phase) (s : State) : State :=
  { s with
    store := { s.store with slot0 := .active p }
    seq := { s.seq with run := some ⟨.s0, i, ph⟩, workKind := some .timed, workDuration := some 60 }
    climate := { s.climate with mode := (p.step i).map StepRecord.mode, setpoint := some 180 } }

/-- A roast in COUNT. -/
def roasting : State := runs (recipe [roast]) 0 .count served

/-- A humid step in COUNT, before a dry one. -/
def steaming : State := runs (recipe [steamed, roast]) 0 .count served

/-- The descale program in a step of its list. -/
def descaling (i : Nat) : State := runs (generated 7 served.scale) i .count served

/-- A record that is active, latched or not. -/
def broken (latched : Bool) : FaultRecord := ⟨true, latched, 3⟩

/-- A frame in progress at a cycle. -/
def inFrame (k : Nat) (s : State) : State := { s with load := { s.load with running := true, cycle := k } }

/-- The next state of a command. -/
def after (c : Instr) (s : State) : State :=
  match exec c s with
  | .next t => t
  | _ => .reset

/-! ## What well-formedness refuses -/

/-- A command of every shape that is well formed. -/
theorem test_wf_accepts :
    ([.peerEntryRemoved 30, .sampleTick inputs, .frameBoundary inputs 400, .sensorFaultRaised .boiler inputs,
      .sensorFaultEnded .cavity inputs, .drainValveOpens inputs, .announcementReceived 31 [], .announcementIgnored 2 [],
      .frameNotAccepted ⟨3, 7, 31, 31, []⟩, .frameDropped ⟨0, 0, 0, 0, []⟩, .duplicateStation 3 7 31 [],
      .requestUnknownCode 31 200#8 [], .stop 2 [], .zeroCrossing] : List Instr).all Instr.wf = true := by decide
/-- A station number outside 1 to 30 for a peer entry. -/
theorem test_wf_peer : (Instr.peerEntryRemoved 0).wf = false ∧ (Instr.peerEntryRemoved 31).wf = false := by decide
/-- A cavity input outside the converter. -/
theorem test_wf_cavity : (Instr.sampleTick { inputs with cavity := 4001 }).wf = false := by decide
/-- A boiler input outside the converter. -/
theorem test_wf_boiler : (Instr.frameBoundary { inputs with boiler := -401 } 400).wf = false := by decide
/-- A humidity that no byte but that of no reading carries. -/
theorem test_wf_humidity : (Instr.sensorFaultRaised .humidity { inputs with humidity := some 255 }).wf = false := by decide
/-- A core probe reading outside its range. -/
theorem test_wf_core :
    (Instr.sensorFaultEnded .cavity { inputs with core := .reading 1501 }).wf = false
      ∧ (Instr.drainValveOpens { inputs with core := .reading (-201) }).wf = false := by decide
/-- A source station of more than five bits. -/
theorem test_wf_source :
    (Instr.announcementReceived 32 []).wf = false ∧ (Instr.requestUnknownCode 32 0#8 []).wf = false
      ∧ (Instr.frameDropped ⟨0, 0, 32, 0, []⟩).wf = false := by decide
/-- A destination station of more than five bits. -/
theorem test_wf_destination :
    (Instr.frameNotAccepted ⟨0, 0, 0, 32, []⟩).wf = false ∧ (Instr.duplicateStation 0 0 32 []).wf = false := by decide
/-- A class or a kind that no header carries. -/
theorem test_wf_header :
    (Instr.frameNotAccepted ⟨4, 0, 2, 7, []⟩).wf = false ∧ (Instr.frameNotAccepted ⟨0, 8, 2, 7, []⟩).wf = false
      ∧ (Instr.duplicateStation 4 0 7 []).wf = false ∧ (Instr.duplicateStation 0 8 7 []).wf = false := by decide
/-- A payload longer than a frame's. -/
theorem test_wf_payload :
    (Instr.frameDropped ⟨0, 0, 2, 7, List.replicate 9 0#8⟩).wf = false
      ∧ (Instr.announcementIgnored 2 (List.replicate 9 0#8)).wf = false
      ∧ (Instr.duplicateStation 0 0 7 (List.replicate 9 0#8)).wf = false
      ∧ (Instr.adjust 2 (List.replicate 8 0#8)).wf = false := by decide

/-! ## The manual's figures -/

/-- No word of the table spells a command. -/
theorem test_no_word : decodeTableWord 8 0 = none ∧ (State.reset.withFetchWord 8 0) = State.reset := by decide
/-- The seeds of three stations (R31). -/
theorem test_seeds : seed 4 = 245#11 ∧ seed 7 = 428#11 ∧ seed 30 = 1831#11 := by decide
/-- The worked allocations of section 2.8: budgets of 225, 185, 193, 192, 20 and 13 units. -/
theorem test_allocations :
    [225, 185].map (fun a => allocate (ratings 0) ⟨0, 0, 15, 12⟩ ((a * 10 - 80) * 20)) = [⟨0, 0, 12, 11⟩, ⟨0, 0, 10, 9⟩]
      ∧ [193, 192].map (fun a => allocate (ratings 0) ⟨0, 0, 10, 10⟩ ((a * 10 - 80) * 20)) = [⟨0, 0, 10, 10⟩, ⟨0, 0, 9, 10⟩]
      ∧ [20, 13, 8, 0].map (fun a => allocate (ratings 0) ⟨0, 0, 15, 12⟩ ((a * 10 - 80) * 20))
        = [⟨0, 0, 0, 1⟩, .all 0, .all 0, .all 0] := by decide
/-- The placement of section 2.8: RING 12 and BOILER 11. -/
theorem test_placement :
    placed Load.ring.index 12 = [1, 3, 4, 6, 8, 9, 11, 13, 14, 16, 18, 19]
      ∧ placed Load.boiler.index 11 = [1, 3, 4, 6, 8, 10, 12, 14, 15, 17, 19] := by decide
/-- The soak minutes of R151. -/
theorem test_soak_minutes : [0, 1, 300000, 300001, 600000, 600001, 1000000].map soakMinutes = [10, 20, 20, 30, 30, 40, 40] := by
  decide
/-- The limits, fallback caps and own maxima of R1. -/
theorem test_limits :
    [1, 2, 3, 4, 5, 6, 7].map Config.limitUnits = [200, 250, 300, 360, 440, 550, 720].map some
      ∧ Config.limitUnits 0 = none ∧ [0, 1, 2, 3].map Config.ownMaximum = [628, 537, 699, 689] := by decide

/-- A regulator at a boundary: cavity or humidity given, the demand and the integrator after. -/
def temperatureRow (tenths : Int) (i : Int) : Nat × Int :=
  let s := { roasting with climate := { roasting.climate with setpoint := some 200, lastCavity := some tenths, tempI := i } }
  (s.regulate.climate.lastDemand, s.regulate.climate.tempI)
/-- The worked sequence of section 3.3, boundaries a, b, c and e. -/
theorem test_temperature_regulator :
    temperatureRow 1940 2400 = (20, 2400) ∧ temperatureRow 1975 2400 = (14, 2450) ∧ temperatureRow 2010 2450 = (7, 2430)
      ∧ temperatureRow 1960 2430 = (17, 2510) := by decide
/-- A COMBI step at a boundary: boiler state, humidity, integrator; the boiler demand and the integrator after. -/
def humidityRow (b : BoilerState) (h : Nat) (i : Int) (sensorFault : Bool) : Nat × Int :=
  let s := runs (recipe [{ roast with mode := .combi, humidity := some 60 }]) 0 .count served
  let t : State :=
    { s with
      steam := { s.steam with boiler := b }
      climate := { s.climate with humidityTarget := some 60, lastHumidity := some h, humI := i }
      faults := { s.faults with humiditySensor := ⟨sensorFault, false, 0⟩ } }
  (t.regulate.climate.lastBoilerDemand, t.regulate.climate.humI)
/-- The worked sequence of section 3.4. -/
theorem test_humidity_regulator :
    humidityRow .steaming 48 1000 false = (9, 1096) ∧ humidityRow .steaming 65 1096 false = (2, 1056)
      ∧ humidityRow .steaming 90 1056 false = (0, 1056) ∧ humidityRow .ready 55 1056 false = (6, 1056)
      ∧ humidityRow .steaming 55 1056 true = (12, 0) := by decide
/-- The part of the worked case of section 1.10 before an own tick: the cooktop's asking flag and settled ask, the own hold. -/
def kitchen (asking : Bool) (settled hold : Nat) : State :=
  { served with
    load := { served.load with ceiling := 378 }
    share :=
      { served.share with
        state := .asking, ask := 378, draw := 611#11, ownCount := 3, hold := hold, denyCount := 2
        peers := [⟨4, .cooktop, 120, 1, 9, asking, settled, 3, some settled, 0⟩] } }
/-- Ticks 3 and 6 of section 1.10: a grant of 225, then a yield of 80 with the cool-down, which the next boundary settles. -/
theorem test_worked_walks :
    (after .announceTick (kitchen false 120 0)).share.hold = 225
      ∧ (after .announceTick (kitchen true 200 225)).share.pendingCut = 80
      ∧ (after .announceTick (kitchen true 200 225)).share.coolDown = 6
      ∧ (after .announceTick (kitchen true 200 225)).share.denyCount = 3
      ∧ (after .announceTick (kitchen true 200 225)).shareBoundary.share.hold = 145 := by decide +kernel
/-- Slot 0 LOADING one step for panel 2, sent a step: the answer and the slot (section 5.4). -/
def sentStep (a b : List Byte) : List (List Byte) × Slot :=
  let s := { served with store := { served.store with slot0 := .loading ⟨.recipe, 1, false, 7, 2, [none]⟩ } }
  let t := after (.stepPartB 2 b) (after (.stepPartA 2 a) s)
  (((t.bus.queue.filter (fun e => decide (e.kind = .answer 2))).map Entry.frames).flatten, t.store.slot0)
/-- Worked checks of section 5.4: COMBI, 240 °C, 95 %, BANDED 1,200 s, preheat; and STEAM with prompt-in 241. -/
theorem test_worked_steps :
    sentStep [0#8, 0x53#8, 240#8, 95#8, 4#8, 0xB0#8] [0#8, 0x80#8, 0x40#8, 0#8, 0#8, 255#8, 255#8]
        = ([[3#8, 1#8, 0#8]],
          .ready (recipe
            [{ roast with
                mode := .combi, setpoint := some 230, humidity := some 90, endKind := some .banded
                duration := some 1200, preheat := true }]))
      ∧ sentStep [0#8, 0x41#8, 100#8, 255#8, 3#8, 0x84#8] [0#8, 0#8, 0x40#8, 0#8, 0#8, 241#8, 255#8]
        = ([[3#8, 6#8, 0#8]], .loading ⟨.recipe, 1, false, 7, 2, [none]⟩) := by decide +kernel
/-- An entry that waits. -/
def waits (k : EntryKind) : Entry := ⟨k, [[]], false, false⟩
/-- The worked sequence of section 10.6: the first three events. -/
theorem test_full_queue :
    let q := [EntryKind.answer 2, .answer 3, .notice, .report .climate, .report .program, .report .water, .report .share,
      .report .fault]
    let b : BusLink := { BusLink.reset with queue := q.map waits }
    let c := b.hand (.announce 0 0#11) [[]]
    let d := (c.hand (.report .program) [[1#8]]).hand (.answer 4) [[]]
    c.queue.map Entry.kind = [.announce 0 0#11, .answer 2, .answer 3, .notice, .report .program, .report .water,
        .report .share, .report .fault]
      ∧ c.dropped = 1 ∧ (c.hand (.report .program) [[1#8]]).queue.length = 8
      ∧ d.queue.map Entry.kind = [.announce 0 0#11, .answer 2, .answer 3, .answer 4, .notice, .report .water,
        .report .share, .report .fault]
      ∧ d.dropped = 2 := by decide

/-! ## States that meet the hypotheses of the statements -/

/-- A roast whose ceiling stands, with a crossing waiting. -/
def legalRun : State := { roasting with load := { roasting.load with ceiling := 198 }, pending := [.zeroCrossing] }

theorem test_witness_StepRunsTheFrontCommand : legalRun.pending = .zeroCrossing :: [] ∧ served.pending = [] := by decide
theorem test_witness_invariants :
    (legalRun.bus.Legal ∧ legalRun.ShareLegal ∧ PeersLegal legalRun.station legalRun.share.peers ∧ legalRun.climate.Legal
      ∧ legalRun.steam.Legal ∧ legalRun.ScaleLegal ∧ legalRun.seq.Legal ∧ legalRun.faults.Legal) ∧ legalRun.StoreLegal ∧ legalRun.load.Legal ∧ ∃ t, step legalRun = .next t :=
  ⟨⟨by decide +kernel, by decide +kernel, by decide +kernel, by decide +kernel, ⟨by decide, trivial, by decide +kernel⟩,
      by decide +kernel, by decide +kernel, by decide +kernel⟩,
    ⟨show Program.Legal _ ∧ _ from by decide +kernel, trivial, show _ ∧ _ ∧ _ from by decide +kernel⟩, by decide +kernel, _, rfl⟩
theorem test_witness_CeilingFollowsTheProgram :
    legalRun.BeforeService ∧ legalRun.Follows ∧ (measuring 50).BeforeService ∧ (measuring 50).Follows
      ∧ (measuring 50).startup.stage ≠ .service ∧ ∃ t, step (measuring 50) = .next t :=
  ⟨fun h => absurd rfl h, by decide +kernel, fun _ => by decide +kernel, by decide +kernel, by decide, _, rfl⟩
theorem test_witness_ConfigFault :
    [0, 31].map (fun n => (after (.reset n 4 0 .torn) served).faultPin) = [true, true]
      ∧ [1, 30].map (fun n => (after (.reset n 4 0 .torn) served).faultPin) = [false, false]
      ∧ ∃ t, exec .zeroCrossing served = .next t := ⟨by decide +kernel, by decide +kernel, _, rfl⟩
theorem test_witness_InputIsEstablishedOnce :
    ((measuring 0).startup.stage = .measuring ∧ (measuring 0).climate.door = none ∧ (measuring 0).steam.low = none
      ∧ (measuring 0).steam.high = none ∧ (measuring 0).steam.tank = none)
    ∧ (let t := after (.inputStateEstablished (.door .closed)) (after (.inputStateEstablished (.lowProbe .wet))
        (after (.inputStateEstablished (.highProbe .dry)) (after (.inputStateEstablished (.tank .absent)) (measuring 0))));
      t.startup.stage = .measuring ∧ t.climate.door ≠ none ∧ t.steam.low ≠ none ∧ t.steam.high ≠ none ∧ t.steam.tank ≠ none
        ∧ t.steam.boiler = .standing)
    ∧ served.startup.stage ≠ .measuring := by decide +kernel
theorem test_witness_MeasurementEnds :
    ((measuring 45).startup.stage = .measuring ∧ (measuring 45).BeforeService)
      ∧ [44, 45, 54, 55, 65, 66].map (fun n => (after (.mainsMeasurementEnd false) (measuring n)).startup.freq)
        = [none, some .hz50, some .hz50, some .hz60, some .hz60, none]
      ∧ (after (.mainsMeasurementEnd true) (measuring 50)).startup.freq = none :=
  ⟨⟨rfl, fun _ => by decide +kernel⟩, by decide +kernel, by decide +kernel⟩
/-- The record of a part at its end of start-up, and a boiler cool enough to drain. -/
theorem test_witness_MeasurementEnds_record :
    let good : State := { measuring 50 with retained := ⟨.good ⟨20, 300, true, 4⟩, none, none⟩ }
    let torn : State := { measuring 50 with retained := ⟨.torn ⟨20, 300, true, 4⟩, none, none⟩ }
    let cool : State :=
      { measuring 50 with
        steam := { (measuring 50).steam with
          boiler := .standing, low := some .wet, lastBoiler := some 800, tank := some (.present .ok) } }
    (after (.mainsMeasurementEnd false) good).scale = ⟨20, 300, true, 4, false⟩
      ∧ (after (.mainsMeasurementEnd false) torn).scale = ⟨15, 600000, true, 0, false⟩
      ∧ (after (.mainsMeasurementEnd false) (measuring 50)).scale = ⟨15, 0, false, 0, false⟩
      ∧ (after (.mainsMeasurementEnd false) cool).steam.boiler = .draining
      ∧ (after (.mainsMeasurementEnd false) (measuring 50)).steam.boiler = .standing := by decide +kernel

/-- The bus in a link state with entries. -/
def onBus (l : LinkState) (q : List Entry) : State := { served with bus := { BusLink.reset with link := l, queue := q } }
/-- A link that waits for a quiet gap after a broken or abandoned frame. -/
def gapAwaited (q : List Entry) : State := { served with bus := { BusLink.reset with link := .receiving, awaitGap := true, queue := q } }
/-- An entry on the line. -/
def line (k : EntryKind) : Entry := ⟨k, [[]], true, false⟩

theorem test_witness_QuietGapAndFrameLost :
    ((onBus .idle []).inService = true ∧ (onBus .idle []).bus.link = .idle ∧ (onBus .idle []).bus.queue = [])
    ∧ ((gapAwaited [waits .notice]).bus.link = .receiving ∧ (gapAwaited [waits .notice]).bus.awaitGap = true
      ∧ (gapAwaited [waits .notice]).bus.queue = waits .notice :: []
      ∧ (after .quietGap (gapAwaited [waits .notice])).bus.link = .sending ∧ (after .quietGap (gapAwaited [])).bus.link = .idle)
    ∧ after .quietGap (onBus .receiving [waits .notice]) = onBus .receiving [waits .notice]
    ∧ after .quietGap (onBus .sending [line .notice]) = onBus .sending [line .notice]
    ∧ ((onBus .sending [line .notice, waits .notice]).sends = true ∧ (waits .notice).started = false
      ∧ (waits .notice).waiting = true ∧ EntryKind.notice.sameKind .notice = false)
    ∧ ((onBus .sending [line (.report .climate), waits (.report .climate)]).sends = true
      ∧ (EntryKind.report .climate).sameKind (.report .climate) = true ∧ (waits (.report .climate)).waiting = true
      ∧ (after .frameLost (onBus .sending [line (.report .climate), waits (.report .climate)])).bus.queue.length = 1)
    ∧ (onBus .idle []).sends = false := by decide
/-- LINK active while a notice is on the line. -/
def cutOffBus (count : Nat) (limitClass : Nat) (ceiling : Nat) : State :=
  let s := onBus .sending [line .notice]
  { s with
    startup := { s.startup with limitClass := limitClass }
    share := { s.share with state := .isolated }
    load := { s.load with ceiling := ceiling }
    bus := { s.bus with broken := count }
    faults := { s.faults with link := broken false } }
theorem test_witness_FrameSentAndBroken :
    (let s := cutOffBus 3 4 0;
      s.sends = true ∧ s.bus.queue = [] ++ line .notice :: [] ∧ (line .notice).onLine = true ∧ s.faults.link.active = true
        ∧ s.faults.link.latched = false ∧ s.share.state = .isolated ∧ s.faults.duplicateStation.active = false
        ∧ s.limit ≠ none ∧ s.load.ceiling ≤ s.share.hold ∧ (after .frameSent s).share.state = .steady)
    ∧ ((cutOffBus 3 0 0).limit = none ∧ (after .frameSent (cutOffBus 3 0 0)).share.state = .unshared)
    ∧ ((cutOffBus 3 4 9).share.hold < (cutOffBus 3 4 9).load.ceiling
      ∧ (after .frameSent (cutOffBus 3 4 9)).share.state = .asking
      ∧ (after .frameSent (cutOffBus 3 4 9)).bus.queue.map Entry.kind = [.announce 9 (cutOffBus 3 4 9).share.lfsr, .report .fault])
    ∧ (after .frameSent (cutOffBus 3 4 0)).bus.queue.map Entry.kind = [.report .fault]
    ∧ ((onBus .sending [line .notice]).faults.link.active = false ∧ min 255 (15 + 1) = 16 ∧ min 255 (16 + 1) ≠ 16)
    ∧ (let s := { onBus .sending [line .notice] with bus := { (onBus .sending [line .notice]).bus with broken := 15 } };
      s.Follows ∧ s.mainsOut = false ∧ (after .frameBroken s).faults.link = ⟨true, false, 1⟩)
    ∧ (after .frameBroken (cutOffBus 15 4 0)).faults.link = broken false := by decide +kernel
theorem test_witness_QueueHandOver :
    ((waits (.report .climate)).waiting = true ∧ (EntryKind.report .climate).sameKind (.report .climate) = true)
      ∧ (let l := [EntryKind.answer 2, .notice].map waits
        let r := [EntryKind.report .program, .report .water, .report .share, .report .fault, .report .fault].map waits;
        (∀ z ∈ l, z.waitingReport = false) ∧ 8 ≤ (l ++ waits (.report .climate) :: r).length
          ∧ (∀ z ∈ l.take 1, z.kind.cls ≤ EntryKind.cls (.answer 3)) ∧ (∀ z ∈ l.drop 1 ++ r, EntryKind.cls (.answer 3) < z.kind.cls)
          ∧ l ++ r = l.take 1 ++ (l.drop 1 ++ r)
          ∧ (∀ x ∈ l ++ waits (.report .climate) :: r, ¬(x.waiting = true ∧ x.kind.sameKind (.answer 3) = true)))
      ∧ (let full := List.replicate 8 (waits (.answer 2));
        8 ≤ full.length ∧ (∀ x ∈ full, x.waitingReport = false)
          ∧ (BusLink.hand .notice [[]] { BusLink.reset with queue := full }).dropped = 1) := by decide

/-- Reports rotate in a share state. -/
def rotating (st : ShareState) : State :=
  { served with report := { served.report with rotating := true }, share := { served.share with state := st } }
theorem test_witness_Reports :
    (served.report.rotating = false ∧ after .rotationReport served = served)
    ∧ ((rotating .steady).inService = true ∧ (rotating .steady).report.rotating = true ∧ (rotating .steady).share.state ≠ .quiet
      ∧ (rotating .quiet).share.state = .quiet ∧ (after .rotationReport (rotating .steady)).report.rotation = .program)
    ∧ roasting.store.slot0.code ≠ served.store.slot0.code
    ∧ (let water : State := { served with scale := { served.scale with rinseOwed := true } }
      let fault : State := { served with faults := { served.faults with link := broken false } };
      water.scale.rinseOwed ≠ served.scale.rinseOwed ∧ water.store = served.store ∧ water.faults = served.faults
        ∧ fault.faults.get .link ≠ served.faults.get .link ∧ fault.scale = served.scale ∧ fault.store = served.store)
    ∧ (measuring 0).inService = false := by decide +kernel
/-- An announcement of a cooktop holding 120 and asking 200 at rank 1, draw 9. -/
def announced (station : Nat) : List Byte := announcementBytes station 120 200 1 9#11 true false false
/-- A table of n entries, of which the one of station 20 has a silent count. -/
def table (n silent : Nat) : State :=
  { served with
    share :=
      { served.share with
        peers := ((List.range n).map (fun i => panel (i + 8))).map (fun p =>
          if p.station = 20 then { p with silent := silent } else p) } }
/-- A full table with station 20 at a silent count; slot 0 LOADING for it, and both staging entries taken, for slots 0 and 1. -/
def leaving (silent : Nat) : State :=
  { table 15 silent with
    store :=
      { served.store with
        slot0 := .loading { recipe [roast] with originator := 20 }
        staging := [⟨2, 0, 0, ⟨0, 0, false, 0, 0, 0⟩⟩, ⟨3, 1, 0, ⟨0, 0, false, 0, 0, 0⟩⟩] } }
theorem test_witness_AnnouncementReceived :
    ((announced 4).length = 6 ∧ (Announcement.ofPayload (announced 4)).station = 4 ∧ served.receives = true
      ∧ 4 ≠ served.station ∧ PeersLegal served.station served.share.peers)
    ∧ ((∃ p ∈ (table 14 0).share.peers, p.station = 20) ∧ (after (.announcementReceived 20 (announced 20)) (table 14 0)).share.peers.length = 14)
    ∧ ((table 14 0).share.peers.length < 15 ∧ (after (.announcementReceived 4 (announced 4)) (table 14 0)).share.peers.length = 15)
    ∧ (PeersLegal (table 15 2).station (table 15 2).share.peers ∧ (table 15 2).share.peers.length = 15
      ∧ (∀ p ∈ (table 15 2).share.peers, p.silent ≤ 2)
      ∧ (after (.announcementReceived 4 (announced 4)) (table 15 2)).share.tableFull = true)
    ∧ (PeersLegal (table 15 3).station (table 15 3).share.peers
      ∧ (table 15 3).share.peers = (table 15 3).share.peers.take 12 ++ { panel 20 with silent := 3 } :: (table 15 3).share.peers.drop 13
      ∧ (∀ p ∈ (table 15 3).share.peers.take 12, p.silent < 3)
      ∧ (after (.announcementReceived 4 (announced 4)) (table 15 3)).share.tableFull = false)
    ∧ ((after (.announcementReceived 4 (announced 4)) (leaving 3)).store.slot0 = .empty
      ∧ (after (.announcementReceived 4 (announced 4)) (leaving 3)).store.staging.map Staged.src = [3]) := by decide +kernel
theorem test_witness_FramesThatAreNotTaken :
    served.receives = true ∧ (Announcement.ofPayload (announced 31)).station = 31 ∧ (Announcement.ofPayload (announced 0)).station = 0
      ∧ (Announcement.ofPayload (announced 4)).station ≠ 5 ∧ (2 ≠ served.station ∧ 9 ≠ served.station)
      ∧ (after (.frameNotAccepted ⟨1, 0, 2, 9, [5#8]⟩) served).bus.queue = []
      ∧ (after (.frameDropped ⟨1, 0, 2, 7, []⟩) served).bus.queue = []
      ∧ (after .frameAbandoned served).bus.awaitGap = true
      ∧ after .badFrame (after .frameAbandoned served) = after .frameAbandoned served := by decide +kernel
theorem test_witness_DuplicateStation :
    served.receives = true ∧ (after (.duplicateStation 0 0 0 []) served).faults.duplicateStation = ⟨true, false, 1⟩
      ∧ (let s := after (.duplicateStation 0 0 0 []) served;
        s.faults.duplicateStation.active = true ∧ (after .zeroCrossing s).faults.duplicateStation.active = true) := by
  decide +kernel
theorem test_witness_AnnounceTickAges :
    (served.inService = true ∧ served.share.state ≠ .quiet ∧ served.mainsOut = false
      ∧ (after .announceTick served).bus.queue.map Entry.frames = [[[58#8, 0#8, 0#8, 2#8, 53#8, 128#8]]])
      ∧ (let s := table 15 6
        let full : State := { s with share := { s.share with tableFull := true, newcomer := 6 } };
        (after (.peerEntryRemoved 20) s).share = (after .announceTick s).share ∧ (after (.peerEntryRemoved 21) s) = s ∧ (after .announceTick s).share.peers.length = 14
          ∧ ((leaving 6).store.slot0.code = 1 ∧ (after .announceTick (leaving 6)).store.slot0 = .empty
            ∧ (after .announceTick (leaving 6)).store.staging.map Staged.src = [3]
            ∧ (after .announceTick (leaving 5)).store.staging.map Staged.src = [2, 3])
          ∧ (after .tableFullCleared full).share.tableFull = false
          ∧ (after .announceTick { table 15 0 with share := { (table 15 0).share with tableFull := true, newcomer := 6 } }).share.tableFull
            = true) := by decide +kernel
/-- A LISTEN of two ticks. -/
def listening (limitClass ceiling : Nat) : State :=
  { served with
    startup := { served.startup with limitClass := limitClass }
    share := { served.share with state := .listen, listenCount := 2 }
    load := { served.load with ceiling := ceiling } }
theorem test_witness_ListenAndQuiet :
    ((listening 4 0).inService = true ∧ ¬((listening 4 0).mainsOut = true ∧ (listening 4 0).cutOff = true)
      ∧ (listening 4 0).share.state = .listen ∧ (listening 4 0).limit ≠ none ∧ (listening 0 0).limit = none)
    ∧ [listening 4 0, listening 0 0, listening 4 198].map (fun s => (after .listenEnd s).share.state)
      = [.steady, .unshared, .asking]
    ∧ (let s : State := { served with share := { served.share with quietCount := 119 } }
      let t : State := { served with share := { served.share with quietCount := 118 } };
      s.seq.run = none ∧ s.share.hold = 0 ∧ s.load.ceiling = 0 ∧ s.share.pendingCut = 0
        ∧ (after .quietEntry s).share.state = .quiet ∧ t.share.quietCount + 1 < 120 ∧ after .quietEntry t = t) := by
  decide +kernel
theorem test_witness_AnnounceTickWalks :
    (let s := kitchen true 200 225;
      s.inService = true ∧ s.limit = some 360 ∧ s.mainsOut = false ∧ s.share.state = .asking ∧ s.share.pendingCut ≤ 2047
        ∧ PeersLegal s.station s.share.peers ∧ s.share.ownCount = 3 ∧ s.share.coolDown = 0 ∧ s.share.tableFull = false)
    ∧ served.share.state = .steady
    ∧ (let s : State := { kitchen false 120 300 with share := { (kitchen false 120 300).share with state := .isolated } };
      s.share.state = .isolated ∧ (after .announceTick s).share.pendingCut = 60) := by decide +kernel
/-- The same yield of 80 under MAINS applies at the tick, and LINK becoming active under MAINS takes the part to ISOLATED at once,
with the fallback cap of 180 (R17, R18, R24). -/
theorem test_witness_AnnounceTickWalks_mains :
    let out (s : State) : State := { s with faults := { s.faults with mains := ⟨true, false, 3⟩ } }
    let shows (s : State) := (s.share.state, s.share.hold, s.share.applied, s.share.pendingCut)
    let alone : State := { kitchen false 120 225 with share := { (kitchen false 120 225).share with state := .steady } }
    let cut : State := { out alone with faults := { (out alone).faults with link := ⟨true, false, 3⟩ } }
    let follower : State := { out served with share := { served.share with hold := 0 } }
    shows (after .announceTick (out (kitchen true 200 225))) = (.asking, 145, 145, 0)
      ∧ (after .announceTick (out (kitchen true 200 225))).bus.queue.map Entry.kind = [.announce 378 611#11]
      ∧ ((out alone).mainsOut = true ∧ (out alone).cutOff = false ∧ (out alone).mainsApply = out alone)
      ∧ (cut.cutOff = true ∧ cut.share.state ≠ .isolated ∧ shows cut.mainsApply = (.isolated, 180, 180, 0)
        ∧ cut.mainsApply.bus.queue.map Entry.kind = [.announce 378 611#11])
      ∧ (follower.Follows ∧ (follower.faults.get .link).active = false ∧ (follower.raise .link).share.state = .isolated
        ∧ served.Follows ∧ (served.raise .duplicateStation).share.state = .steady) := by decide +kernel
theorem test_witness_HoldRises :
    (kitchen false 120 0).share.hold < (after .announceTick (kitchen false 120 0)).share.hold
      ∧ (kitchen false 120 0).limit = some 360 ∧ 225 + (kitchen false 120 0).sumCounted Peer.hold (fun _ => true) + 15 = 360 := by
  decide +kernel
/-- A share engine before a boundary. -/
def sharing (st : ShareState) (hold cut ceiling : Nat) : State :=
  { served with
    share := { served.share with state := st, hold := hold, pendingCut := cut }, load := { served.load with ceiling := ceiling } }
theorem test_witness_BoundarySettlesTheHold :
    (sharing .steady 100 20 60).cutOff = false ∧ (sharing .steady 100 20 60).shareBoundary.share.hold = 60
      ∧ (sharing .steady 100 20 198).shareBoundary.share.state = .asking
      ∧ (sharing .asking 100 20 198).shareBoundary.share.hold = 80
      ∧ (sharing .unshared 100 20 198).shareBoundary.share.hold = 198
      ∧ (sharing .isolated 100 20 198).shareBoundary.share.hold = 80
      ∧ (sharing .isolated 100 0 198).shareBoundary.share.hold = 180
      ∧ (cutOffBus 3 4 9).cutOff = true
      ∧ (sharing .steady 100 20 60).shareBoundary.bus.queue.map Entry.kind = [.announce 60 428#11]
      ∧ (sharing .steady 100 0 198).shareBoundary.bus.queue.map Entry.kind = [.announce 198 428#11]
      ∧ (sharing .steady 60 0 60).shareBoundary.bus.queue = []
      ∧ (served.station < 32 ∧ served.share.hold ≤ 2047 ∧ served.announcedAsk ≤ 2047 ∧ served.rank ≤ 3) := by decide +kernel

/-- The next crossing is a second of the sequencer, within a frame. -/
def atSecond (s : State) : State := inFrame 5 { s with seq := { s.seq with clock := 49 } }
/-- The timers of a state one crossing before their ends. -/
def lastCycle (n : Nat) : Option CycleTimer := some ⟨n - 1, 49⟩
/-- A boiler in a state, its other fields given. -/
def boiling (b : BoilerState) (s : State) : State := { s with steam := { s.steam with boiler := b } }
/-- A drain with its valve open. -/
def draining (runOn drainTimer : Option CycleTimer) (low : Probe) : State :=
  inFrame 5 { served with
    steam := { served.steam with boiler := .draining, runOn := runOn, drainTimer := drainTimer, low := some low } }
/-- A fill whose stroke ends at the next crossing, after n strokes, under a request. -/
def stroking (req : BoilerRequest) (n : Nat) : State :=
  inFrame 5 { served with
    steam := { served.steam with boiler := .filling, request := req, stroke := .running 24, strokes := n } }
/-- A drain that waits for the boiler to cool, with no valid boiler temperature. -/
def cooling : State :=
  inFrame 5 { served with
    steam := { served.steam with boiler := .off, drainStarted := true, owed := some .endOfProgram, coolWait := lastCycle 600 } }
/-- A vent whose timer ends at the next crossing. -/
def venting : State :=
  let s := runs (recipe [steamed, roast]) 0 .vent served
  inFrame 5 { s with climate := { s.climate with venting := true, ventTimer := lastCycle 20 } }
/-- The door has stood open for 60 s at the next crossing. -/
def doorMinute (s : State) : State :=
  inFrame 5 { s with
    load := { s.load with doorTimer := lastCycle 60, ceiling := s.ceilingNow }, climate := { s.climate with door := some .opened }
    inputs := { s.inputs with door := .opened }
    seq := { s.seq with interruption := if s.hasActive then some 3 else none } }
/-- A soak of the descale program whose last second is next. -/
def soaking : State :=
  let s := atSecond (descaling 3)
  { s with
    seq := { s.seq with elapsed := 599, workKind := none, workDuration := none }
    steam := { s.steam with boiler := .off, request := .soak, soakHeating := true, lastBoiler := some 600, low := some .wet } }

/-- A soak's completion changes PROGRAM and WATER (R183), and a fault that ends a program FAULT and PROGRAM. -/
theorem test_two_reports :
    (after .soakComplete soaking).bus.queue.map Entry.kind = [.announce 8 857#11, .report .program, .report .water]
      ∧ (after (.sensorFaultRaised .cavity { inputs with cavity := 3201 })
          { roasting with faults := { served.faults with cavityRun := ⟨2, 0⟩ } }).bus.queue.map Entry.kind
        = [.report .program, .report .fault] := by decide +kernel
/-- The contents of a roast at 60 °C that holds 198 units, byte by byte (R196). -/
theorem test_contents :
    let s : State :=
      { roasting with
        climate := { roasting.climate with cavityReading := some 600, humidityReading := some 50, coreReading := some (-1) }
        steam := { served.steam with boilerReading := some 250 }
        share := { served.share with hold := 198, applied := 198 }, load := { served.load with ceiling := 198 } }
    (s.climateContents.take 13).map BitVec.toNat = [2, 88, 50, 0, 255, 255, 0, 180, 255, 32, 74, 0, 0]
      ∧ ((s.programContents.take 6 ++ s.programContents.drop 12).map BitVec.toNat
        = [96, 17, 0, 7, 2, 0, 32, 0, 0, 3, 0, 0, 0, 0, 60, 255, 255, 255, 255, 255, 0, 35, 0, 0, 255])
      ∧ s.waterContents.map BitVec.toNat = [0, 0, 250, 192, 0, 0, 255, 255, 0, 0, 15, 0, 0, 0, 0, 0, 0]
      ∧ s.shareContents.map BitVec.toNat = [36, 0, 198, 0, 198, 0, 0, 0, 198, 2, 1, 172, 0, 0, 1]
      ∧ s.faultContents = List.replicate 25 0#8
      ∧ (reportFrames s.waterContents).map (fun f => (f.take 1).map BitVec.toNat) = [[3], [19], [35]]
      ∧ (reportFrames s.waterContents).map List.length = [8, 8, 8] := by decide +kernel

theorem test_witness_CounterEvents_seconds :
    (let s := atSecond { roasting with seq := { roasting.seq with elapsed := 59 } };
      s.crossingRuns = true ∧ s.perSecond ≤ s.seq.clock + 1 ∧ s.counts = true ∧ s.countSecond.durationReached = true
        ∧ s.serviceActive = false ∧ (after .stepCountEnd s).store.slot0.code = 4)
    ∧ (soaking.counts = true ∧ soaking.countSecond.durationReached = true ∧ soaking.serviceActive = true
      ∧ (after .soakComplete soaking).scale.soakCount = 1)
    ∧ (let s := atSecond { roasting with seq := { roasting.seq with promptTimer := some 3599, prompt := some 3 } };
      s.seq.promptTimer = some 3599 ∧ (after .promptTimeout s).store.slot0.code = 4)
    ∧ (let s := atSecond { roasting with seq := { roasting.seq with interruption := some 1799, pauseFlag := true } };
      s.seq.interruption = some 1799 ∧ (after .interruptionTimeout s).store.slot0.code = 4)
    ∧ ¬((inFrame 5 served).perSecond ≤ (inFrame 5 served).seq.clock + 1) := by decide +kernel
/-- A state whose timer is at its last crossing reaches its end. -/
theorem test_witness_Reaches :
    ((doorMinute served).Reaches 60 (doorMinute served).load.doorTimer ∧ venting.Reaches 20 venting.climate.ventTimer)
      ∧ cooling.Reaches 600 cooling.steam.coolWait
      ∧ (draining (lastCycle 20) (some ⟨30, 0⟩) .dry).Reaches 20 (draining (lastCycle 20) (some ⟨30, 0⟩) .dry).steam.runOn
      ∧ (draining none (lastCycle 90) .wet).Reaches 90 (draining none (lastCycle 90) .wet).steam.drainTimer :=
  ⟨⟨⟨by decide, _, rfl, by decide, by decide⟩, by decide, _, rfl, by decide, by decide⟩, ⟨by decide, _, rfl, by decide, by decide⟩,
    ⟨by decide, _, rfl, by decide, by decide⟩, by decide, _, rfl, by decide, by decide⟩
/-- One crossing before, no timer does. -/
theorem test_witness_Reaches_not :
    ¬served.Reaches 60 served.load.doorTimer ∧ ¬served.Reaches 20 served.climate.ventTimer
      ∧ ¬served.Reaches 600 served.steam.coolWait ∧ ¬served.Reaches 20 served.steam.runOn ∧ served.valveOpen = false := by
  refine ⟨?_, ?_, ?_, ?_, by decide⟩ <;> (rintro ⟨_, c, h, _⟩; exact nomatch h)
theorem test_witness_ZeroCrossing :
    (after (.reset 0 4 0 .torn) served).startup.stage = .configFault ∧ (measuring 3).startup.stage = .measuring
      ∧ (let s : State := { served with faults := { served.faults with mains := broken false } };
        s.inService = true ∧ s.crossingRuns = false)
      ∧ served.boundaryDue = true ∧ (inFrame 18 served).InFrame ∧ (inFrame 0 served).InFrame ∧ ¬(inFrame 19 served).InFrame
      ∧ (after .zeroCrossing (inFrame 18 served)).load.cycle = 19 := by decide +kernel
theorem test_witness_FrameBoundary :
    (inFrame 18 served).boundaryDue = false ∧ (inFrame 19 served).boundaryDue = true ∧ (inFrame 19 served).load.running = true
      ∧ [306, 446].map (fun n => (after (.frameBoundary inputs n) (inFrame 19 served)).faults.mains.active) = [true, true]
      ∧ [307, 445].map (fun n => (after (.frameBoundary inputs n) (inFrame 19 served)).load.running) = [true, true]
      ∧ served.boundaryDue = true ∧ served.load.running = false := by decide +kernel
theorem test_witness_FrameEnd :
    let s : State :=
      { inFrame 19 served with
        load := { (inFrame 19 served).load with steamingCount := 11 }
        steam := { served.steam with evaporation := 120000 }, scale := { served.scale with load := 599990 } }
    s.load.running = true ∧ s.scale.load ≤ 1000000 ∧ (120000 + 1800 * 11) / 130000 = 1 ∧ s.endFrame.scale.load = 600005
      ∧ s.endFrame.retained.writing = some ⟨15, 600005, false, 0⟩ := by decide +kernel
theorem test_witness_Ceilings :
    served.hasActive = false ∧ roasting.activeStep = some roast ∧ roast.mode ≠ .wait ∧ roasting.ceilingNow = 198
      ∧ (let s : State := { roasting with seq := { roasting.seq with pauseFlag := true } };
        s.runState = some .paused ∧ s.ceilingNow = 8)
      ∧ (let s : State := { roasting with load := { roasting.load with doorTimer := some ⟨60, 0⟩ } }; s.ceilingNow = 8)
      ∧ (let s : State := { roasting with load := { roasting.load with doorTimer := some ⟨59, 49⟩ } }; s.ceilingNow = 198)
      ∧ (descaling 1).activeStep = some (serviceStep .wait (some 240) none) ∧ (descaling 1).ceilingNow = 0 := by decide +kernel
theorem test_witness_AllocationWithinTheBudget :
    (let s : State := { roasting with share := { roasting.share with applied := 100 } }
      let t := (s.beginFrame ⟨0, 0, 20, 0⟩).load;
      t.taken = ⟨0, 0, 20, 0⟩ ∧ t.alloc.ring = 9 ∧ t.limited = true)
    ∧ (let s : State := { roasting with share := { roasting.share with applied := 198 } };
      (s.beginFrame ⟨0, 0, 20, 0⟩).load.limited = false)
    ∧ roasting.share.applied = 0
    ∧ (43400 < 1900 * 15 + 1800 * 12 ∧ 0 < 1400 ∧ 0 < 1100 ∧ 0 < 1900 ∧ 0 < 1800) := by decide +kernel
theorem test_witness_PlacementIsEven :
    19 ∈ placed 0 1 ∧ placed 3 20 = List.range 20 ∧ placed 3 0 = [] ∧ (placed 2 13).length = 13 := by decide

theorem test_witness_ClimateRegulators :
    roasting.climate.mode = some .convection ∧ Mode.heats .convection = true ∧ roasting.runState = some .running
      ∧ (Mode.steam.heats = true ∧ Mode.combi.humidityRegulated = true ∧ Mode.convection.humid = false)
      ∧ (let s : State := { roasting with climate := { roasting.climate with door := some .opened } };
        s.climate.door = some .opened ∧ s.runState = some .held)
      ∧ (let s : State := { roasting with faults := { roasting.faults with cavitySensor := broken false } };
        s.faults.cavitySensor.active = true ∧ s.regulate.climate.lastDemand = 0)
      ∧ (served.climate.mode = none ∧ (descaling 1).climate.mode = some .wait ∧ Mode.wait.heats = false
        ∧ (descaling 3).climate.mode = some .soak ∧ Mode.soak.heats = false)
      ∧ [served, roasting, steaming, venting, descaling 3].map State.convectionFan = [0, 2, 1, 2, 0]
      ∧ [served, roasting, doorMinute served].map State.lampOn = [false, true, true] := by decide +kernel
theorem test_witness_WeightedDemands :
    roasting.climate.mode = some .convection ∧ served.climate.mode = none ∧ steaming.climate.mode = some .steam
      ∧ 20 * Mode.topBottom.weight .bottom / 4 = 15 ∧ 0 < Mode.topBottom.weight .bottom := by decide
theorem test_witness_SamplesAndSensorFaults :
    (served.timerSamples = true ∧ (inFrame 5 served).timerSamples = false ∧ (inFrame 5 served).startup.stage ≠ .configFault
      ∧ (after (.sampleTick { inputs with door := .opened }) (inFrame 5 served)).inputs.door = .opened
      ∧ (after (.reset 0 4 0 .torn) served).startup.stage = .configFault)
    ∧ (let s : State := { served with faults := { served.faults with cavityRun := ⟨2, 0⟩ } }
      let bad : Sample := { inputs with cavity := 3201 };
      ¬(-200 ≤ bad.cavity ∧ bad.cavity ≤ 3200) ∧ (s.faults.run .cavity).bad = 2 ∧ s.faults.cavitySensor.active = false
        ∧ (after (.sensorFaultRaised .cavity bad) s).faults.cavitySensor = ⟨true, false, 1⟩
        ∧ (inFrame 19 s).boundaryDue = true ∧ (inFrame 19 s).timerSamples = false
        ∧ (after (.sensorFaultRaised .cavity bad) (inFrame 19 s)).faults.cavitySensor = ⟨true, false, 1⟩)
    ∧ (let s : State := { served with faults := { served.faults with humidityRun := ⟨0, 2⟩, humiditySensor := broken false } };
      (s.faults.run .humidity).good = 2 ∧ s.faults.humiditySensor.latched = false
        ∧ (after (.sensorFaultEnded .humidity { inputs with humidity := some 100 }) s).faults.humiditySensor = ⟨false, false, 3⟩)
    ∧ [3200, 3201, -200, -201].map (fun c => (after (.sampleTick { inputs with cavity := c }) served).climate.lastCavity)
      = [some 3200, none, some (-200), none] := by decide +kernel
/-- A roast by core temperature in COUNT, with the probe at a reading. -/
def probing (fallback : Option Nat) (hold : Bool) (status : CoreStatus) (tenths : Int) : State :=
  let s := runs (recipe [{ roast with endKind := some .core, coreTarget := some 60, fallback := fallback }]) 0 .count served
  { s with
    seq := { s.seq with workKind := some .core, workDuration := none, probeHold := hold }
    climate := { s.climate with coreStatus := status, coreReading := some tenths } }
theorem test_witness_SampleTests :
    (let r : StepRecord := { roast with preheat := true }
      let s : State := runs (recipe [r]) 0 .preheat { served with climate := { served.climate with lastCavity := some 1750 } };
      s.activeStep = some r ∧ s.phase = some .preheat ∧ s.runState = some .running ∧ 10 * ((180 : Int) - 5) ≤ 1750
        ∧ (s.sampleTests true).phase = some .count)
    ∧ ((probing none true .present 600).phase = some .count ∧ (probing none true .present 600).seq.workKind = some .core
      ∧ ((probing none true .present 600).sampleTests false).seq.probeHold = false)
    ∧ ((probing none true .absent 600).sampleTests false = probing none true .absent 600)
    ∧ (((probing (some 90) false .absent 600).sampleTests false).seq.workKind = some .timed
      ∧ ((probing none false .absent 600).sampleTests false).seq.probeHold = true)
    ∧ (((probing none false .present 600).sampleTests false).store.slot0.code = 4
      ∧ (probing none false .present 599).sampleTests false = probing none false .present 599)
    ∧ (served.phase ≠ some .preheat ∧ roasting.seq.workKind ≠ some .core) := by decide +kernel
/-- The record of a kind. -/
def faulty (k : FaultKind) (r : FaultRecord) (s : State) : State := { s with faults := s.faults.set k r }
theorem test_witness_FaultRecordTransitions :
    (served.raise .cavitySensor).faults.cavitySensor = ⟨true, false, 1⟩
      ∧ ((faulty .boilerDry (broken true) served).raise .boilerDry).faults.boilerDry = broken false
      ∧ ((faulty .cavitySensor (broken false) served).condGone .cavitySensor).faults.cavitySensor = ⟨false, false, 3⟩
      ∧ ((faulty .boilerDry (broken false) served).condGone .boilerDry).faults.boilerDry = broken true
      ∧ ((faulty .duplicateStation (broken false) served).condGone .duplicateStation).faults.duplicateStation = broken false
      ∧ (faulty .boilerDry (broken true) served).clearFaults.faults.boilerDry = ⟨false, false, 3⟩
      ∧ ((faulty .mains ⟨false, false, 255⟩ served).raise .mains).faults.mains.count = 255 := by decide +kernel
theorem test_witness_FaultEffects :
    (served.faults.get .boilerDry).active = false
      ∧ ((inFrame 5 served).load.running = true ∧ ((inFrame 5 served).raise .cavitySensor).load.withdrawn = ⟨true, true, true, false⟩)
      ∧ ((roasting.activeRun = some (⟨.s0, 0, .count⟩, recipe [roast])) ∧ (roasting.raise .cavitySensor).store.slot0.code = 4
        ∧ (roasting.raise .boilerDry).store.slot0.code = 3 ∧ (steaming.raise .boilerDry).store.slot0.code = 4
        ∧ (roasting.raise .link).store.slot0.code = 3)
      ∧ (let s : State := { descaling 2 with scale := { served.scale with drainOnStop := true } };
        s.seq.stopFlag = false ∧ (s.raise .boilerDry).seq.forcedCause = some .fault
          ∧ ((descaling 2).raise .boilerDry).store.slot0.code = 4)
      ∧ (sharing .steady 100 0 60).raise .mains ≠ sharing .steady 100 0 60 := by decide +kernel
theorem test_witness_MainsLossAndReturn :
    (served.inService = true ∧ served.mainsOut = false ∧ (after .mainsLoss (inFrame 5 served)).load.running = false)
    ∧ (let s : State := { inFrame 5 served with climate := { served.climate with doorPending := true } };
      (after .mainsLoss s).climate.doorPending = false ∧ (s.raise .link).climate.doorPending = true)
    ∧ (let s := faulty .mains (broken false) served;
      s.mainsOut = true ∧ s.faults.mains.latched = false ∧ s.load.running = false
        ∧ [768, 769, 1111, 1112].map (fun ms => (after (.mainsRestored ms) s).faults.mains.active) = [true, false, false, true]
        ∧ [909, 910].map (fun ms => (after (.mainsRestored ms) { s with startup := { s.startup with freq := none } }).startup.freq)
          = [some .hz60, some .hz50]) := by decide +kernel
theorem test_witness_DoorOpensAndCloses :
    (let s := inFrame 5 { steaming with store := { steaming.store with slot1 := .done (recipe [roast]) .finished } };
      s.climate.door = some .closed ∧ s.load.running = true ∧ s.store.slot .s1 = .done (recipe [roast]) .finished
        ∧ s.stepHumid = true ∧ s.inService = true ∧ s.share.state ≠ .quiet ∧ (after .doorOpen s).store.slot1 = .empty)
    ∧ ((sharing .quiet 0 0 0).share.state = .quiet ∧ (sharing .quiet 0 0 0).limit ≠ none
      ∧ (after .doorOpen (sharing .quiet 0 0 0)).share.state = .steady)
    ∧ (let s : State := { served with climate := { served.climate with door := some .opened } };
      s.climate.door = some .opened ∧ s.startup.freq ≠ none ∧ (after .doorClose s).climate.flapDriven = .opened) := by
  decide +kernel
/-- The raw switch reads open at crossings: the first is noted, the second opens the door, and a reading between them that
agrees with the state starts again. -/
theorem test_witness_DoorExamined :
    let raw (d : Door) (s : State) : State := { s with inputs := { s.inputs with door := d } }
    let s := raw .opened (inFrame 5 served)
    let t := after .zeroCrossing s
    let u := after .zeroCrossing t
    (s.climate.door = some .closed ∧ s.inputs.door ≠ .closed ∧ s.climate.doorPending = false)
      ∧ (t.climate.door = some .closed ∧ t.climate.doorPending = true ∧ t.inputs.door = .opened)
      ∧ (u.climate.door = some .opened ∧ u.climate.doorPending = false ∧ u.load.doorTimer = some ⟨0, 0⟩)
      ∧ (after .zeroCrossing (raw .closed t)).climate.doorPending = false
      ∧ (served.climate.door = some served.inputs.door ∧ (measuring 0).climate.door = none)
      ∧ (let v : State := { raw .closed u with climate := { u.climate with doorPending := true } };
        v.climate.door = some .opened ∧ v.inputs.door = .closed ∧ v.examineDoor.climate.door = some .closed) := by
  decide +kernel
theorem test_witness_VentAndDoorMinute :
    (venting.climate.venting = true ∧ steaming.climate.venting = false)
    ∧ ((doorMinute served).Follows ∧ (doorMinute roasting).Follows ∧ (doorMinute served).hasActive = false
      ∧ (doorMinute roasting).load.ceiling = 198 ∧ (after .doorOpenMinute (doorMinute roasting)).load.ceiling = 8)
    ∧ (let v := (venting.crossed.fireDrain).runSettle;
      v.climate.ventTimer = some ⟨20, 0⟩ ∧ v.phase = some .vent ∧ venting.boundaryDue = false
        ∧ (after .ventComplete venting).seq.run = some ⟨.s0, 1, .count⟩) := by decide +kernel
/-- A boiler with LOW wet. -/
def wetBoiler (b : BoilerState) (req : BoilerRequest) : State :=
  inFrame 5 { served with steam := { served.steam with boiler := b, low := some .wet, request := req } }
theorem test_witness_LowProbe :
    (served.steam.low ≠ some .wet ∧ (wetBoiler .steaming .steam).steam.low = some .wet ∧ (wetBoiler .steaming .steam).barsFilling = false
      ∧ (wetBoiler .steaming .steam).steam.high ≠ some .wet ∧ (after .lowDry (wetBoiler .steaming .steam)).steam.boiler = .filling)
    ∧ ((wetBoiler .off .soak).mustDrainFirst = false ∧ (after .lowDry (wetBoiler .off .soak)).steam.boiler = .filling
      ∧ (after .lowDry (wetBoiler .off .none)).steam.boiler = .off)
    ∧ ((wetBoiler .draining .none).steam.boiler = .draining ∧ (after .lowDry (wetBoiler .draining .none)).steam.runOn = some ⟨0, 0⟩)
    ∧ (served.steam.low = some .dry ∧ served.steam.boiler = .empty ∧ served.steam.request = .none
      ∧ (after .lowWet served).steam.owed = some .waterFound)
    ∧ ([89, 90].map (fun n => (after .lowWet (draining (some ⟨3, 0⟩) (some ⟨n, 0⟩) .dry)).steam.boiler) = [.draining, .off]) := by
  decide +kernel
theorem test_witness_HighProbe :
    (served.steam.high = some .dry ∧ served.steam.boiler ≠ .filling)
    ∧ ((stroking .steam 3).steam.boiler = .filling ∧ (after .highWet (stroking .steam 3)).steam.boiler = .heating
      ∧ (after .highWet (stroking .fill 3)).steam.boiler = .off ∧ (after .highWet (stroking .soak 3)).steam.soakHeating = true
      ∧ (after .highWet (stroking .rinse 3)).steam.drainStarted = true ∧ (after .highWet (stroking .none 3)).steam.boiler = .empty)
    ∧ (after .highWet (stroking .fill 0)).scale.rinseOwed = true
    ∧ (after .highWet served).steam.high = some .wet := by decide +kernel
/-- A fill with a tank and a wait. -/
def filling (tank : Tank) (w : Option TankWait) : State :=
  { served with steam := { served.steam with boiler := .filling, tank := some tank, fillWait := w, strokes := 40 } }
theorem test_witness_TankEvents :
    (served.steam.tank ≠ some .absent ∧ (filling .absent (some .absent)).steam.tank = some .absent)
    ∧ [TankLevel.empty, .low, .ok].map (fun l => (after (.tankArrives l) (filling .absent (some .absent))).steam.fillWait)
      = [some .empty, none, none]
    ∧ (after (.tankArrives .ok) { served with steam := { served.steam with tank := some .absent } }).steam.tank = some (.present .ok)
    ∧ ((after .tankRemoved (filling (.present .low) none)).steam.fillWait = some .absent
      ∧ (after .tankRemoved served).steam.tank = some .absent)
    ∧ ((after (.tankLevelChange .empty) (filling (.present .low) none)).steam.fillWait = some .empty
      ∧ (after (.tankLevelChange .low) (filling (.present .empty) (some .empty))).steam.strokes = 0
      ∧ (after (.tankLevelChange .empty) (filling (.present .low) (some .budget))).steam.fillWait = some .budget
      ∧ (after (.tankLevelChange .ok) (filling (.present .low) (some .budget))).steam.fillWait = some .budget) := by decide +kernel
theorem test_witness_PumpStrokes :
    ((stroking .steam 79).InFrame ∧ (stroking .steam 79).steam.boiler = .filling ∧ (stroking .steam 79).suspended = false
      ∧ (stroking .steam 79).steam.stroke = .running 24)
    ∧ [79, 80].map (fun n => (after .strokeEnd (stroking .steam n)).steam.fillWait) = [none, some .budget]
    ∧ (let s := stroking .fill 3; s.steam.request = .fill ∧ s.scale.rinseOwed = false ∧ (after .strokeEnd s).scale.rinseOwed = true)
    ∧ (let s : State := { stroking .steam 3 with steam := { (stroking .steam 3).steam with stroke := .awaiting } };
      s.strokeCrossing.steam.strokes = 4)
    ∧ (let s : State := { stroking .steam 3 with steam := { (stroking .steam 3).steam with stroke := .running 23 } };
      s.strokeCrossing.steam.stroke = .running 24)
    ∧ served.steam.boiler ≠ .filling ∧ (stroking .steam 79).pumpOn = true ∧ (draining none none .wet).drainValveOpen = true := by
  decide +kernel
theorem test_witness_DrainValveOpens :
    (let s : State := { cooling with load := { cooling.load with running := false }, steam := { cooling.steam with coolWait := some .zero } }
      let v := (s.sampleAll { inputs with boiler := 800 }).sampleTests false;
      s.timerSamples = true ∧ s.steam.drainStarted = true ∧ v.valveDue = true ∧ v.steam.handed = none
        ∧ [800, 801].map (fun n => (after (.drainValveOpens { inputs with boiler := n }) s).steam.boiler) = [.draining, .off])
    ∧ (let s := inFrame 19 { cooling with steam := { cooling.steam with coolWait := some .zero } };
      s.boundaryDue = true ∧ s.timerSamples = false ∧ (s.boundaryCrossing { inputs with boiler := 800 } 400).steam.boiler = .draining)
    ∧ served.steam.drainStarted = false
    ∧ (cooling.boilerInUse = none ∧ cooling.boundaryDue = false ∧ cooling.steam.drainStarted = true ∧ cooling.steam.handed = none
      ∧ cooling.steam.boiler ≠ .draining ∧ cooling.tankPresent = true ∧ cooling.faults.drainTimeout.active = false
      ∧ (after .coolWaitExpired cooling).steam.boiler = .draining) := by decide +kernel
/-- A boiler at a temperature, below LOW wet, under a request and with a demand handed. -/
def boilerAt (b : BoilerState) (req : BoilerRequest) (tenths : Option Int) (demand : Nat) : State :=
  { served with
    climate := { served.climate with lastBoilerDemand := demand }
    steam := { served.steam with boiler := b, request := req, lastBoiler := tenths, low := some .wet } }
/-- The boiler at a boundary: its transitions and its stated demand at the limits of the temperatures. -/
theorem test_witness_FrameBoundary_boiler :
    let goes (b : BoilerState) (t : Int) (d : Nat) := (boilerAt b .steam (some t) d).boilerBoundary.steam.boiler
    let states (b : BoilerState) (soak : Bool) (t : Int) :=
      let s := boilerAt b .soak (some t) 7
      ({ s with steam := { s.steam with soakHeating := soak } } : State).statedDemand
    [979, 980].map (fun t => goes .heating t 0) = [.heating, .ready]
      ∧ [goes .ready 899 0, goes .ready 900 0, goes .ready 899 1] = [.heating, .ready, .steaming]
      ∧ [goes .steaming 899 0, goes .steaming 899 1] = [.ready, .steaming]
      ∧ (boilerAt .ready .none (some 899) 3).boilerBoundary = boilerAt .ready .none (some 899) 3
      ∧ (boilerAt .off .steam none 3).boilerBoundary = boilerAt .off .steam none 3
      ∧ [states .heating false 990, states .ready false 989, states .ready false 990, states .steaming false 990] = [20, 4, 0, 7]
      ∧ [569, 570, 599, 600].map (states .off true) = [20, 5, 5, 0]
      ∧ (states .off false 100 = 0 ∧ states .empty false 100 = 0)
      ∧ (let s : State := { roasting with seq := { roasting.seq with pauseFlag := true }, steam := (boilerAt .heating .steam none 0).steam };
        s.runState = some .paused ∧ s.statedDemand = 0) := by decide +kernel
/-- A request handed clears an owed drain of the end of a program or of a time-out, and no other; it gives up a drain of the
request before; it stops a fill under NONE and DRAIN alone; it waits behind a drain that has opened its valve. -/
theorem test_witness_requests_handed :
    let owing (why : OwedDrain) : State :=
      let s := boilerAt .off .none (some 900) 0
      { s with steam := { s.steam with owed := some why, drainStarted := true, coolWait := some .zero } }
    let hands (req : BoilerRequest) (s : State) := ((s.handRequest req).steam.boiler, (s.handRequest req).steam.owed)
    [OwedDrain.endOfProgram, .timedOut, .waterFound, .startUp].map (fun o => hands .steam (owing o))
        = [(.heating, none), (.heating, none), (.off, some .waterFound), (.off, some .startUp)]
      ∧ (let s := boilerAt .off .drain (some 900) 0
        let t : State := { s with steam := { s.steam with drainStarted := true, drainServes := true, coolWait := some .zero } };
        (t.handRequest .none).steam.drainStarted = false ∧ (t.handRequest .drain) = t)
      ∧ [BoilerRequest.none, .drain, .steam, .soak].map (fun r => (stroking .fill 3).handRequest r |>.steam.boiler)
        = [.empty, .empty, .filling, .filling]
      ∧ (hands .steam (draining none (some .zero) .wet) = (.draining, none)
        ∧ ((draining none (some .zero) .wet).handRequest .drain).steam.drainServes = true)
      ∧ ((boilerAt .steaming .steam none 3).handRequest .none).steam.boiler = .off := by decide +kernel
/-- A request served by the boiler as it stands: dry, wet, hot, full, barred. -/
theorem test_witness_requests_served :
    let serves (s : State) := (s.serve.steam.boiler, s.serve.steam.soakHeating, s.serve.steam.drainStarted)
    let dry (req : BoilerRequest) (high : Probe) : State :=
      { served with steam := { served.steam with request := req, high := some high } }
    [979, 980].map (fun t => serves (boilerAt .off .steam (some t) 0)) = [(.heating, false, false), (.ready, false, false)]
      ∧ serves (faulty .boilerDry (broken false) (boilerAt .off .steam (some 980) 0)) = (.off, false, false)
      ∧ (boilerAt .steaming .steam none 0).serve = boilerAt .steaming .steam none 0
      ∧ [BoilerRequest.steam, .fill, .soak, .rinse].map (fun r => (dry r .dry).serve.steam.boiler)
        = [.filling, .filling, .filling, .filling]
      ∧ [BoilerRequest.steam, .fill, .soak, .rinse].map (fun r => serves (dry r .wet))
        = [(.heating, false, false), (.off, false, false), (.off, true, false), (.off, false, true)]
      ∧ (dry .fill .wet).serve.scale.rinseOwed = true
      ∧ (let s := faulty .boilerSensor (broken false) (dry .fill .dry); s.serve = s)
      ∧ serves (boilerAt .off .soak none 0) = (.off, true, false)
      ∧ [BoilerState.empty, .heating].map (fun b => serves (boilerAt b .drain none 0)) = [(.empty, false, true), (.off, false, true)]
      ∧ (served.serve = served ∧ (boilerAt .standing .fill none 0).serve = boilerAt .standing .fill none 0) := by decide +kernel
/-- A drain that serves a request at its last run-on second. -/
def serving (req : BoilerRequest) (pass : Nat) : State :=
  let s := draining (lastCycle 20) (some ⟨30, 0⟩) .dry
  { s with steam := { s.steam with drainServes := true, request := req, rinsePass := pass } }
theorem test_witness_DrainEnds :
    (let s := draining (lastCycle 20) (some ⟨30, 0⟩) .dry;
      s.valveOpen = true ∧ s.boundaryDue = false ∧ s.crossed.steam.boiler = .draining ∧ s.crossed.steam.runOn = some ⟨20, 0⟩
        ∧ s.crossed.steam.drainServes = false ∧ (after .drainComplete s).steam.boiler = .empty)
    ∧ ((serving .drain 0).crossed.steam.drainServes = true ∧ (serving .drain 0).crossed.drainEnds.steam.handed = some .drainComplete
      ∧ (serving .rinse 0).crossed.drainEnds.steam.boiler = .filling
      ∧ (let s := (serving .rinse 0).crossed
        let wet : State := { s with steam := { s.steam with high := some .wet } }
        let waiting : State := { s with steam := { s.steam with drainServes := false, request := .steam, owed := some .waterFound } }
        let shows (s : State) := (s.drainEnds.steam.boiler, s.drainEnds.steam.drainStarted, s.drainEnds.steam.rinsePass)
        shows wet = (.off, true, 1) ∧ shows (faulty .boilerDry (broken true) wet) = (.empty, false, 1)
          ∧ shows waiting = (.filling, false, 0))
      ∧ (serving .rinse 1).crossed.drainEnds.steam.handed = some .rinseComplete)
    ∧ (let s := draining none (lastCycle 90) .wet;
      s.valveOpen = true ∧ s.steam.runOn = none ∧ s.crossed.steam.runOn = none ∧ s.crossed.steam.drainTimer = some ⟨90, 0⟩
        ∧ s.crossed.faults.drainTimeout.active = false ∧ (after .drainTimeout s).steam.boiler = .off
        ∧ (after .drainTimeout s).faults.drainTimeout = ⟨true, true, 1⟩) := by decide +kernel

theorem test_witness_Second :
    (roasting.activeRun = some (⟨.s0, 0, .count⟩, recipe [roast]) ∧ (recipe [roast]).step 0 = some roast
      ∧ (atSecond roasting).secondDue = true ∧ (after .second (atSecond roasting)).seq.elapsed = 1)
    ∧ (let s := atSecond { roasting with seq := { roasting.seq with elapsed := 59 } };
      s.countEndDue = true ∧ s.serviceActive = false ∧ s.beforeSecond.counts = true
        ∧ s.beforeSecond.countSecond.durationReached = true ∧ s.beforeSecond.activeStep = some roast)
    ∧ (soaking.countEndDue = true ∧ soaking.serviceActive = true ∧ soaking.beforeSecond.counts = true
      ∧ soaking.beforeSecond.countSecond.durationReached = true
      ∧ (soaking.beforeSecond.activeStep.map StepRecord.mode) = some .soak)
    ∧ (let s := atSecond { roasting with seq := { roasting.seq with promptTimer := some 3599, prompt := some 3 } };
      s.secondDue = true ∧ s.beforeSecond.seq.promptTimer = some 3599 ∧ s.beforeSecond.countSecond.durationReached = false)
    ∧ (let s := atSecond { roasting with seq := { roasting.seq with interruption := some 1799, pauseFlag := true } };
      s.secondDue = true ∧ s.beforeSecond.seq.interruption = some 1799 ∧ s.beforeSecond.counts = false)
    ∧ (served.activeRun = none ∧ served.seq.promptTimer = none ∧ served.seq.interruption = none) := by decide +kernel
theorem test_witness_Settling :
    served.NothingDue
      ∧ (let s : State := { cooling with steam := { cooling.steam with coolWait := some ⟨600, 0⟩ } };
        s.valveDue = true ∧ ¬s.NothingDue ∧ s.keepInterruption.settleOnce.NothingDue)
      ∧ (let s := fun (stop : Bool) (x : Handed) => ({ descaling 0 with
            steam := { (descaling 0).steam with handed := some x }, seq := { (descaling 0).seq with stopFlag := stop } } : State);
        (s false .drainComplete).valveDue = false ∧ (s false .drainComplete).serviceActive = true
          ∧ (s false .drainComplete).settleOnce.seq.run = some ⟨.s0, 1, .count⟩
          ∧ (s true .drainComplete).settleOnce.store.slot0.code = 4 ∧ (s true .fillComplete).settleOnce.store.slot0.code = 3)
      ∧ (let s := boiling .ready (runs (recipe [steamed]) 0 .prepare served);
        s.prepareDue = true ∧ s.valveDue = false ∧ s.steam.handed = none ∧ s.activeStep = some steamed
          ∧ s.settleOnce.phase = some .count)
      ∧ { served with steam := { served.steam with handed := some .fillComplete } }.serviceActive = false := by decide +kernel
/-- The end of PREPARE, at the end of a hold or a pause, finds the program RUNNING: a COUNT that is HELD(PROBE) at once starts the
interruption timer at 0, and a COUNT that runs leaves it idle (R126, R129, R134). -/
theorem test_interruption_restarts_after_prepare :
    let cored : StepRecord := { steamed with endKind := some .core, coreTarget := some 60, duration := none }
    let waits (r : StepRecord) (d : Door) (pause : Bool) : State :=
      let s := boiling .ready (runs (recipe [r]) 0 .prepare served)
      { s with
        climate := { s.climate with door := some d }
        seq := { s.seq with pauseFlag := pause, interruption := some 900 } }
    let shows (s : State) := (s.phase, s.runState, s.seq.interruption)
    shows (after .doorClose (waits cored .opened false)) = (some .count, some .held, some 0)
      ∧ shows (after (.continue_ 2 []) (waits cored .closed true)) = (some .count, some .held, some 0)
      ∧ shows (after .doorClose (waits steamed .opened false)) = (some .count, some .running, none)
      ∧ shows (after .doorClose (waits cored .opened true)) = (some .prepare, some .paused, some 900) := by decide +kernel
/-- A ceiling of 198 units, new to the share engine: what it does in STEADY, ASKING and ISOLATED by the hold and the latched ask
(R13, R15). -/
theorem test_witness_Settling_ceiling :
    let at_ (st : ShareState) (hold ask : Nat) : State :=
      { roasting with share := { roasting.share with state := st, hold := hold, ask := ask, ownCount := 2, denyCount := 3 } }
    let shows (s : State) := (s.share.state, s.share.ask, s.share.ownCount, s.share.denyCount, s.bus.queue.length)
    roasting.ceilingNow = 198 ∧ roasting.load.ceiling = 0
      ∧ [at_ .steady 198 7, at_ .steady 197 7, at_ .asking 198 7, at_ .asking 197 198, at_ .asking 197 7, at_ .isolated 0 7].map
          (fun s => shows s.updateCeiling)
        = [(.steady, 7, 2, 3, 0), (.asking, 198, 0, 0, 1), (.steady, 7, 2, 0, 0), (.asking, 198, 2, 3, 0),
          (.asking, 198, 0, 3, 1), (.isolated, 7, 2, 3, 0)]
      ∧ served.updateCeiling = served := by decide +kernel
/-- A legal store with a completion due: the drain of a descale program has been handed. -/
theorem test_witness_Settling_due :
    let s : State := { descaling 0 with steam := { (descaling 0).steam with handed := some .drainComplete } }
    s.StoreLegal ∧ ¬s.NothingDue ∧ s.runSettle.NothingDue :=
  ⟨⟨show Program.Legal _ ∧ _ from by decide +kernel, trivial, show _ ∧ _ ∧ _ from by decide +kernel⟩, by decide +kernel,
    by decide +kernel⟩
theorem test_witness_ProgramEnds :
    served.activeRun = none ∧ roasting.activeRun = some (⟨.s0, 0, .count⟩, recipe [roast])
      ∧ (let s : State := { wetBoiler .steaming .steam with
            store := steaming.store, seq := steaming.seq
            steam := { (wetBoiler .steaming .steam).steam with used := true } };
        s.steam.request ≠ .none ∧ s.steam.used = true ∧ s.load.running = true ∧ (s.endProgram .finished).steam.boiler = .off
          ∧ (s.endProgram .finished).steam.owed = some .endOfProgram) := by decide +kernel
/-- A chained roast READY in slot 1. -/
def chained (chain : Bool) (s : State) : State :=
  { s with store := { s.store with slot1 := .ready { recipe [roast] with chain := chain } } }
theorem test_witness_StepsAndPhases :
    (let s : State := { roasting with seq := { roasting.seq with stopFlag := true } };
      s.seq.stopFlag = true ∧ s.stepComplete.store.slot0.code = 4)
    ∧ (let f := (chained true roasting).endProgram .finished;
      f.store.slot1 = .ready { recipe [roast] with chain := true } ∧ f.startRefusal { recipe [roast] with chain := true } = none
        ∧ (chained true roasting).stepComplete.store.slot1.code = 3 ∧ (chained false roasting).stepComplete.store.slot1.code = 2)
    ∧ (let s := faulty .cavitySensor (broken false) (chained true roasting);
      s.stepComplete.report.chainRefusal = some .faultBlock)
    ∧ (let s := runs (recipe [roast, steamed]) 0 .count served;
      ¬((recipe [roast, steamed]).stepCount ≤ 0 + 1) ∧ (recipe [roast, steamed]).step 1 = some steamed
        ∧ s.stepComplete.seq.run = some ⟨.s0, 1, .prepare⟩
        ∧ (faulty .boilerDry (broken false) s).stepComplete.store.slot0.code = 4)
    ∧ (let probe (d : Option Nat) : State := runs (recipe [roast, { roast with endKind := some .core, fallback := d }]) 0 .count served;
      (probe (some 90)).climate.coreStatus ≠ .present ∧ (probe (some 90)).stepComplete.seq.workKind = some .timed
        ∧ (probe none).stepComplete.seq.probeHold = true)
    ∧ (let s := runs (recipe [roast, { roast with promptIn := some 4 }]) 0 .count served;
      s.stepComplete.seq.prompt = some 4 ∧ s.stepComplete.phase = some .promptIn)
    ∧ ((descaling 5).stepComplete.seq.run = some ⟨.s0, 6, .count⟩ ∧ (descaling 5).stepComplete.scale.drainOnStop = true)
    ∧ ((steaming.endCount).phase = some .vent ∧ (roasting.endCount).store.slot0.code = 4
      ∧ ((runs (recipe [{ roast with promptOut := some 9 }]) 0 .count served).endCount).phase = some .promptOut) := by decide +kernel
/-- A humid program ends before a chained humid one, its boiler at a temperature: at 80.0 °C the drain that it owes has opened its
valve before the chain's STEAM, above that the request clears it (R91, R94, R144). -/
theorem test_chain_after_the_drain :
    let ends (tenths : Int) : State :=
      let s := runs (recipe [steamed]) 0 .count served
      { s with
        store := { s.store with slot1 := .ready { recipe [steamed] with chain := true } }
        steam := { (boilerAt .ready .steam (some tenths) 0).steam with used := true } }
    let shows (s : State) := (s.stepComplete.steam.boiler, s.stepComplete.steam.owed, s.stepComplete.steam.request)
    shows (ends 800) = (.draining, some .endOfProgram, .steam) ∧ shows (ends 801) = (.heating, none, .steam)
      ∧ ((ends 800).endProgram .finished).valveDue = true ∧ ((ends 801).endProgram .finished).valveDue = false := by
  decide +kernel
/-- The way through the phases of a step: from PROMPT_IN to PREPARE, PREHEAT and COUNT, with the boiler's request and prompt. -/
theorem test_witness_phases :
    let heated : StepRecord := { roast with mode := .combi, humidity := some 50, preheat := true }
    let asked : StepRecord := { roast with endKind := some .promptOnly, promptOut := some 9 }
    let cored (f : Option Nat) : StepRecord := { roast with endKind := some .core, coreTarget := some 60, fallback := f }
    let shows (s : State) := (s.phase, s.steam.request)
    (heated.mode.humid = true ∧ shows (roasting.toPrepare heated) = (some .prepare, .steam))
      ∧ (heated.preheat = true ∧ shows (roasting.toPreheat heated) = (some .preheat, .steam))
      ∧ shows (roasting.toPrepare { roast with preheat := true }) = (some .preheat, .none)
      ∧ shows (roasting.toPrepare roast) = (some .count, .none)
      ∧ ((roasting.toCount asked).seq.prompt = some 9 ∧ (roasting.toCount asked).seq.promptTimer = some 0)
      ∧ ((roasting.toCount (cored (some 90))).seq.workDuration = some 90 ∧ (roasting.toCount (cored none)).seq.probeHold = true)
      ∧ (roasting.toCount { roast with mode := .soak }).steam.request = .soak := by decide +kernel
/-- A step of a mode in COUNT with integrators that have moved, before another step; and what is kept of them. -/
def before (m : Mode) (r : StepRecord) : State :=
  let s := runs (recipe [{ roast with mode := m }, r]) 0 .count served
  { s with climate := { s.climate with tempI := 700, humI := 300 } }
/-- The integrators and the humidity target. -/
def kept (s : State) : Int × Int × Option Nat := (s.climate.tempI, s.climate.humI, s.climate.humidityTarget)
theorem test_integrators_at_entry :
    kept (before .combi roast).stepComplete = (700, 0, none)
      ∧ kept (before .combi { roast with mode := .reheat }).stepComplete = (700, 300, some 50)
      ∧ kept (before .steam { roast with mode := .proof }).stepComplete = (0, 0, some 75)
      ∧ kept (before .reheat { roast with mode := .proof, humidity := some 80 }).stepComplete = (0, 300, some 80)
      ∧ kept (before .topBottom { roast with mode := .keepWarm }).stepComplete = (700, 0, none)
      ∧ kept (before .wait { roast with mode := .combi, humidity := some 40 }).stepComplete = (0, 0, some 40) := by
  decide +kernel
theorem test_witness_RetainedWrite :
    served.retained.writing = none
      ∧ (let s := faulty .retainedRecord (broken false) { served with retained := ⟨.blank, some ⟨15, 7, false, 0⟩, none⟩ };
        s.retained.writing = some ⟨15, 7, false, 0⟩ ∧ (after (.retainedWriteComplete true) s).faults.retainedRecord = broken true
          ∧ (after (.retainedWriteComplete true) s).retained.stored = .good ⟨15, 7, false, 0⟩
          ∧ (after (.retainedWriteComplete false) s).retained.writing = some ⟨15, 7, false, 0⟩) := by decide +kernel
/-- The part takes requests from a panel in a state. -/
theorem served_takes (s : State) (h : s.receives = true) (p : s.share.peers = [panel 2]) (n : s.station = 7)
    (f : s.faultActive .duplicateStation = false) : s.TakesFrom 2 :=
  ⟨h, by rw [n]; decide, ⟨panel 2, by unfold State.countedPeers; rw [p]; rfl, Or.inl rfl⟩, f⟩
/-- The answers handed to station 2. -/
def answersTo (s : State) : List (List Byte) :=
  ((s.bus.queue.filter (fun e => decide (e.kind = .answer 2))).map Entry.frames).flatten
/-- The answer code that a request of the panel gets. -/
def answerOf (c : Instr) (s : State) : Option Byte :=
  match answersTo (after c s) with
  | [_ :: a :: _] => some a
  | _ => none

theorem test_witness_TakesFrom :
    served.TakesFrom 2 ∧ roasting.TakesFrom 2 ∧ steaming.TakesFrom 2 ∧ (descaling 0).TakesFrom 2 :=
  ⟨served_takes _ rfl rfl rfl rfl, served_takes _ rfl rfl rfl rfl, served_takes _ rfl rfl rfl rfl, served_takes _ rfl rfl rfl rfl⟩
/-- A source outside the table, one of another kind, a wrong length, an unknown code, and a drop. -/
theorem test_witness_RequestPath :
    (served.receives = true ∧ 2 ≠ served.station ∧ served.countedPeers.find? (fun p => decide (p.station = 2)) = some (panel 2))
    ∧ (served.countedPeers.find? (fun p => decide (p.station = 3)) = none
      ∧ (after (.pause 3 []) served).bus.queue.map Entry.frames = [[[5#8, 11#8]]])
    ∧ (let s : State := { served with share := { served.share with peers := [⟨2, .cooktop, 0, 2, 5, false, 0, 1, none, 0⟩] } };
      answerOf (.pause 2 []) s = some 10#8)
    ∧ [([] : List Byte), [1#8], [1#8, 2#8]].map (fun b => answerOf (.pause 2 b) served) = [some 16#8, some 6#8, some 6#8]
    ∧ [0#8, 17#8, 255#8].map (fun c => answerOf (.requestUnknownCode 2 c []) served) = [some 6#8, some 6#8, some 6#8]
    ∧ (answersTo (after (.pause 2 []) (faulty .duplicateStation (broken false) served)) = []
      ∧ answerOf (.stop 2 []) (faulty .duplicateStation (broken false) served) = some 16#8)
    ∧ answersTo (after (.stepPartA 2 []) served) = [] := by decide +kernel
theorem test_witness_LoadHeaderAndStepPartA :
    [0x80#8, 0#8, 13#8, 1#8, 12#8, 0x4C#8].map (fun b => answerOf (.loadHeader 2 [b, 0#8, 7#8]) served)
      = [some 10#8, some 6#8, some 6#8, some 0#8, some 0#8, some 0#8]
    ∧ (after (.loadHeader 2 [0x41#8, 1#8, 2#8]) roasting).store.slot1 = .loading ⟨.recipe, 1, true, 258, 2, [none]⟩
    ∧ answerOf (.loadHeader 2 [1#8, 0#8, 0#8]) (chained true roasting) = some 2#8
    ∧ (after (.stepPartA 2 [0x13#8, 0x53#8, 180#8, 60#8, 1#8, 2#8]) served).store.staging
      = [⟨2, 1, 3, ⟨5, 1, true, 180, 60, 258⟩⟩] := by decide +kernel
/-- A slot LOADING one step for a station, with a staged half of station 2 for slot and step 0. -/
def joining (owner : Nat) (mode : Nat) : State :=
  { served with
    store := { served.store with
      slot0 := .loading ⟨.recipe, 2, false, 7, owner, [none, none]⟩
      staging := [⟨2, 0, 0, ⟨mode, 0, true, 180, 255, 60⟩⟩] } }
/-- The second half of a step, for a slot and index. -/
def secondHalf (si : Byte) : Instr := .stepPartB 2 [si, 0#8, 0x40#8, 0#8, 0#8, 255#8, 255#8]
theorem test_witness_StepPartB :
    answerOf (secondHalf 0#8) served = some 8#8 ∧ answerOf (secondHalf 1#8) (joining 2 0) = some 8#8
      ∧ answerOf (secondHalf 0#8) { joining 2 0 with store := { (joining 2 0).store with slot0 := .empty } } = some 4#8
      ∧ answerOf (secondHalf 0#8) (joining 3 0) = some 9#8 ∧ answerOf (secondHalf 0#8) (joining 2 10) = some 5#8
      ∧ answerOf (secondHalf 0#8) (joining 2 0) = some 0#8 ∧ answerOf (secondHalf 0#8) (joining 2 5) = some 6#8
      ∧ (after (secondHalf 0#8) (joining 2 0)).store.slot0 = .loading ⟨.recipe, 2, false, 7, 2, [some roast, none]⟩ := by
  decide +kernel
/-- A program READY in slot 0. -/
def ready (p : Program) (s : State) : State := { s with store := { s.store with slot0 := .ready p } }
theorem test_witness_Start :
    answerOf (.start 2 [2#8]) served = some 7#8 ∧ answerOf (.start 2 [0#8]) served = some 3#8
      ∧ answerOf (.start 2 [1#8]) (chained true roasting) = some 2#8
      ∧ answerOf (.start 2 [0#8]) (faulty .mains (broken false) (ready (recipe [roast]) served)) = some 14#8
      ∧ answerOf (.start 2 [0#8]) { ready (recipe [steamed]) served with scale := ⟨15, 0, true, 0, false⟩ } = some 13#8
      ∧ [899999, 900000].map (fun n => answerOf (.start 2 [0#8]) { ready (recipe [steamed]) served with
        scale := ⟨15, n, false, 0, false⟩ }) = [some 0#8, some 12#8]
      ∧ answerOf (.start 2 [0#8]) (faulty .boilerDry (broken true) (ready (recipe [steamed]) served)) = some 14#8
      ∧ (after (.start 2 [0#8]) (ready (recipe [roast]) served)).seq.run = some ⟨.s0, 0, .count⟩ := by decide +kernel
/-- Flags of the sequencer on a state. -/
def flags (pause stop : Bool) (s : State) : State := { s with seq := { s.seq with pauseFlag := pause, stopFlag := stop } }
theorem test_witness_PauseAndContinue :
    served.hasActive = false ∧ (flags false true (runs (recipe [steamed]) 0 .vent served)).runState = some .stopping
      ∧ (flags true false roasting).runState = some .paused ∧ roasting.runState = some .running
      ∧ (after (.pause 2 []) roasting).runState = some .paused ∧ (after (.continue_ 2 []) (flags true false roasting)).runState = some .running
      ∧ (let s := flags true false (wetBoiler .off .soak)
        let t : State := { s with seq := { (descaling 3).seq with pauseFlag := true }, store := (descaling 3).store };
        t.steam.request = .soak ∧ t.steam.low = some .wet ∧ t.runState = some .paused ∧ t.mustDrainFirst = false
          ∧ t.barsHeating = false ∧ (after (.continue_ 2 []) t).steam.soakHeating = true) := by decide +kernel
theorem test_witness_Stop :
    served.activeRun = none ∧ steaming.stepHumid = true ∧ roasting.stepHumid = false ∧ (flags false true steaming).seq.stopFlag = true
      ∧ (after (.stop 2 []) roasting).store.slot0.code = 4 ∧ (after (.stop 2 []) steaming).phase = some .vent
      ∧ (let s := inFrame 5 steaming; s.climate.venting = false ∧ s.load.running = true)
      ∧ (let s : State := { descaling 2 with scale := { served.scale with drainOnStop := true } };
        (after (.stop 2 []) s).seq.forcedCause = some .stopped ∧ (after (.stop 2 []) (descaling 2)).store.slot0.code = 4) := by
  decide +kernel
/-- A step that waits on prompt 9 in a phase. -/
def prompting (ph : Phase) (r : StepRecord) : State :=
  let s := runs (recipe [r, roast]) 0 ph served
  { s with seq := { s.seq with prompt := some 9, promptTimer := some 0 } }
theorem test_witness_SkipAndConfirm :
    [served, descaling 1, runs (recipe [steamed]) 0 .vent served].map (answerOf (.skip 2 [])) = [some 16#8, some 10#8, some 10#8]
      ∧ answerOf (.skip 2 []) (runs { recipe [roast] with originator := 3 } 0 .count served) = some 9#8
      ∧ (after (.skip 2 []) roasting).store.slot0.code = 4 ∧ (after (.skip 2 []) steaming).phase = some .vent
      ∧ answerOf (.confirm 2 [9#8]) roasting = some 15#8 ∧ answerOf (.confirm 2 [8#8]) (prompting .promptOut roast) = some 15#8
      ∧ (after (.confirm 2 [9#8]) (prompting .promptIn { roast with promptIn := some 9 })).phase = some .count
      ∧ (after (.confirm 2 [9#8]) (prompting .promptOut { roast with promptOut := some 9 })).seq.run = some ⟨.s0, 1, .count⟩
      ∧ (after (.confirm 2 [9#8]) (prompting .count { roast with endKind := some .promptOnly, promptOut := some 9 })).seq.run
        = some ⟨.s0, 1, .count⟩ := by decide +kernel
theorem test_witness_Adjust :
    [served, descaling 1].map (answerOf (.adjust 2 [8#8, 1#8, 0#8, 0#8, 0#8, 0#8])) = [some 16#8, some 10#8]
      ∧ answerOf (.adjust 2 [0#8, 1#8, 0#8, 0#8, 0#8, 0#8]) roasting = some 6#8
      ∧ [30#8, 200#8].map (fun v => answerOf (.adjust 2 [8#8, v, 0#8, 0#8, 0#8, 0#8]) roasting) = [some 0#8, some 0#8]
      ∧ (after (.adjust 2 [8#8, 255#8, 0#8, 0#8, 0#8, 0#8]) roasting).climate.setpoint = some 230
      ∧ (after (.adjust 2 [2#8, 0#8, 0#8, 1#8, 0#8, 0#8]) roasting).seq.workDuration = some 256 := by decide +kernel
theorem test_witness_DiscardAndClear :
    let done : State := { served with store := { served.store with slot0 := .done (recipe [roast]) .finished } }
    [2#8, 0#8].map (fun n => answerOf (.discard 2 [n]) served) = [some 7#8, some 0#8]
      ∧ (answerOf (.discard 2 [0#8]) roasting = some 2#8 ∧ answerOf (.clear 2 [0#8]) roasting = some 3#8)
      ∧ (answerOf (.discard 2 [0#8]) done = some 10#8 ∧ (after (.clear 2 [0#8]) done).store.slot0 = .empty)
      ∧ (let e : Staged := ⟨2, 0, 3, ⟨0, 0, false, 0, 0, 0⟩⟩
        let s : State := { done with store := { done.store with staging := [e] } };
        (after (.clear 2 [0#8]) s).store.staging = [e] ∧ (after .doorOpen s).store.staging = [e]
          ∧ (after .doorOpen s).store.slot0 = .empty)
      ∧ ((after (.discard 2 [0#8]) (joining 2 0)).store = served.store ∧ answerOf (.discard 2 [0#8]) (joining 3 0) = some 9#8
        ∧ answerOf (.clear 2 [0#8]) (ready (recipe [roast]) served) = some 3#8) := by decide +kernel
theorem test_witness_HardnessAndDescale :
    [30#8, 31#8, 15#8].map (fun n => ((after (.setHardness 2 [n]) served).scale.hardness, answerOf (.setHardness 2 [n]) served))
      = [(30, some 0#8), (30, some 1#8), (15, some 0#8)]
    ∧ answerOf (.setHardness 2 [3#8]) (descaling 1) = some 2#8
    ∧ [roasting, faulty .drainTimeout (broken false) served].map (answerOf (.startDescale 2 [])) = [some 2#8, some 14#8]
    ∧ answerOf (.startDescale 2 [])
        { served with store := { served.store with slot0 := .loading (recipe [roast]), slot1 := .loading (recipe [roast]) } }
      = some 2#8
    ∧ (after (.startDescale 2 []) served).steam.request = .drain
    ∧ (after (.startDescale 2 []) { served with scale := ⟨15, 0, true, 0, false⟩ }).store.slot0.code = 3 := by decide +kernel
theorem test_witness_ClearFaultsAndQuery :
    (let s := faulty .drainTimeout (broken true) { served with steam := { served.steam with boiler := .off, owed := some .timedOut } };
      s.faults.drainTimeout.latched = true ∧ s.steam.drainStarted = false
        ∧ (after (.clearFaults 2 ⟨[], .nothing⟩) s).faults.drainTimeout = ⟨false, false, 3⟩)
    ∧ (let s (k : FaultKind) (req : BoilerRequest) (low : Probe) : State :=
        faulty k (broken true) { served with steam := { served.steam with boiler := .off, request := req, low := some low } }
      let u (s : State) := s.heard.clearFaults;
      ((s .boilerDry .steam .wet).faults.boilerDry.active = true ∧ (u (s .boilerDry .steam .wet)).barsHeating = false
        ∧ (s .boilerDry .steam .wet).mustDrainFirst = false ∧ (s .boilerDry .steam .wet).suspended = false)
      ∧ [s .boilerDry .steam .wet, s .cavityOverheat .soak .wet, s .boilerDry .steam .dry, s .boilerDry .none .wet].map
          (fun s => ((u s).steam.boiler, (u s).steam.soakHeating))
        = [(.heating, false), (.off, true), (.filling, false), (.off, false)]
      ∧ (u (faulty .cavityOverheat (broken true) (s .boilerDry .steam .wet))).steam.boiler = .heating)
    ∧ answersTo (after (.clearFaults 2 ⟨[], .nothing⟩) (faulty .cavitySensor (broken false) served)) = [[15#8, 0#8, 0x80#8, 0#8]]
    ∧ (let both (latched : Bool) : State := faulty .cavityOverheat (broken latched) (faulty .boilerDry (broken true) served)
      let ends (latched : Bool) (back : Returning) : FaultRecord × FaultRecord × List (List Byte) :=
        let t := after (.clearFaults 2 ⟨[], back⟩) (both latched)
        (t.faults.cavityOverheat, t.faults.boilerDry, answersTo t)
      [ends true ⟨true, true⟩, ends true ⟨true, false⟩, ends true .nothing, ends false ⟨true, false⟩]
        = [(⟨true, false, 4⟩, ⟨true, false, 4⟩, [[15#8, 0#8, 0x0C#8, 0#8]]),
          (⟨true, false, 4⟩, ⟨false, false, 3⟩, [[15#8, 0#8, 0x08#8, 0#8]]),
          (⟨false, false, 3⟩, ⟨false, false, 3⟩, [[15#8, 0#8, 0#8, 0#8]]),
          (⟨true, false, 3⟩, ⟨false, false, 3⟩, [[15#8, 0#8, 0x08#8, 0#8]])])
    ∧ answerOf (.query 2 [5#8]) served = some 6#8
    ∧ [0#8, 1#8, 2#8, 3#8, 4#8].map (fun n => (answersTo (after (.query 2 [n]) served)).length) = [6, 7, 4, 3, 5] := by decide +kernel

end Sys2Proof.Tests
end

section
/-! PROOFS. The load frame (spec/02): the ceilings of R37 and R38, the allocation of R43 and R44, the placement of R47. -/

namespace Sys2Proof.Machine

/-! ## The ceiling -/

/-- Every rating is positive, and a whole number of watts for each cycle of the frame (R33). -/
theorem watts_ratio (variant : Nat) (i : Load) : 0 < Load.watts variant i ∧ 20 ∣ Load.watts variant i := by
  cases i
  case top => simp only [Load.watts, Config.topWatts]; split <;> decide
  case bottom => simp only [Load.watts, Config.bottomWatts]; split <;> decide
  case ring => simp only [Load.watts, Config.ringWatts]; split <;> decide
  case boiler => simp only [Load.watts, Config.boilerWatts]; split <;> decide

/-- R37's product of a rating and a cap divides without a remainder. -/
theorem watts_mul_cap_mod (variant : Nat) (warning : Bool) (m : Mode) (i : Load) :
    Load.watts variant i * capOf warning m i % 20 = 0 :=
  Nat.mod_eq_zero_of_dvd (Nat.dvd_mul_right_of_dvd (watts_ratio variant i).2 _)

/-- R37's formula, which holds of every mode but WAIT. -/
theorem stepCeiling_of_ne_wait {variant : Nat} {warning : Bool} {m : Mode} (h : m ≠ .wait) :
    stepCeiling variant warning m
      = Config.unitsUp (Config.baseWatts variant
          + Load.watts variant .top * capOf warning m .top / 20
          + Load.watts variant .bottom * capOf warning m .bottom / 20
          + Load.watts variant .ring * capOf warning m .ring / 20
          + Load.watts variant .boiler * capOf warning m .boiler / 20) := if_neg h

/-- A WAIT step uses no power of its own (R37). -/
theorem stepCeiling_wait (variant : Nat) (warning : Bool) : stepCeiling variant warning .wait = 0 := rfl

/-- With no slot ACTIVE there is no active step. -/
theorem activeStep_of_idle {s : State} (h : s.hasActive = false) : s.activeStep = none := by
  have idle : s.activeRun = none := by simpa [State.hasActive] using h
  rw [State.activeStep, idle]

/-- With no active step the first row of R38's table applies. -/
theorem ceilingNow_of_noStep {s : State} (h : s.activeStep = none) : s.ceilingNow = 0 := by
  rw [State.ceilingNow, h]

/-- The rows of R38's table for an active step. -/
theorem ceilingNow_of_step {s : State} {r : StepRecord} (h : s.activeStep = some r) :
    s.ceilingNow =
      if r.mode = .wait then 0
      else if s.suspended then s.baseUnits
      else if s.doorMinute then s.baseUnits
      else stepCeiling s.startup.variant s.scaleWarning r.mode := by
  rw [State.ceilingNow, h]

/-- The suspended flag is the run state PAUSED (R84). -/
theorem suspended_iff (s : State) : s.suspended = true ↔ s.runState = some .paused := decide_eq_true_iff

/-- The door minute by the timer of the door-open seconds (R39). -/
theorem doorMinute_iff (s : State) : s.doorMinute = true ↔ ∃ t, s.load.doorTimer = some t ∧ 60 ≤ t.seconds := by
  unfold State.doorMinute
  cases s.load.doorTimer with
  | none => simp
  | some t => simp

/-- The base load in units, by variant (R38). -/
theorem baseUnits_eq (s : State) :
    s.baseUnits = match s.startup.variant with
      | 0 => 8
      | 1 => 7
      | _ => 9 := by
  unfold State.baseUnits
  match s.startup.variant with
  | 0 => rfl
  | 1 => rfl
  | _ + 2 => exact (rfl : Config.unitsUp 90 = 9)

/-- Settles O27, row by row of R37's tables and R38's. -/
theorem ceilings : Obligations.Ceilings := by
  refine ⟨⟨?formula, stepCeiling_wait, ?tables, watts_mul_cap_mod⟩, ?situation⟩
  case formula =>
    intro variant warning m notWait
    rw [stepCeiling_of_ne_wait notWait]
    cases m
    case wait => exact absurd rfl notWait
    all_goals rfl
  case tables => decide
  case situation =>
    intro s
    refine ⟨fun idle => ceilingNow_of_noStep (activeStep_of_idle idle), fun r step => ?_⟩
    rw [ceilingNow_of_step step]
    refine ⟨fun wait => if_pos wait, fun notWait paused => ?_, fun notWait minute => ?_, fun notWait running short => ?_⟩
    · rw [if_neg notWait, if_pos ((suspended_iff s).mpr paused)]
      exact baseUnits_eq s
    · rw [if_neg notWait, if_pos ((doorMinute_iff s).mpr minute), ite_self]
      exact baseUnits_eq s
    · have noMinute : ¬ s.doorMinute = true := fun h => by
        obtain ⟨t, timer, reached⟩ := (doorMinute_iff s).mp h
        exact absurd (short t timer) (Nat.not_lt.mpr reached)
      rw [if_neg notWait, if_neg (mt (suspended_iff s).mp running), if_neg noMinute]
      rfl

/-! ## The allocation -/

/-- Every load has a rating (R33). -/
theorem ratings_pos (variant : Nat) (i : Load) : 0 < (ratings variant).get i := by
  have pos := fun j => (watts_ratio variant j).1
  cases i
  case top => exact pos .top
  case bottom => exact pos .bottom
  case ring => exact pos .ring
  case boiler => exact pos .boiler

/-- With every load rated, cycles that cost nothing are no cycles. -/
theorem energy_eq_zero_iff {p n : PerLoad Nat} (rated : ∀ i, 0 < p.get i) : energy p n = 0 ↔ n = ⟨0, 0, 0, 0⟩ := by
  have top : p.top ≠ 0 := Nat.ne_of_gt (rated .top)
  have bottom : p.bottom ≠ 0 := Nat.ne_of_gt (rated .bottom)
  have ring : p.ring ≠ 0 := Nat.ne_of_gt (rated .ring)
  have boiler : p.boiler ≠ 0 := Nat.ne_of_gt (rated .boiler)
  cases n
  simp [energy, top, bottom, ring, boiler, and_assoc]

/-- The floor shares of the loads (R44). -/
def floorShares (p d : PerLoad Nat) (budget : Nat) : PerLoad Nat :=
  PerLoad.make (fun i => floorShare budget (energy p d) (d.get i))

/-- The remainder Rm of R44 is not negative: each floor costs at most its exact share of the budget. -/
theorem floorShares_energy_le {p d : PerLoad Nat} {budget : Nat} (excess : budget < energy p d) :
    energy p (floorShares p d budget) ≤ budget := by
  have exact_share (rating demand : Nat) :
      energy p d * (rating * floorShare budget (energy p d) demand) ≤ rating * demand * budget := by
    rw [Nat.mul_left_comm, Nat.mul_assoc]
    exact Nat.mul_le_mul_left rating (Nat.mul_div_le _ _)
  refine Nat.le_of_mul_le_mul_left ?_ (Nat.lt_of_le_of_lt (Nat.zero_le _) excess)
  calc energy p d * energy p (floorShares p d budget)
      ≤ p.top * d.top * budget + p.bottom * d.bottom * budget + p.ring * d.ring * budget
          + p.boiler * d.boiler * budget := by
        show energy p d * (_ + _ + _ + _) ≤ _
        rw [Nat.mul_add, Nat.mul_add, Nat.mul_add]
        exact Nat.add_le_add (Nat.add_le_add (Nat.add_le_add (exact_share _ _) (exact_share _ _)) (exact_share _ _))
          (exact_share _ _)
    _ = energy p d * budget := by simp only [energy, Nat.add_mul]

/-- The remainder pays for the cycles of a top-up (R44). -/
theorem topUp_paid (rating demand share remainder : Nat) : rating * topUp rating demand share remainder ≤ remainder :=
  Nat.le_trans (Nat.mul_le_mul_left rating (Nat.min_le_left _ _)) (Nat.mul_div_le _ _)

/-- A top-up ends at the demand, or with a remainder that pays for no further cycle (R44). -/
theorem topUp_ends {rating demand share : Nat} (remainder : Nat) (rated : 0 < rating) (le : share ≤ demand) :
    share + topUp rating demand share remainder = demand
      ∨ remainder - rating * topUp rating demand share remainder < rating := by
  unfold topUp
  rcases Nat.le_total (demand - share) (remainder / rating) with met | spent
  · left
    rw [Nat.min_eq_right met, Nat.add_sub_cancel' le]
  · right
    rw [Nat.min_eq_left spent, ← Nat.mod_eq_sub_mul_div]
    exact Nat.mod_lt _ rated

/-- Four outlays, each within what the ones before it leave, are together within the whole. -/
theorem outlays_le {whole a b c e : Nat} (ha : a ≤ whole) (hb : b ≤ whole - a) (hc : c ≤ whole - a - b)
    (he : e ≤ whole - a - b - c) : a + b + c + e ≤ whole := by
  omega

/-- A scaled allocation is the floor shares and one pass over BOILER, RING, TOP, BOTTOM that spends the remainder (R44). -/
theorem scaled_pass {p d : PerLoad Nat} {budget : Nat} (rated : ∀ i, 0 < p.get i) (excess : budget < energy p d) :
    let n := floorShares p d budget
    let t := scaled p d budget
    ∃ rm kb kr kt km,
      rm + energy p n = budget
      ∧ t = ⟨n.top + kt, n.bottom + km, n.ring + kr, n.boiler + kb⟩
      ∧ p.boiler * kb + p.ring * kr + p.top * kt + p.bottom * km ≤ rm
      ∧ (t.top ≤ d.top ∧ t.bottom ≤ d.bottom ∧ t.ring ≤ d.ring ∧ t.boiler ≤ d.boiler)
      ∧ (t.boiler = d.boiler ∨ rm - p.boiler * kb < p.boiler)
      ∧ (t.ring = d.ring ∨ rm - p.boiler * kb - p.ring * kr < p.ring)
      ∧ (t.top = d.top ∨ rm - p.boiler * kb - p.ring * kr - p.top * kt < p.top)
      ∧ (t.bottom = d.bottom ∨ rm - p.boiler * kb - p.ring * kr - p.top * kt - p.bottom * km < p.bottom) := by
  have share (x : Nat) : floorShare budget (energy p d) x ≤ x := floorShare_le excess
  refine ⟨budget - energy p (floorShares p d budget), _, _, _, _, Nat.sub_add_cancel (floorShares_energy_le excess), rfl, ?_,
    ⟨topUp_le (share _), topUp_le (share _), topUp_le (share _), topUp_le (share _)⟩,
    topUp_ends _ (rated .boiler) (share _), topUp_ends _ (rated .ring) (share _), topUp_ends _ (rated .top) (share _),
    topUp_ends _ (rated .bottom) (share _)⟩
  exact outlays_le (topUp_paid _ _ _ _) (topUp_paid _ _ _ _) (topUp_paid _ _ _ _) (topUp_paid _ _ _ _)

/-- A scaled allocation costs no more than the budget (R45). -/
theorem scaled_energy_le {p d : PerLoad Nat} {budget : Nat} (rated : ∀ i, 0 < p.get i) (excess : budget < energy p d) :
    energy p (scaled p d budget) ≤ budget := by
  obtain ⟨rm, kb, kr, kt, km, remainder, alloc, paid, -⟩ := scaled_pass rated excess
  rw [alloc]
  simp only [energy, Nat.mul_add] at remainder ⊢
  omega

/-- Demands that fit are allocated whole (R43). -/
theorem allocate_of_fits {p d : PerLoad Nat} {budget : Nat} (fits : energy p d ≤ budget) : allocate p d budget = d :=
  if_pos fits

/-- Demands that exceed the budget are scaled (R43). -/
theorem allocate_of_excess {p d : PerLoad Nat} {budget : Nat} (excess : budget < energy p d) :
    allocate p d budget = scaled p d budget :=
  if_neg (Nat.not_le_of_gt excess)

/-- No allocation costs more than the budget (R45). -/
theorem allocate_energy_le {p d : PerLoad Nat} {budget : Nat} (rated : ∀ i, 0 < p.get i) :
    energy p (allocate p d budget) ≤ budget := by
  rcases Nat.lt_or_ge budget (energy p d) with excess | fits
  · rw [allocate_of_excess excess]
    exact scaled_energy_le rated excess
  · rw [allocate_of_fits fits]
    exact fits

/-- A budget of 0 is allocated to no load (R43). -/
theorem allocate_of_noBudget {p d : PerLoad Nat} (rated : ∀ i, 0 < p.get i) : allocate p d 0 = ⟨0, 0, 0, 0⟩ :=
  (energy_eq_zero_iff rated).mp (Nat.le_zero.mp (allocate_energy_le rated))

/-- With no applied budget a frame has no budget, whatever the base load (R43). -/
theorem frameBudget_of_noneApplied {s : State} (h : s.share.applied = 0) : s.frameBudget = 0 := by
  simp [State.frameBudget, h]

/-- A new frame takes the forced demands (R42). -/
theorem beginFrame_taken (d : PerLoad Nat) (s : State) : (s.beginFrame d).load.taken = s.takenDemands d := rfl

/-- A new frame allocates its taken demands to its budget (R43). -/
theorem beginFrame_alloc (d : PerLoad Nat) (s : State) :
    (s.beginFrame d).load.alloc = allocate (ratings s.startup.variant) (s.takenDemands d) s.frameBudget := rfl

/-- A new frame is limited where its taken demands exceed its budget (R43, R46). -/
theorem beginFrame_limited (d : PerLoad Nat) (s : State) :
    (s.beginFrame d).load.limited = decide (s.frameBudget < energy (ratings s.startup.variant) (s.takenDemands d)) := rfl

/-- A new frame plans the placement of each allocation (R47). -/
theorem beginFrame_plan (d : PerLoad Nat) (s : State) (i : Load) :
    (s.beginFrame d).load.plan.get i = placed i.index ((s.beginFrame d).load.alloc.get i) := by
  cases i <;> rfl

/-- With no applied budget nothing is allocated, and any demand makes the frame limited (R43). -/
theorem beginFrame_of_noneApplied {s : State} (d : PerLoad Nat) (h : s.share.applied = 0) :
    (s.beginFrame d).load.alloc = ⟨0, 0, 0, 0⟩
      ∧ ((s.beginFrame d).load.limited = true ↔ s.takenDemands d ≠ ⟨0, 0, 0, 0⟩) := by
  have rated := ratings_pos s.startup.variant
  rw [beginFrame_alloc, beginFrame_limited, frameBudget_of_noneApplied h]
  refine ⟨allocate_of_noBudget rated, ?_⟩
  rw [decide_eq_true_iff, Nat.pos_iff_ne_zero]
  exact not_congr (energy_eq_zero_iff rated)

/-- Settles O28: a scaled allocation is the floor shares and a pass that spends only their remainder. -/
theorem allocationWithinTheBudget : Obligations.AllocationWithinTheBudget := by
  refine ⟨fun s d => ?frame, fun p d budget top bottom ring boiler => ?pass⟩
  case frame =>
    have rated := ratings_pos s.startup.variant
    refine ⟨beginFrame_taken d s, fun fits => ?_, fun excess => ?_, beginFrame_of_noneApplied d, ?_,
      allocate_energy_le rated⟩
    · exact ⟨allocate_of_fits fits, decide_eq_false (Nat.not_lt.mpr fits)⟩
    · exact ⟨decide_eq_true excess, allocate_of_excess excess⟩
    · exact allocate_le _ _ _
  case pass =>
    have rated (i : Load) : 0 < p.get i := by
      cases i
      case top => exact top
      case bottom => exact bottom
      case ring => exact ring
      case boiler => exact boiler
    exact scaled_pass rated

/-! ## The placement -/

/-- The floor rule marks a cycle by its place in the frame alone. -/
theorem marks_mod (j n k : Nat) : marks j n (k % 20) = marks j n k := by
  unfold marks
  rw [Nat.mod_add_mod]

/-- The marked cycles are those below 20 that the floor rule marks (R47). -/
theorem mem_placed {j n k : Nat} (h : k < 20) : k ∈ placed j n ↔ marks j n k = true := by
  rw [placed, List.mem_filter, List.mem_range]
  exact and_iff_right h

/-- The frame taken round: the cycle at any distance is marked where the floor rule marks it. -/
theorem mem_placed_round (j n k : Nat) : k % 20 ∈ placed j n ↔ marks j n k = true := by
  rw [mem_placed (Nat.mod_lt k (by decide)), marks_mod]

/-- The idea of R47: the marks are the steps of the line of slope n / 20, at the offset of 5j. Each cycle moves the floor of the
line up by one where it is marked, and not at all elsewhere. -/
theorem floor_succ {n : Nat} (j k : Nat) (le : n ≤ 20) :
    (k + 5 * j + 1) * n / 20 = (k + 5 * j) * n / 20 + if marks j n k = true then 1 else 0 := by
  unfold marks
  generalize k + 5 * j = x
  have whole : x * n = 20 * (x / 20 * n) + x % 20 * n := by
    rw [← Nat.mul_assoc, ← Nat.add_mul, Nat.div_add_mod]
  simp only [Nat.succ_mul, whole, decide_eq_true_iff]
  split <;> omega

/-- The marked cycles of a run from a cycle, the frame taken round. -/
def markedInRun (j n start len : Nat) : Nat :=
  ((List.range len).filter (fun i => decide ((start + i) % 20 ∈ placed j n))).length

/-- A run one cycle longer. -/
theorem markedInRun_succ (j n start len : Nat) :
    markedInRun j n start (len + 1) = markedInRun j n start len + if marks j n (start + len) = true then 1 else 0 := by
  unfold markedInRun
  rw [List.range_succ, List.filter_append, List.length_append]
  by_cases marked : marks j n (start + len) = true <;> simp [marked, mem_placed_round]

/-- A run holds as many marked cycles as the floor of the line rises over it. -/
theorem markedInRun_add {n : Nat} (j start len : Nat) (le : n ≤ 20) :
    markedInRun j n start len + (start + 5 * j) * n / 20 = (start + len + 5 * j) * n / 20 := by
  induction len with
  | zero => exact Nat.zero_add _
  | succ len ih =>
    have step := floor_succ j (start + len) le
    rw [markedInRun_succ, show start + (len + 1) + 5 * j = start + len + 5 * j + 1 by omega, step, ← ih]
    omega

/-- Two runs of one length hold marked cycles that differ by at most one (R47). -/
theorem markedInRun_le_succ {n : Nat} (j a b len : Nat) (le : n ≤ 20) :
    markedInRun j n a len ≤ markedInRun j n b len + 1 := by
  have fromA := markedInRun_add j a len le
  have fromB := markedInRun_add j b len le
  have rise (x : Nat) : (x + len + 5 * j) * n = (x + 5 * j) * n + len * n := by
    rw [← Nat.add_mul, Nat.add_right_comm]
  rw [rise] at fromA fromB
  omega

/-- The placement is the run of the whole frame. -/
theorem length_placed_eq_markedInRun (j n : Nat) : (placed j n).length = markedInRun j n 0 20 := by
  unfold markedInRun
  rw [placed]
  refine congrArg List.length (List.filter_congr fun k _ => ?_)
  rw [Nat.zero_add, Bool.eq_iff_iff, decide_eq_true_iff]
  exact (mem_placed_round j n k).symm

/-- Exactly n cycles are marked (R47). -/
theorem length_placed {n : Nat} (j : Nat) (le : n ≤ 20) : (placed j n).length = n := by
  have rise := markedInRun_add j 0 20 le
  rw [← length_placed_eq_markedInRun, show 0 + 20 + 5 * j = 0 + 5 * j + 20 by omega,
    Nat.add_mul (0 + 5 * j)] at rise
  omega

/-- Twenty on-cycles take every cycle of the frame. -/
theorem placed_twenty (j : Nat) : placed j 20 = List.range 20 :=
  List.filter_sublist.eq_of_length ((length_placed j (Nat.le_refl 20)).trans List.length_range.symm)

/-- No on-cycle takes no cycle of the frame. -/
theorem placed_zero (j : Nat) : placed j 0 = [] := List.eq_nil_of_length_eq_zero (length_placed j (Nat.zero_le 20))

/-- Counting a crossing leaves the plan of the frame. -/
theorem countCrossing_plan (s : State) : s.countCrossing.load.plan = s.load.plan := by
  have frame : Same .frame s s.countCrossing := (countCrossing_does s).same .frame (by decide)
  simp only [Same, Prod.mk.injEq] at frame
  obtain ⟨-, -, -, -, plan, -⟩ := frame
  exact plan

/-- Within a frame the next crossing is no boundary. -/
theorem boundaryDue_of_inFrame {s : State} (h : s.InFrame) : s.boundaryDue = false := by
  obtain ⟨-, running, more⟩ := h
  simp [State.boundaryDue, running, more]

/-- A crossing within the frame keeps the plan (R48, R50). -/
theorem crossed_plan {s : State} (h : s.InFrame) : s.crossed.load.plan = s.load.plan := by
  rw [State.crossed, boundaryDue_of_inFrame h, if_neg Bool.false_ne_true, countCrossing_plan]
  rfl

/-- Settles O29: the marks are the steps of a line, so a run holds the line's rise over it, to within one. -/
theorem placementIsEven : Obligations.PlacementIsEven := by
  refine ⟨fun j n k cycle => ?rule, fun j n _ le => ⟨length_placed j le, ?full, ?empty, ?even⟩, ?offsets,
    fun s d i => beginFrame_plan d s i, fun _ => crossed_plan⟩
  case rule =>
    rw [mem_placed cycle]
    exact decide_eq_true_iff
  case full =>
    rintro rfl
    exact placed_twenty j
  case empty =>
    rintro rfl
    exact placed_zero j
  case even => exact fun a b len _ _ _ => markedInRun_le_succ j a b len le
  case offsets => decide

end Sys2Proof.Machine
end

section
/-! PROOFS. The climate regulator (spec/03): the demands handed by the mode's weights (R53, R62, R65). -/

namespace Sys2Proof.Machine

/-! ## The demands handed -/

/-- In a mode each load of the temperature demand is handed the demand weighted (R62). -/
theorem frameDemands_of_mode {s : State} {m : Mode} (boiler : Nat) (h : s.climate.mode = some m) :
    s.frameDemands boiler =
      ⟨weighted s.climate.lastDemand (m.weight .top), weighted s.climate.lastDemand (m.weight .bottom),
        weighted s.climate.lastDemand (m.weight .ring), boiler⟩ := by
  rw [State.frameDemands, h]

/-- With mode NONE no load of the temperature demand is driven (R62). -/
theorem frameDemands_of_noMode {s : State} (boiler : Nat) (h : s.climate.mode = none) :
    s.frameDemands boiler = ⟨0, 0, 0, boiler⟩ := by
  rw [State.frameDemands, h]

/-- The regulators record the temperature demand (R59). -/
theorem regulate_lastDemand (s : State) : s.regulate.climate.lastDemand = s.tempDemand := rfl

/-- The regulators record the boiler demand handed (R65). -/
theorem regulate_lastBoilerDemand (s : State) : s.regulate.climate.lastBoilerDemand = s.handedDemand := rfl

/-- In STEAM the temperature demand goes to the boiler (R65). -/
theorem handedDemand_of_steam {s : State} (h : s.climate.mode = some .steam) : s.handedDemand = s.tempDemand := by
  rw [State.handedDemand, h]
  rfl

/-! ## Weighted demands and caps -/

/-- The cap of a load other than the boiler is the whole frame weighted (R37). -/
theorem capOf_of_ne_boiler {i : Load} (warning : Bool) (m : Mode) (h : i ≠ .boiler) :
    capOf warning m i = weighted 20 (m.weight i) := by
  cases i
  case boiler => exact absurd rfl h
  all_goals rfl

/-- A larger demand is weighted no smaller (R62). -/
theorem weighted_mono {h k : Nat} (w : Nat) (le : h ≤ k) : weighted h w ≤ weighted k w :=
  Nat.div_le_div_right (Nat.mul_le_mul_right w le)

/-- A driven load gets its whole cap at no demand short of the whole frame: 20 × w is a multiple of 4, so the floor falls
below the cap with the first cycle that is missing. -/
theorem weighted_eq_cap_iff {h w : Nat} (le : h ≤ 20) (driven : 0 < w) : weighted h w = weighted 20 w ↔ h = 20 := by
  refine ⟨fun reached => Nat.le_antisymm le (Nat.le_of_mul_le_mul_right ?whole driven), fun full => by rw [full]⟩
  case whole =>
    unfold weighted at reached
    omega

/-- Settles O31: the weights by the mode, and the caps as the weighted demands of a whole frame. -/
theorem weightedDemands : Obligations.WeightedDemands := by
  refine ⟨fun s m boiler mode => ?weights, fun s steam => ?steam, fun s boiler => frameDemands_of_noMode boiler,
    fun m h le i notBoiler => ?cap⟩
  case weights =>
    rw [frameDemands_of_mode boiler mode]
    cases m <;> rfl
  case steam => rw [regulate_lastBoilerDemand, regulate_lastDemand, handedDemand_of_steam steam]
  case cap =>
    rw [capOf_of_ne_boiler false m notBoiler]
    exact ⟨weighted_mono _ le, weighted_eq_cap_iff le⟩

end Sys2Proof.Machine
end

section
/-! PROOFS. The fault set (spec/08): the transitions of a record, row by row of R164's table, and what carries them to the state. -/

namespace Sys2Proof.Machine

/-! ## The condition arises -/

/-- An inactive record becomes active and is counted, up to 255 (R164). -/
theorem arise_of_inactive {r : FaultRecord} (inactive : r.active = false) :
    r.arise = ⟨true, false, min 255 (r.count + 1)⟩ := by
  rw [FaultRecord.arise, if_neg (by rw [inactive]; decide), satAdd]

/-- A record that is active already is no longer latched, and is not counted again (R164). -/
theorem arise_of_active {r : FaultRecord} (active : r.active = true) : r.arise = { r with latched := false } :=
  if_pos active

/-! ## The condition goes -/

/-- The latching kinds of the table at the head of spec/08. -/
theorem latching_iff (k : FaultKind) :
    k.latching = true ↔ k = .cavityOverheat ∨ k = .boilerDry ∨ k = .drainTimeout ∨ k = .retainedRecord := by
  cases k <;> decide

/-- DUPLICATE_STATION, R164's exception, is no latching kind. -/
theorem ne_duplicateStation_of_latching {k : FaultKind} (latching : k.latching = true) : k ≠ .duplicateStation := by
  rintro rfl
  exact Bool.false_ne_true latching

/-- The kind alone decides what becomes of a record in force whose condition goes (R164). -/
theorem goes_of_inForce {k : FaultKind} {r : FaultRecord} (active : r.active = true) (unlatched : r.latched = false)
    (leaves : k ≠ .duplicateStation) :
    r.goes k = if k.latching then { r with latched := true } else { r with active := false } := by
  have found : (r.active && !r.latched && decide (k ≠ .duplicateStation)) = true := by
    rw [active, unlatched, decide_eq_true leaves]
    rfl
  exact if_pos found

/-- A condition that goes finds nothing to do at a record inactive or latched, nor at DUPLICATE_STATION (R164). -/
theorem goes_of_unmoved {k : FaultKind} {r : FaultRecord}
    (unmoved : r.active = false ∨ r.latched = true ∨ k = .duplicateStation) : r.goes k = r := by
  have found : ¬ (r.active && !r.latched && decide (k ≠ .duplicateStation)) = true := by
    simp only [Bool.and_eq_true, Bool.not_eq_true', decide_eq_true_iff]
    rintro ⟨⟨active, unlatched⟩, leaves⟩
    rcases unmoved with inactive | latched | duplicate
    · exact Bool.false_ne_true (inactive.symm.trans active)
    · exact Bool.false_ne_true (unlatched.symm.trans latched)
    · exact leaves duplicate
  exact if_neg found

/-- The record after the condition of its kind has gone. -/
theorem condGone_get_same (k : FaultKind) (s : State) : (s.condGone k).faults.get k = (s.faults.get k).goes k :=
  release_get_same k _ s

/-- The other records after a condition has gone. -/
theorem condGone_get_ne {k j : FaultKind} (s : State) (h : j ≠ k) : (s.condGone k).faults.get j = s.faults.get j :=
  release_get_ne _ s h

/-! ## CLEAR_FAULTS -/

/-- A latched record becomes inactive and keeps its count (R164, R173). -/
theorem cleared_of_latched {r : FaultRecord} (active : r.active = true) (latched : r.latched = true) :
    r.cleared = ⟨false, false, r.count⟩ := by
  rw [FaultRecord.cleared, if_pos (by rw [active, latched]; rfl)]

/-- CLEAR_FAULTS leaves a record that is inactive, or whose condition is still there (R164, R173). -/
theorem cleared_of_unlatched {r : FaultRecord} (unlatched : r.active = false ∨ r.latched = false) : r.cleared = r := by
  have found : ¬ (r.active && r.latched) = true := by
    rcases unlatched with no | no <;> simp [no]
  exact if_neg found

/-- Settles O34, row by row of R164's table: a record of the state moves as its own transition does. -/
theorem faultRecordTransitions : Obligations.FaultRecordTransitions := by
  intro k s
  dsimp only
  rw [raise_get_same, condGone_get_same, clearFaults_get, ← latching_iff]
  refine ⟨arise_of_inactive, arise_of_active, fun active unlatched leaves releases => ?inactive,
    fun active unlatched latches => ?latched, goes_of_unmoved, cleared_of_latched, cleared_of_unlatched,
    fun j other => ⟨raise_get_ne s other, condGone_get_ne s other⟩⟩
  case inactive => rw [goes_of_inForce active unlatched leaves, if_neg releases]
  case latched =>
    rw [goes_of_inForce active unlatched (ne_duplicateStation_of_latching latches), if_pos latches]

end Sys2Proof.Machine
end

section
/-! PROOFS. Start-up (spec/11): the straps of a reset (R197), CONFIG_FAULT, and what commands find there to do. -/

namespace Sys2Proof.Machine

/-! ## The straps -/

/-- The values of the straps: station, limit class and variant (R197). -/
def Startup.straps (u : Startup) : Nat × Nat × Nat := (u.station, u.limitClass, u.variant)

/-- Equal strap values, strap by strap. -/
theorem straps_eq_iff {u v : Startup} :
    u.straps = v.straps ↔ u.station = v.station ∧ u.limitClass = v.limitClass ∧ u.variant = v.variant := by
  simp only [Startup.straps, Prod.mk.injEq]

/-- A move that leaves start-up leaves the straps. -/
theorem Does.straps {as : List Aspect} {bs : List Inv} {s t : State} (h : Does as bs s t)
    (n : .startup ∉ as := by decide) : t.startup.straps = s.startup.straps :=
  congrArg Startup.straps (h.only.startup n)

/-- A crossing counts in the mains window and never samples the straps (R197, R198). -/
theorem crossing_straps (s : State) : s.crossing.startup.straps = s.startup.straps := by
  unfold State.crossing
  split
  · rfl
  · rfl
  · split
    · exact (boundaryCrossing_does _ _ s).straps
    · rename_i within
      split
      · rename_i runs
        have inFrame : s.load.running = true ∧ s.load.cycle < 19 := by
          simpa [State.boundaryDue, runs] using within
        exact (cycleCrossing_does inFrame.1 inFrame.2).straps
      · exact (advanceLfsr_does s).straps

/-- The event of a crossing under a condition leaves the straps. -/
theorem crossingWhen_straps (due : Bool) (s : State) : (s.crossingWhen due).startup.straps = s.startup.straps := by
  unfold State.crossingWhen
  split
  · exact crossing_straps s
  · rfl

/-- The return of mains fixes a frequency and leaves the straps (R198). -/
theorem mainsReturns_straps (ms : Nat) (s : State) : (s.mainsReturns ms).startup.straps = s.startup.straps :=
  (mainsGone_does (s.mapStartup (Startup.fixFreq (freqOfSpan ms)))).straps

/-- The inputs that the end of the mains measurement establishes leave the straps (R198). -/
theorem establishRest_straps (s : State) : s.establishRest.startup.straps = s.startup.straps :=
  ((((establish_does _ s).trans (establish_does _ _)).trans (establish_does _ _)).trans (establish_does _ _)).straps

/-- The frequency measured leaves the straps (R198). -/
theorem measure_straps (gap : Bool) (s : State) : (s.measure gap).startup.straps = s.startup.straps := by
  unfold State.measure
  dsimp only
  split
  · exact (raiseMains_does _).straps
  · rfl

/-- The last stages of start-up leave the straps (R201). -/
theorem enterService_straps (s : State) : s.enterService.startup.straps = s.startup.straps :=
  ((runSettle_does _).straps.trans (startStandingDrain_does _).straps).trans
    (driveFlap_does (s.mapStartup (fun u => { u with stage := .service }))).straps

/-! ## What a command answers keeps the straps -/

/-- Whatever next state is answered has the straps of the state before. -/
def KeepsStraps (s : State) (o : StepOutcome) : Prop := ∀ t, o = .next t → t.startup.straps = s.startup.straps

/-- A next state with the straps of the state before. -/
theorem keepsStraps_next {s t : State} (h : t.startup.straps = s.startup.straps) : KeepsStraps s (.next t) := by
  rintro _ ⟨⟩
  exact h

/-- The reports of a command leave the straps (R183). -/
theorem keepsStraps_report {s t : State} (h : t.startup.straps = s.startup.straps) : KeepsStraps s (s.report_ t) :=
  keepsStraps_next ((reported_does s t).straps.trans h)

/-- A command that leaves start-up keeps the straps. -/
theorem Answers.keepsStraps {as : List Aspect} {bs : List Inv} {s : State} {o : StepOutcome} (h : Answers as bs s o)
    (n : .startup ∉ as := by decide) : KeepsStraps s o := by
  obtain ⟨t, rfl, does⟩ := h
  exact keepsStraps_next (does.straps n)

/-- MAINS_RESTORED keeps the straps. -/
theorem mainsRestored_keepsStraps (ms : Nat) (s : State) : KeepsStraps s (execMainsRestored ms s) := by
  refine keepsStraps_report ?_
  split
  · exact (runSettle_does _).straps.trans (mainsReturns_straps ms s)
  · rfl

/-- MAINS_MEASUREMENT_END keeps the straps. -/
theorem mainsMeasurementEnd_keepsStraps (gap : Bool) (s : State) :
    KeepsStraps s (execMainsMeasurementEnd gap s) := by
  refine keepsStraps_next ?_
  split
  · calc _ = _ := (handReportIf_does _ .fault _).straps
      _ = _ := enterService_straps _
      _ = _ := (loadRecord_does _).straps
      _ = _ := measure_straps gap _
      _ = _ := establishRest_straps s
  · rfl

/-- RESET alone samples the straps: every other command keeps them (R197). -/
theorem exec_keepsStraps {c : Instr} (other : ∀ a b d e, c ≠ .reset a b d e) (s : State) : KeepsStraps s (exec c s) := by
  have received (f : RxFrame) (back : Returning) : KeepsStraps s (.next (s.receive f back)) :=
    (receive_answers f s).keepsStraps
  have crosses (due : Bool) : KeepsStraps s (s.report_ (s.crossingWhen due)) :=
    keepsStraps_report (crossingWhen_straps due s)
  cases c
  case reset a b d e => exact absurd rfl (other a b d e)
  case mainsMeasurementEnd gap => exact mainsMeasurementEnd_keepsStraps gap s
  case mainsRestored ms => exact mainsRestored_keepsStraps ms s
  case inputStateEstablished i => exact (inputStateEstablished_answers i s).keepsStraps
  case announceTick => exact (announceTick_answers s).keepsStraps
  case peerEntryRemoved n => exact (peerEntryRemoved_answers n s).keepsStraps
  case tableFullCleared => exact (tableFullCleared_answers s).keepsStraps
  case listenEnd => exact (listenEnd_answers s).keepsStraps
  case quietEntry => exact (quietEntry_answers s).keepsStraps
  case zeroCrossing => exact keepsStraps_report (crossing_straps s)
  case second | stepCountEnd | promptTimeout | interruptionTimeout | soakComplete | doorOpenMinute | ventComplete
      | strokeEnd | coolWaitExpired | drainComplete | drainTimeout => exact crosses _
  case frameBoundary smp ms => exact (frameBoundary_answers smp ms s).keepsStraps
  case sampleTick smp => exact (sampleTick_answers smp s).keepsStraps
  case sensorFaultRaised k smp => exact (sensorFaultRaised_answers k smp s).keepsStraps
  case sensorFaultEnded k smp => exact (sensorFaultEnded_answers k smp s).keepsStraps
  case drainValveOpens smp => exact (drainValveOpens_answers smp s).keepsStraps
  case mainsLoss => exact (mainsLoss_answers s).keepsStraps
  case doorOpen => exact (doorOpen_answers s).keepsStraps
  case doorClose => exact (doorClose_answers s).keepsStraps
  case lowDry => exact (lowDry_answers s).keepsStraps
  case lowWet => exact (lowWet_answers s).keepsStraps
  case highWet => exact (highWet_answers s).keepsStraps
  case highDry => exact (highDry_answers s).keepsStraps
  case tankArrives level => exact (tankArrives_answers level s).keepsStraps
  case tankRemoved => exact (tankRemoved_answers s).keepsStraps
  case tankLevelChange level => exact (tankLevelChange_answers level s).keepsStraps
  case rotationReport => exact (rotationReport_answers s).keepsStraps
  case quietGap => exact (quietGap_answers s).keepsStraps
  case frameSent => exact (frameSent_answers s).keepsStraps
  case frameLost => exact (frameLost_answers s).keepsStraps
  case frameBroken => exact (frameBroken_answers s).keepsStraps
  case badFrame => exact (badFrame_answers s).keepsStraps
  case frameAbandoned => exact (frameAbandoned_answers s).keepsStraps
  case retainedWriteComplete good => exact (retainedWriteComplete_answers good s).keepsStraps
  all_goals exact received _ _

/-! ## A command that finds nothing to do -/

/-- Where nothing has changed no report is called for (R183). -/
theorem report_same (s : State) : s.report_ s = .next s := by
  simp [State.report_, State.reported, State.handReportIf]

/-- A command whose condition does not hold has no effect and calls for no report. -/
theorem report_of_not {c : Prop} [Decidable c] {s t : State} (h : ¬c) : s.report_ (if c then t else s) = .next s := by
  rw [if_neg h, report_same]

/-- A command without reports whose condition does not hold has no effect. -/
theorem next_of_not {c : Prop} [Decidable c] {s t : State} (h : ¬c) :
    (Host.Outcome.next (if c then t else s) : StepOutcome) = .next s := by
  rw [if_neg h]

/-! ## CONFIG_FAULT -/

/-- CONFIG_FAULT as a reset leaves it: no input is established, the rotation stands, and no write is in progress (R197). -/
structure State.Halted (s : State) : Prop where
  stage : s.startup.stage = .configFault
  door : s.climate.door = none
  low : s.steam.low = none
  high : s.steam.high = none
  tank : s.steam.tank = none
  rotating : s.report.rotating = false
  writing : s.retained.writing = none

namespace State.Halted

variable {s : State} (h : s.Halted)
include h

/-- Start-up does not reach its last stage. -/
theorem inService_eq : s.inService = false := by simp [State.inService, h.stage]

/-- No mains measurement runs. -/
theorem not_measuring : s.startup.stage ≠ .measuring := by simp [h.stage]

/-- No tank is found PRESENT. -/
theorem tankPresent_eq : s.tankPresent = false := by simp [State.tankPresent, h.tank]

/-- No crossing is counted (R34). -/
theorem crossing_eq_self : s.crossing = s := by simp [State.crossing, h.stage]

/-- No event of a crossing comes about. -/
theorem crossingWhen_eq_self (due : Bool) : s.crossingWhen due = s := by
  rw [State.crossingWhen, h.crossing_eq_self, ite_self]

/-- No crossing is a frame boundary (R34). -/
theorem boundaryDue_eq : s.boundaryDue = false := by simp [State.boundaryDue, State.crossingRuns, h.inService_eq]

/-- No internal timer samples (R197). -/
theorem timerSamples_eq : s.timerSamples = false := by simp [State.timerSamples, h.stage]

/-- No sample is taken (R197). -/
theorem nextSample_eq_self (smp : Sample) : s.nextSample smp = s := by
  simp [State.nextSample, h.timerSamples_eq, h.boundaryDue_eq]

/-- No announce tick runs (R32). -/
theorem tickEvent_eq_self : s.tickEvent = s := by simp [State.tickEvent, h.inService_eq]

/-- No own frame is on the line (R197). -/
theorem sends_eq : s.sends = false := by simp [State.sends, h.inService_eq]

/-- No frame is received (R197). -/
theorem receives_eq : s.receives = false := by simp [State.receives, h.inService_eq]

/-- A frame on the line goes past the part (R197). -/
theorem receive_eq_self (f : RxFrame) (back : Returning) : s.receive f back = s := by
  simp [State.receive, h.receives_eq]

/-- No quiet gap completes (R197). -/
theorem gapCompletes_eq : s.gapCompletes = false := by simp [State.gapCompletes, h.inService_eq]

/-- The rotation hands no report (R182). -/
theorem rotate_eq_self : s.rotate = s := by simp [State.rotate, h.rotating]

/-- There is no write to end (R200). -/
theorem writeEnds_eq_self (good : Bool) : s.writeEnds good = s := by
  simp [State.writeEnds, State.mapRetained, Retained.complete, h.writing]

/-- RESET alone has an effect on a halted part (R197). -/
theorem exec_eq_self {c : Instr} (other : ∀ a b d e, c ≠ .reset a b d e) : exec c s = .next s := by
  have silent {t : State} (same : t = s) : s.report_ t = .next s := by rw [same, report_same]
  have quiet {t : State} (same : t = s) : (Host.Outcome.next t : StepOutcome) = .next s := by rw [same]
  have sampled {due : Prop} [Decidable due] (smp : Sample) :
      s.report_ (if due then s.nextSample smp else s) = .next s :=
    silent (by rw [h.nextSample_eq_self, ite_self])
  have ticked {due : Prop} [Decidable due] : (Host.Outcome.next (if due then s.tickEvent else s) : StepOutcome) = .next s :=
    quiet (by rw [h.tickEvent_eq_self, ite_self])
  cases c
  case reset a b d e => exact absurd rfl (other a b d e)
  case mainsMeasurementEnd => exact next_of_not h.not_measuring
  case inputStateEstablished => exact next_of_not h.not_measuring
  case announceTick => exact quiet h.tickEvent_eq_self
  case peerEntryRemoved | tableFullCleared | listenEnd | quietEntry => exact ticked
  case zeroCrossing => exact silent h.crossing_eq_self
  case second | stepCountEnd | promptTimeout | interruptionTimeout | soakComplete | doorOpenMinute | ventComplete
      | strokeEnd | coolWaitExpired | drainComplete | drainTimeout => exact silent (h.crossingWhen_eq_self _)
  case frameBoundary => exact report_of_not (by simp [h.boundaryDue_eq])
  case sampleTick =>
    refine silent ?_
    rw [h.timerSamples_eq, if_neg Bool.false_ne_true, if_pos h.stage]
  case sensorFaultRaised | sensorFaultEnded | drainValveOpens => exact sampled _
  case mainsLoss | mainsRestored => exact report_of_not (by simp [h.inService_eq])
  case doorOpen | doorClose => exact report_of_not (by simp [h.door])
  case lowDry | lowWet => exact report_of_not (by simp [h.low])
  case highWet => exact report_of_not (by simp [h.high])
  case highDry => exact next_of_not (by simp [h.high])
  case tankArrives => exact report_of_not (by simp [h.tank])
  case tankRemoved | tankLevelChange => exact report_of_not (by simp [h.tankPresent_eq])
  case rotationReport => exact quiet h.rotate_eq_self
  case quietGap => exact next_of_not (by simp [h.gapCompletes_eq])
  case frameSent | frameBroken => exact report_of_not (by simp [h.sends_eq])
  case frameLost => exact next_of_not (by simp [h.sends_eq])
  case badFrame | frameAbandoned => exact next_of_not (by simp [h.receives_eq])
  case retainedWriteComplete => exact silent (h.writeEnds_eq_self _)
  all_goals exact quiet (h.receive_eq_self _ _)

end State.Halted

/-! ## The outputs -/

/-- The fault pin is driven in CONFIG_FAULT and nowhere else (R197). -/
theorem faultPin_iff (s : State) : s.faultPin = true ↔ s.startup.stage = .configFault := decide_eq_true_iff

/-- A station strap of 0 or 31 is CONFIG_FAULT (R197). -/
theorem sampled_stage_iff (station limitClass variant : Nat) :
    (Startup.sampled station limitClass variant).stage = .configFault ↔ station = 0 ∨ station = 31 := by
  unfold Startup.sampled
  dsimp only
  split <;> simp [*]

/-- Any other station strap goes on to the mains measurement (R201). -/
theorem sampled_measuring {station limitClass variant : Nat}
    (valid : (Startup.sampled station limitClass variant).stage ≠ .configFault) :
    (Startup.sampled station limitClass variant).stage = .measuring :=
  if_neg (mt (sampled_stage_iff station limitClass variant).mpr valid)

/-- CONFIG_FAULT holds the outputs off that no block holds off by itself: pump, drain valve, flap drive, convection fan and
lamp (R197). -/
theorem outputs_of_configFault {s : State} (fault : s.startup.stage = .configFault) :
    s.pumpOn = false ∧ s.drainValveOpen = false ∧ s.flapDriveOn = false ∧ s.convectionFan = 0 ∧ s.lampOn = false := by
  have off : s.outputsOn = false := by simp [State.outputsOn, fault]
  have down : s.inService = false := by simp [State.inService, fault]
  refine ⟨?pump, ?valve, ?flap, ?fan, ?lamp⟩
  case pump => simp [State.pumpOn, off]
  case valve => simp [State.drainValveOpen, off]
  case flap => simp [State.flapDriveOn, down]
  case fan => simp [State.convectionFan, off]
  case lamp => simp [State.lampOn, off]

/-- A reset into CONFIG_FAULT leaves the part halted. -/
theorem afterReset_halted {station limitClass variant : Nat} (stored : StoredRecord) (q : List Instr) (i : Sample) (n : Nat)
    (fault : (Startup.sampled station limitClass variant).stage = .configFault) :
    (State.afterReset station limitClass variant stored q i n).Halted :=
  ⟨fault, rfl, rfl, rfl, rfl, rfl, rfl⟩

/-- Settles O9: a reset into CONFIG_FAULT leaves the part halted, and of a halted part no condition of a command holds; that
no command but RESET samples the straps is a frame fact of the crossings and of start-up's last stages. -/
theorem configFault : Obligations.ConfigFault := by
  refine ⟨fun station limitClass variant cut s => ?sampled, fun c s t other answer => ?kept⟩
  case sampled =>
    have stage := sampled_stage_iff station.val limitClass.val variant.val
    refine ⟨_, rfl, ⟨rfl, rfl, rfl⟩, (faultPin_iff _).trans stage, fun noPin => ?valid, fun pin => ?invalid⟩
    case valid =>
      exact sampled_measuring fun fault => Bool.false_ne_true (noPin.symm.trans ((faultPin_iff _).mpr fault))
    case invalid =>
      have fault := (faultPin_iff _).mp pin
      obtain ⟨pump, valve, flap, fan, lamp⟩ := outputs_of_configFault fault
      exact ⟨⟨rfl, pump, valve, flap, fan, rfl, lamp, rfl⟩,
        fun _ => (afterReset_halted _ _ _ _ fault).exec_eq_self⟩
  case kept => exact straps_eq_iff.mp (exec_keepsStraps other s t answer)

end Sys2Proof.Machine
end

section
/-! PROOFS. What every command answers: a next state, within its frame, that keeps the blocks' invariants (spec/95). -/

namespace Sys2Proof.Machine

/-! ## Commands of the bus link that touch one side of it alone -/

/-- Invariants of single moves that are no block's own: a command may break them. -/
abbrev moveInvs : List Inv := [.hold, .outside, .withdrawals, .entries]

/-- A command that may break nothing but the invariants of single moves. -/
theorem Answers.blocks {as : List Aspect} {bs : List Inv} {s : State} {o : StepOutcome} (h : Answers as bs s o)
    (hb : ∀ b ∈ bs, b ∈ moveInvs := by decide) : Answers as moveInvs s o := by
  obtain ⟨t, rfl, does⟩ := h
  exact ⟨t, rfl, does.mono (fun _ m => m) hb⟩

/-- An aspect that the next state has in common with the state before leaves the frame. -/
theorem Answers.narrow {as cs : List Aspect} {bs : List Inv} {s t : State} (h : Answers as bs s (.next t))
    (same : ∀ a ∈ as, a ∉ cs → Same a s t) : Answers cs bs s (.next t) := by
  obtain ⟨_, ⟨⟩, does⟩ := h
  exact ⟨t, rfl, fun a out => (Decidable.em (a ∈ as)).elim (fun m => same a m out) (does.same a), does.kept⟩

/-- QUIET_GAP leaves the counters of the bus link. -/
theorem quietGap_frame (s : State) : Answers [.link, .queue] moveInvs s (execQuietGap s) := by
  refine (quietGap_answers s).blocks.narrow fun a m out => ?_
  obtain rfl : a = .busCounts := by simp at m out; tauto
  split
  · simp only [Same, State.mapBus_bus, BusLink.quietGap]
    split <;> rfl
  · rfl

/-- FRAME_LOST leaves the counters of the bus link. -/
theorem frameLost_frame (s : State) : Answers [.link, .queue] moveInvs s (execFrameLost s) := by
  refine (frameLost_answers s).blocks.narrow fun a m out => ?_
  obtain rfl : a = .busCounts := by simp at m out; tauto
  split <;> rfl

/-- A counted bad frame leaves the transmit queue. -/
theorem countBad_frame (abandoned : Bool) (s : State) :
    Answers [.link, .busCounts] moveInvs s
      (.next (if s.receives then s.mapBus (BusLink.countBad abandoned) else s)) := by
  have does : Does [.link, .queue, .busCounts] [.entries] s
      (if s.receives then s.mapBus (BusLink.countBad abandoned) else s) :=
    .ite (fun _ => countBad_does abandoned s) (fun _ => .refl s)
  refine does.answers.blocks.narrow fun a m out => ?_
  obtain rfl : a = .queue := by simp at m out; tauto
  split <;> rfl

/-! ## Reset -/

/-- RESET leaves what belongs to the outside, and every block it resets is legal. -/
theorem reset_answers (station : Fin 32) (limitClass : Fin 8) (variant : Fin 4) (cut : InterruptedWrite) (s : State) :
    Answers resetAspects moveInvs s (execReset station limitClass variant cut s) := by
  obtain ⟨bus, share, peers, load, climate, steam, scale, store, seq, faults⟩ :=
    afterReset_legal station limitClass variant (s.retained.afterReset cut) s.pending s.inputs s.freeIndex
  refine ⟨_, rfl, fun a out => ?same, fun b out => ?kept⟩
  case same =>
    cases a
    case inputs | freeIndex | pending => rfl
    case fault k => cases k <;> exact absurd (by decide) out
    all_goals exact absurd (by decide) out
  case kept =>
    cases b
    case bus => exact fun _ => bus
    case share => exact fun _ => share
    case peers => exact fun _ => peers
    case frame => exact fun _ => load
    case climate => exact fun _ => climate
    case steam => exact fun _ => steam
    case scale => exact fun _ => scale
    case store => exact fun _ => store
    case seq => exact fun _ => seq
    case faults => exact fun _ => faults
    all_goals exact absurd (by decide) out

/-! ## Every command -/

/-- Every command answers a next state, within the frame of its row, with every block kept legal. -/
theorem exec_answers (c : Instr) (s : State) : Answers (touches c) moveInvs s (exec c s) := by
  have received (f : RxFrame) (back : Returning) : Answers frameAspects moveInvs s (.next (s.receive f back)) :=
    (receive_answers f s).blocks
  have crosses (due : Bool) : Answers crossingAspects moveInvs s (s.report_ (s.crossingWhen due)) :=
    (crossingWhen_answers due s).blocks
  cases c
  case reset => exact reset_answers _ _ _ _ s
  case mainsMeasurementEnd gap => exact (mainsMeasurementEnd_answers gap s).blocks
  case inputStateEstablished i => exact (inputStateEstablished_answers i s).blocks
  case announceTick => exact (announceTick_answers s).blocks
  case peerEntryRemoved n => exact (peerEntryRemoved_answers n s).blocks
  case tableFullCleared => exact (tableFullCleared_answers s).blocks
  case listenEnd => exact (listenEnd_answers s).blocks
  case quietEntry => exact (quietEntry_answers s).blocks
  case zeroCrossing => exact (zeroCrossing_answers s).blocks
  case second | stepCountEnd | promptTimeout | interruptionTimeout | soakComplete | doorOpenMinute | ventComplete
      | strokeEnd | coolWaitExpired | drainComplete | drainTimeout => exact crosses _
  case frameBoundary smp ms => exact (frameBoundary_answers smp ms s).blocks
  case sampleTick smp => exact (sampleTick_answers smp s).blocks
  case sensorFaultRaised k smp => exact (sensorFaultRaised_answers k smp s).blocks
  case sensorFaultEnded k smp => exact (sensorFaultEnded_answers k smp s).blocks
  case drainValveOpens smp => exact (drainValveOpens_answers smp s).blocks
  case mainsLoss => exact (mainsLoss_answers s).blocks
  case mainsRestored ms => exact (mainsRestored_answers ms s).blocks
  case doorOpen => exact (doorOpen_answers s).blocks
  case doorClose => exact (doorClose_answers s).blocks
  case lowDry => exact (lowDry_answers s).blocks
  case lowWet => exact (lowWet_answers s).blocks
  case highWet => exact (highWet_answers s).blocks
  case highDry => exact (highDry_answers s).blocks
  case tankArrives level => exact (tankArrives_answers level s).blocks
  case tankRemoved => exact (tankRemoved_answers s).blocks
  case tankLevelChange level => exact (tankLevelChange_answers level s).blocks
  case rotationReport => exact (rotationReport_answers s).blocks
  case quietGap => exact quietGap_frame s
  case frameSent => exact (frameSent_answers s).blocks
  case frameLost => exact frameLost_frame s
  case frameBroken => exact (frameBroken_answers s).blocks
  case badFrame => exact countBad_frame false s
  case frameAbandoned => exact countBad_frame true s
  case retainedWriteComplete good => exact (retainedWriteComplete_answers good s).blocks
  all_goals exact received _ _

/-- Settles O2: the frame of a command is the one its answer is proved within; no row names the waiting commands. -/
theorem everyCommandAnswersWithinItsFrame : Obligations.EveryCommandAnswersWithinItsFrame := by
  intro c s
  obtain ⟨t, answer, does⟩ := exec_answers c s
  exact ⟨⟨t, answer, does.only⟩, by cases c <;> exact of_decide_eq_true rfl⟩

/-! ## Every step -/

/-- A step is the idling of an empty queue, or the front command on the queue's rest. -/
theorem step_cases {s t : State} (h : step s = .next t) :
    t = s ∨ ∃ c q, s.pending = c :: q ∧ exec c (s.setPending q) = .next t := by
  unfold step at h
  split at h
  next => exact .inl (by injection h with same; exact same.symm)
  next c q front => exact .inr ⟨c, q, front, h⟩

/-- A step keeps every block's invariant. -/
theorem step_kept {s t : State} (h : step s = .next t) (b : Inv) (own : b ∉ moveInvs) : Kept b s t := by
  obtain rfl | ⟨c, q, -, run⟩ := step_cases h
  · exact (Does.refl t (as := []) (bs := [])).kept b List.not_mem_nil
  · obtain ⟨_, answer, does⟩ := exec_answers c (s.setPending q)
    injection answer.symm.trans run with same
    subst same
    have taken : Kept b s (s.setPending q) := by
      cases b <;> first | exact id | exact fun _ => id
    exact taken.trans (does.kept b own)

/-- Settles O4: each block's invariant is one of those that every command's answer keeps. -/
theorem blocksStayLegal : Obligations.BlocksStayLegal := fun _ _ h =>
  ⟨step_kept h .bus (by decide), step_kept h .share (by decide), step_kept h .peers (by decide),
    step_kept h .climate (by decide), step_kept h .steam (by decide), step_kept h .scale (by decide),
    step_kept h .seq (by decide), step_kept h .faults (by decide)⟩

/-- Settles O5: the agreement of slots and sequencer is one of the invariants that every command's answer keeps. -/
theorem atMostOneSlotIsActive : Obligations.AtMostOneSlotIsActive := fun _ _ legal h =>
  step_kept h .store (by decide) legal

/-- Settles O6: the load frame's invariant is one of those that every command's answer keeps. -/
theorem conductionStaysWithinThePlan : Obligations.ConductionStaysWithinThePlan := fun _ _ legal h =>
  step_kept h .frame (by decide) legal

/-- Settles O1: a step takes the front of the queue, by definition. -/
theorem stepRunsTheFrontCommand : Obligations.StepRunsTheFrontCommand := by
  refine fun s => ⟨fun c q front => ?front, fun none => ?idle⟩
  case front => rw [step, front]
  case idle => rw [step, none]

end Sys2Proof.Machine
end

section
/-! PROOFS. The ceiling and the interruption timer follow the program's situation (R38, R40, R134): what they depend on, and that
every command that touches any of it settles them again. -/

namespace Sys2Proof.Machine

/-! ## What the situation depends on -/

/-- The ACTIVE program depends on slots and sequencer alone (R118). -/
theorem activeRun_of_same {s t : State} (slots : Same .slots s t) (run : t.seq.run = s.seq.run) :
    t.activeRun = s.activeRun := by
  simp only [Same, Prod.mk.injEq] at slots
  obtain ⟨slot0, slot1, -⟩ := slots
  have slot (ix : SlotIx) : t.store.slot ix = s.store.slot ix := by cases ix <;> assumption
  simp only [State.activeRun, run, slot]

/-- Two states agree on the sequencer's part of the situation: whether a program is ACTIVE, its step's mode, and the flags that
the run state is made of (R38, R119). -/
structure SameProgram (s t : State) : Prop where
  active : t.hasActive = s.hasActive
  mode : t.activeStep.map StepRecord.mode = s.activeStep.map StepRecord.mode
  flags : (t.seq.pauseFlag, t.seq.stopFlag, t.seq.probeHold) = (s.seq.pauseFlag, s.seq.stopFlag, s.seq.probeHold)

/-- The ACTIVE program and the flags are all of the sequencer that the situation depends on. -/
theorem SameProgram.of_run {s t : State} (run : t.activeRun = s.activeRun)
    (flags : (t.seq.pauseFlag, t.seq.stopFlag, t.seq.probeHold) = (s.seq.pauseFlag, s.seq.stopFlag, s.seq.probeHold)) :
    SameProgram s t :=
  ⟨by rw [State.hasActive, run, State.hasActive], by rw [State.activeStep, run, State.activeStep], flags⟩

/-- Beside the program, what its situation depends on (R38, R119). -/
abbrev situationAspects : List Aspect := [.startup, .door, .boiler, .tank, .doorTimer, .scaleLoad]

/-- The hold causes depend on the situation alone (R119). -/
theorem anyHold_congr {s t : State} (program : SameProgram s t) (same : ∀ a ∈ situationAspects, Same a s t) :
    t.anyHold = s.anyHold := by
  have door : t.climate.door = s.climate.door := same .door (by decide)
  have boiler := same .boiler (by decide)
  have tank : t.steam.tank = s.steam.tank := same .tank (by decide)
  have flags := program.flags
  simp only [Same, Prod.mk.injEq] at boiler flags
  have wait : t.tankWait = s.tankWait := by
    simp only [State.tankWait, State.drainInHand, State.tankPresent, boiler, tank] <;> rfl
  simp only [State.anyHold, State.doorHold, State.tankHold, State.probeHold, State.doorOpen, program.active, door, wait,
    boiler, flags]

/-- The run state depends on the situation alone (R119). -/
theorem runState_of_situation {s t : State} (program : SameProgram s t) (same : ∀ a ∈ situationAspects, Same a s t) :
    t.runState = s.runState := by
  have flags := program.flags
  simp only [Prod.mk.injEq] at flags
  simp only [State.runState, program.active, anyHold_congr program same, flags]

/-- A ceiling by the mode of the active step (R38). -/
theorem ceilingNow_eq (s : State) :
    s.ceilingNow =
      match s.activeStep.map StepRecord.mode with
      | none => 0
      | some m =>
        if m = .wait then 0
        else if s.suspended then s.baseUnits
        else if s.doorMinute then s.baseUnits
        else stepCeiling s.startup.variant s.scaleWarning m := by
  unfold State.ceilingNow
  cases s.activeStep <;> rfl

/-- The ceiling that the situation gives depends on the situation alone (R38). -/
theorem ceilingNow_of_situation {s t : State} (program : SameProgram s t) (same : ∀ a ∈ situationAspects, Same a s t) :
    t.ceilingNow = s.ceilingNow := by
  have startup : t.startup = s.startup := same .startup (by decide)
  have timer : t.load.doorTimer = s.load.doorTimer := same .doorTimer (by decide)
  have scale : t.scale.load = s.scale.load := same .scaleLoad (by decide)
  simp only [ceilingNow_eq, program.mode, State.suspended, runState_of_situation program same, State.doorMinute,
    State.baseUnits, State.scaleWarning, startup, timer, scale] <;> rfl

/-- Where the situation of the program is the same, the agreement with it is. -/
theorem follows_congr {s t : State} (program : SameProgram s t) (same : ∀ a ∈ situationAspects, Same a s t)
    (ceiling : t.load.ceiling = s.load.ceiling) (timer : t.seq.interruption.isSome = s.seq.interruption.isSome)
    (h : s.Follows) : t.Follows :=
  ⟨by rw [ceiling, ceilingNow_of_situation program same, h.1],
    by rw [timer, runState_of_situation program same, h.2]⟩

/-- A move that leaves the ACTIVE program, whatever it does to the slots. -/
theorem Only.follows_of_run {as : List Aspect} {s t : State} (only : Only as s t) (run : t.activeRun = s.activeRun)
    (h : s.Follows) (out : ∀ a ∈ Aspect.ceiling :: .program :: situationAspects, a ∉ as := by decide) : t.Follows := by
  have program := only .program (out _ (by decide))
  simp only [Same, Prod.mk.injEq] at program
  exact follows_congr (.of_run run (by simp only [program])) (fun a m => only a (out a (by simp [m])))
    (only .ceiling (out _ (by decide))) (by simp only [program]) h

/-- A move that changes nothing of the program's situation. -/
theorem Only.follows {as : List Aspect} {s t : State} (only : Only as s t) (h : s.Follows)
    (out : ∀ a ∈ Aspect.ceiling :: .program :: situationAspects, a ∉ as := by decide)
    (slots : .slots ∉ as := by decide) : t.Follows := by
  have program := only .program (out _ (by decide))
  simp only [Same, Prod.mk.injEq] at program
  exact only.follows_of_run (activeRun_of_same (only .slots slots) program.1) h out

/-- The reports of an event leave the situation. -/
theorem reported_follows {before s : State} (h : s.Follows) : (before.reported s).Follows :=
  (reported_does before s).only.follows h

/-- The ceiling recomputed brings a program whose timer is kept into agreement (R40). -/
theorem updateCeiling_follows {s : State}
    (timer : s.seq.interruption.isSome = true ↔ s.runState = some .held ∨ s.runState = some .paused) :
    s.updateCeiling.Follows := by
  have state : s.updateCeiling.runState = s.runState :=
    runState_congr (updateCeiling_seq s) (updateCeiling_store s) (updateCeiling_climate s) (updateCeiling_steam s)
  exact ⟨by rw [updateCeiling_load, updateCeiling_ceilingNow], by rw [updateCeiling_seq, timer, state]⟩

/-! ## Slots that are not ACTIVE -/

/-- A slot that is not ACTIVE replaced by another that is not leaves the ACTIVE program. -/
theorem setSlot_activeRun {ix : SlotIx} {v : Slot} {s t : State} (old : (s.store.slot ix).activeProgram = none)
    (new : v.activeProgram = none) (slot0 : t.store.slot0 = (s.store.setSlot ix v).slot0)
    (slot1 : t.store.slot1 = (s.store.setSlot ix v).slot1) (run : t.seq.run = s.seq.run) :
    t.activeRun = s.activeRun := by
  have slot (i : SlotIx) : (t.store.slot i).activeProgram = (s.store.slot i).activeProgram := by
    cases ix <;> cases i <;> simp_all [Store.slot, Store.setSlot]
  simp only [State.activeRun, run, slot]

/-- A LOADING slot abandoned leaves the ACTIVE program (R102). -/
theorem abandonSlot_activeRun (gone : List Nat) (ix : SlotIx) (s : State) :
    (s.mapStore (Store.abandonSlot gone ix)).activeRun = s.activeRun := by
  cases slot : s.store.slot ix
  case loading p =>
    by_cases gives : p.originator ∈ gone
    · have empties : s.store.abandonSlot gone ix = s.store.emptySlot ix := by simp [Store.abandonSlot, slot, gives]
      refine setSlot_activeRun (ix := ix) (v := .empty) (by rw [slot]; rfl) rfl ?_ ?_ rfl
      · rw [State.mapStore_store, empties]; rfl
      · rw [State.mapStore_store, empties]; rfl
    · have stays : s.store.abandonSlot gone ix = s.store := by simp [Store.abandonSlot, slot, gives]
      rw [State.mapStore, stays]
  all_goals
    have stays : s.store.abandonSlot gone ix = s.store := by simp [Store.abandonSlot, slot]
    rw [State.mapStore, stays]

/-- The LOADING slots of stations that have gone leave the ACTIVE program (R102). -/
theorem abandon_activeRun (gone : List Nat) (s : State) :
    (s.mapStore (Store.abandon gone)).activeRun = s.activeRun :=
  (abandonSlot_activeRun gone .s1 (s.mapStore (Store.abandonSlot gone .s0))).trans (abandonSlot_activeRun gone .s0 s)

/-- Stations that have gone leave the agreement with the program. -/
theorem abandon_follows (gone : List Nat) {s : State} (h : s.Follows) : (s.mapStore (Store.abandon gone)).Follows :=
  (abandon_does gone s).only.follows_of_run (abandon_activeRun gone s) h

/-! ## The share engine -/

/-- An announcement heard leaves the agreement (R7 to R9). -/
theorem recordPeer_follows (a : Announcement) {s : State} (h : s.Follows) : (s.recordPeer a).Follows := by
  unfold State.recordPeer
  split
  · exact h
  · split
    · exact h
    · split
      · exact abandon_follows _ (s := s.setPeers _) h
      · exact h

/-- The ageing of the table leaves the agreement (R11). -/
theorem ageTable_follows {s : State} (h : s.Follows) : s.ageTable.Follows :=
  abandon_follows _ (s := s.mapShare _) h

/-- An announce tick leaves the agreement (R25). -/
theorem shareTick_follows {s : State} (h : s.Follows) : s.shareTick.Follows := by
  refine (tickCounters_does _).only.follows (ageTable_follows ?_)
  dsimp only
  split
  · exact h
  · exact (announce_does _).only.follows ((mainsApply_does _).only.follows ((tickShare_does _ _).only.follows h))

/-- The tick event leaves the agreement. -/
theorem tickEvent_follows {s : State} (h : s.Follows) : s.tickEvent.Follows := by
  unfold State.tickEvent
  split
  · exact reported_follows (shareTick_follows h)
  · exact h

/-! ## Crossings -/

/-- A second that ends nothing leaves the agreement: it counts, and no more (R120). -/
theorem countSecond_follows {s : State} (h : s.Follows) : s.countSecond.Follows :=
  follows_congr (s := s) (.of_run rfl rfl) (fun a m => (countSecond_does s).same a (by revert a; decide)) rfl
    (by simp [State.countSecond]) h

/-- A second leaves the agreement, or ends in settling (R120). -/
theorem secondEvent_follows {s : State} (h : s.Follows) : s.secondEvent.Follows := by
  unfold State.secondEvent
  dsimp only
  split
  · exact runSettle_follows _
  · split
    · exact runSettle_follows _
    · exact countSecond_follows h

/-- An examination of the door leaves the agreement, or is an event of the door, which settles (R67). -/
theorem examineDoor_follows {s : State} (h : s.Follows) : s.examineDoor.Follows := by
  have examined (opposite : Bool) : (s.doorExamined opposite).Follows :=
    follows_congr (s := s) (.of_run rfl rfl) (fun a m => by revert a; simp [Same, State.doorExamined]) rfl rfl h
  have changes : s.doorChanges.Follows := by
    unfold State.doorChanges
    split <;> exact runSettle_follows _
  unfold State.examineDoor
  split
  · exact h
  · split
    · exact examined false
    · split
      · exact changes
      · exact examined true

/-- The timers and the examination that end a crossing leave a program that is followed (log 3). -/
theorem fire_follows (second : Bool) (s : State) : (s.fire second).Follows := by
  unfold State.fire
  refine examineDoor_follows ?_
  split
  · exact secondEvent_follows (runSettle_follows _)
  · exact runSettle_follows _

/-- A frame boundary leaves a program that is followed (R41). -/
theorem boundaryCrossing_follows (smp : Sample) (ms : Nat) (s : State) : (s.boundaryCrossing smp ms).Follows := by
  unfold State.boundaryCrossing
  dsimp only
  split
  · exact runSettle_follows _
  · exact fire_follows _ _

/-- A crossing leaves the agreement (R48); the mains window counts no program. -/
theorem crossing_follows {s : State} (service : s.inService = true) (h : s.Follows) : s.crossing.Follows := by
  have stage : s.startup.stage = .service := by simpa [State.inService] using service
  simp only [State.crossing, stage]
  split
  · exact boundaryCrossing_follows _ _ s
  · split
    · exact fire_follows _ _
    · exact (advanceLfsr_does s).only.follows h

/-- A sample, wherever it falls, leaves the agreement. -/
theorem nextSample_follows (smp : Sample) {s : State} (h : s.Follows) : (s.nextSample smp).Follows := by
  unfold State.nextSample
  split
  · exact runSettle_follows _
  · split
    · exact boundaryCrossing_follows _ _ s
    · exact h

/-! ## The bus link and the retained record -/

/-- A kind that has no effect on a program of either kind leaves the program (R171). -/
theorem programFault_nothing {k : FaultKind} (recipe : k.onRecipe = .nothing) (service : k.onService = .nothing) (s : State) :
    s.programFault k = s := by
  have effect (kind : ProgramKind) : k.onProgram kind = .nothing := by cases kind <;> assumption
  unfold State.programFault
  split
  · rfl
  · rw [effect]

/-- LINK begins without an effect on the program; the ceiling is recomputed (R171). -/
theorem raiseLink_follows {s : State} (h : s.Follows) : (s.raise .link).Follows := by
  have set (f : FaultRecord → FaultRecord) : (s.setFault .link f).Follows :=
    follows_congr (s := s) (.of_run rfl rfl) (fun a m => by revert a; simp [Same, State.setFault]) rfl rfl h
  unfold State.raise
  split
  · exact set _
  · have withdrawn := (withdraw_does FaultKind.link.cuts _).only.follows (set FaultRecord.arise)
    rw [State.faultBegins, State.barBoiler, programFault_nothing rfl rfl]
    exact (mainsApply_does _).only.follows (updateCeiling_follows withdrawn.2)

/-- The end of a retained write leaves the agreement (R200). -/
theorem writeEnds_follows (good : Bool) {s : State} (h : s.Follows) : (s.writeEnds good).Follows := by
  have completed := (completeWrite_does good s).only.follows h
  unfold State.writeEnds
  dsimp only
  split
  · refine follows_congr (t := State.condGone _ _) ?_ ?_ ?_ ?_ completed
    all_goals
      unfold State.condGone State.release State.faultEnds
      dsimp only
      split
    all_goals first | rfl | exact .of_run rfl rfl | (intro a m; revert a; simp [Same, State.setFault])
  · exact completed

/-! ## Requests -/

/-- A move of the program store that leaves the ACTIVE program. -/
theorem store_follows {s : State} {f : Store → Store} (only : Only [.slots, .staging] s (s.mapStore f))
    (run : (s.mapStore f).activeRun = s.activeRun) (h : s.Follows) : (s.mapStore f).Follows :=
  only.follows_of_run run h

/-- LOAD_HEADER leaves the agreement (R100). -/
theorem loadHeader_follows (src : Nat) (body : List Byte) {s : State} (h : s.Follows) :
    (s.loadHeader src body).state.Follows := by
  refine (loadHeader_does src body s).only.follows_of_run ?_ h
  unfold State.loadHeader
  dsimp only
  split
  · rfl
  · split
    · rfl
    · split
      · rfl
      · rename_i ix free
        exact setSlot_activeRun (by rw [lowestEmpty_slot free]; rfl) rfl rfl rfl rfl

/-- A record stored in a LOADING slot leaves the ACTIVE program (R108). -/
theorem storeStep_activeRun {ix : SlotIx} {p : Program} (i : Nat) (r : StepRecord) {s : State}
    (loading : s.store.slot ix = .loading p) : (s.mapStore (Store.storeStep ix p i r)).activeRun = s.activeRun := by
  have old : (s.store.slot ix).activeProgram = none := by rw [loading]; rfl
  unfold Store.storeStep
  dsimp only
  by_cases full : ({ p with steps := p.steps.set i (some r) } : Program).complete = true
  · simp only [full, if_true]
    exact setSlot_activeRun old (v := .ready _) rfl rfl rfl rfl
  · simp only [full]
    exact setSlot_activeRun old (v := .loading _) rfl rfl rfl rfl

/-- STEP_PART_B leaves the agreement (R108). -/
theorem stepPartB_follows (src : Nat) (body : List Byte) {s : State} (h : s.Follows) :
    (s.stepPartB src body).state.Follows := by
  refine (stepPartB_does src body s).only.follows_of_run ?_ h
  unfold State.stepPartB State.joinedStep
  split
  · rfl
  · split
    · dsimp only
      split
      · rfl
      · split
        · rename_i loading
          split
          · rfl
          · split
            · rfl
            · split
              · rfl
              · exact storeStep_activeRun _ _ loading
        all_goals rfl
    · rfl

/-- CLEAR leaves the agreement (R114). -/
theorem clearSlot_follows (n : Nat) {s : State} (h : s.Follows) : (s.clearSlot n).1.Follows := by
  refine (clearSlot_does n s).only.follows_of_run ?_ h
  unfold State.clearSlot
  split
  · rfl
  · split
    case h_5 slot => exact setSlot_activeRun (by rw [slot]; rfl) rfl rfl rfl rfl
    all_goals rfl

/-- DISCARD leaves the agreement (R113). -/
theorem discardSlot_follows (src n : Nat) {s : State} (h : s.Follows) : (s.discardSlot src n).1.Follows := by
  refine (discardSlot_does src n s).only.follows_of_run ?_ h
  unfold State.discardSlot
  dsimp only
  split
  · rfl
  · split
    case h_4 slot | h_5 slot =>
      split
      · exact setSlot_activeRun (by rw [slot]; rfl) rfl rfl rfl rfl
      · rfl
    all_goals rfl

/-- An ADJUST of the working copy leaves the sequencer's position, flags and interruption timer (R141). -/
theorem adjust_keeps (a : Adjustment) (q : Sequencer) :
    (q.adjust a).run = q.run ∧ (q.adjust a).pauseFlag = q.pauseFlag ∧ (q.adjust a).stopFlag = q.stopFlag
      ∧ (q.adjust a).probeHold = q.probeHold ∧ (q.adjust a).interruption = q.interruption := by
  unfold Sequencer.adjust
  split <;> exact ⟨rfl, rfl, rfl, rfl, rfl⟩

/-- The ACTIVE program and step after an ADJUST: the record replaced, in its place (R141). -/
theorem applyAdjust_run {at_ : Position} {p : Program} {r : StepRecord} (a : Adjustment) {s : State}
    (run : s.activeRun = some (at_, p)) (step : s.activeStep = some r) :
    (s.applyAdjust at_ p r a).1.activeRun
        = some (at_, { p with steps := p.steps.set at_.step (some (adjusted a s.seq r)) })
      ∧ (s.applyAdjust at_ p r a).1.activeStep = some (adjusted a s.seq r) := by
  have ran : (s.applyAdjust at_ p r a).1.activeRun
      = some (at_, { p with steps := p.steps.set at_.step (some (adjusted a s.seq r)) }) := by
    refine activeRun_of ?_ ?_
    · exact (adjust_keeps a s.seq).1.trans (activeRun_parts run).1
    · cases slot : at_.slot <;> simp [State.applyAdjust, Store.setSlot, Store.slot, slot]
  have within : at_.step < p.steps.length := by
    rw [State.activeStep, run] at step
    by_contra out
    simp [Program.step, List.getElem?_eq_none (show p.steps.length ≤ at_.step by omega)] at step
  refine ⟨ran, ?_⟩
  rw [State.activeStep, ran]
  simp [Program.step, within]

/-- An ADJUST leaves the mode of the step it adjusts, and so the agreement (R141). -/
theorem applyAdjust_follows {at_ : Position} {p : Program} {r : StepRecord} (a : Adjustment) {s : State}
    (run : s.activeRun = some (at_, p)) (step : s.activeStep = some r) (h : s.Follows) :
    (s.applyAdjust at_ p r a).1.Follows := by
  obtain ⟨ran, stepped⟩ := applyAdjust_run a run step
  obtain ⟨-, pause, stop, probe, timer⟩ := adjust_keeps a s.seq
  refine follows_congr (s := s) ⟨?active, ?mode, ?flags⟩ ?same rfl ?timer h
  case active => rw [State.hasActive, ran, State.hasActive, run]; rfl
  case mode => rw [stepped, step]; rfl
  case flags => simp [State.applyAdjust, pause, stop, probe]
  case same => intro a m; revert a; simp [Same, State.applyAdjust]
  case timer => simp [State.applyAdjust, timer]

/-- ADJUST leaves the agreement (R140, R141). -/
theorem adjust_follows (src : Nat) (a : Adjustment) {s : State} (h : s.Follows) : (s.adjust src a).1.Follows := by
  unfold State.adjust
  split
  · rename_i run step
    split
    · exact h
    · split
      · exact h
      · split
        · exact h
        · split
          · exact h
          · exact applyAdjust_follows a run step h
  · exact h

/-- START leaves the agreement, or ends in settling (R121). -/
theorem startSlot_follows (n : Nat) {s : State} (h : s.Follows) : (s.startSlot n).1.Follows := by
  unfold State.startSlot
  split
  · exact h
  · split
    case h_1 =>
      split
      · exact h
      · split
        · exact h
        · exact runSettle_follows _
    all_goals exact h

/-- PAUSE leaves the agreement, or ends in settling (R135). -/
theorem pause_follows {s : State} (h : s.Follows) : s.pause.1.Follows := by
  unfold State.pause
  split
  case h_4 | h_5 => exact runSettle_follows _
  all_goals exact h

/-- CONTINUE leaves the agreement, or ends in settling (R136). -/
theorem continue_follows {s : State} (h : s.Follows) : s.continue_.1.Follows := by
  unfold State.continue_
  split
  case h_2 => exact runSettle_follows _
  all_goals exact h

/-- STOP leaves the agreement, or ends in settling (R138, R158). -/
theorem stop_follows {s : State} (h : s.Follows) : s.stop.1.Follows := by
  have service : s.stopService.Follows := by
    unfold State.stopService
    split
    · exact h
    · split <;> exact runSettle_follows _
  have recipe : s.stopRecipe.Follows := by
    unfold State.stopRecipe
    split
    · exact h
    · split <;> exact runSettle_follows _
  unfold State.stop
  split
  · exact h
  · split
    · exact service
    · exact recipe

/-- SKIP leaves the agreement, or ends in settling (R139). -/
theorem skip_follows (src : Nat) {s : State} (h : s.Follows) : (s.skip src).1.Follows := by
  unfold State.skip
  split
  · exact h
  · split
    · exact h
    · split
      · exact h
      · split
        · exact h
        · exact runSettle_follows _

/-- CONFIRM leaves the agreement, or ends in settling (R137). -/
theorem confirm_follows (code : Nat) {s : State} (h : s.Follows) : (s.confirm code).1.Follows := by
  unfold State.confirm
  split
  · exact runSettle_follows _
  · exact h

/-- START_DESCALE leaves the agreement, or ends in settling (R150). -/
theorem startDescale_follows {s : State} (h : s.Follows) : s.startDescale.state.Follows := by
  unfold State.startDescale
  split
  · exact h
  · split
    · exact h
    · split
      · exact h
      · exact runSettle_follows _

/-- CLEAR_FAULTS ends in settling, and so does a condition that returns (R173). -/
theorem takeClear_follows (back : Returning) (s : State) : (s.takeClear back).Follows := by
  have returns (k : FaultKind) (b : Bool) {t : State} (h : t.Follows) : (t.returnsTo k b s).Follows := by
    unfold State.returnsTo
    split
    · exact runSettle_follows _
    · exact h
  exact returns _ _ (returns _ _ (runSettle_follows _))

/-- A request taken leaves the agreement (R177). -/
theorem takeRequest_follows (src code : Nat) (body : List Byte) {s : State} (back : Returning) (h : s.Follows) :
    (s.takeRequest src code body back).state.Follows := by
  unfold State.takeRequest
  split
  · exact loadHeader_follows src body h
  · exact (stepPartA_does src body s).only.follows h
  · exact stepPartB_follows src body h
  · exact startSlot_follows _ h
  · exact pause_follows h
  · exact continue_follows h
  · exact stop_follows h
  · exact skip_follows _ h
  · exact adjust_follows _ _ h
  · exact confirm_follows _ h
  · exact clearSlot_follows _ h
  · exact discardSlot_follows _ _ h
  · exact (setHardness_does _ s).only.follows h
  · exact startDescale_follows h
  · exact takeClear_follows back s
  · split <;> exact h
  · exact h

/-- The arrival of a request leaves the agreement (R175, R176). -/
theorem arrive_follows (src : Nat) (payload : List Byte) {s : State} (back : Returning) (h : s.Follows) :
    (s.arrive src payload back).Follows := by
  have left := (leaveQuiet_does s).only.follows h
  have judged (code : Nat) (body : List Byte) : (s.leaveQuiet.judge src code body back).state.Follows := by
    unfold State.judge
    split
    · split <;> exact left
    · exact takeRequest_follows src code body back left
  unfold State.arrive
  dsimp only
  split
  · exact left
  · split
    · exact left
    · exact (reply_does src _ _).only.follows (judged _ _)

/-- A received frame leaves the agreement (R192). -/
theorem receive_follows (f : RxFrame) {s : State} (back : Returning) (h : s.Follows) : (s.receive f back).Follows := by
  have ended := (frameEnds_does s).only.follows h
  have good : (s.receiveGood f back).Follows := by
    unfold State.receiveGood State.takeFrame State.hearAnnounce
    dsimp only
    split
    · exact runSettle_follows _
    · split
      · split
        · split
          · exact recordPeer_follows _ ended
          · exact ended
        · split
          · exact arrive_follows _ _ back ended
          · exact ended
      · exact ended
  unfold State.receive
  split
  · exact reported_follows good
  · exact h

end Sys2Proof.Machine
end

section
/-! PROOFS. Before start-up's last stage nothing has started (R117, R193, R201), and commands that come then start nothing. -/

namespace Sys2Proof.Machine

/-! ## A part that waits -/

/-- The climate regulator before service: no record, no vent, the flap not driven. -/
abbrev Climate.Waits (c : Climate) : Prop := c.mode = none ∧ c.venting = false ∧ c.flapDriven = .closed

/-- The steam generator before service: no request, nothing handed, no heating and no pump. -/
abbrev Steam.Waits (w : Steam) : Prop :=
  w.request = .none ∧ w.handed = none ∧ w.soakHeating = false ∧ w.stroke = .idle ∧ w.fillWait = none
    ∧ (w.boiler = .empty ∨ w.boiler = .standing ∨ w.boiler = .off)

/-- The fault set before service: no fault but those of samples is active. -/
abbrev FaultSet.Waits (f : FaultSet) : Prop :=
  f.mains = .clear ∧ f.drainTimeout = .clear ∧ f.link = .clear ∧ f.duplicateStation = .clear ∧ f.retainedRecord = .clear

/-- Start-up has not reached its last stage, and nothing has started (`State.BeforeService`, its fields by name). -/
structure State.Waiting (s : State) : Prop where
  stage : s.startup.stage ≠ .service
  share : s.share = .reset s.station
  store : s.store = .reset
  seq : s.seq = .reset
  bus : s.bus = .reset
  report : s.report = .reset
  scale : s.scale = .reset
  load : s.load = { LoadFrame.reset with doorTimer := s.load.doorTimer }
  climate : s.climate.Waits
  steam : s.steam.Waits
  writes : s.retained.writing = none ∧ s.retained.pendingWrite = none
  faults : s.faults.Waits

/-- The invariant of the statement, in a state before service. -/
theorem State.BeforeService.waiting {s : State} (h : s.BeforeService) (stage : s.startup.stage ≠ .service) : s.Waiting := by
  obtain ⟨share, store, seq, bus, report, scale, load, climate, steam, writes, faults⟩ := h stage
  exact ⟨stage, share, store, seq, bus, report, scale, load, climate, steam, writes, faults⟩

/-- The invariant of the statement, of a state that waits. -/
theorem State.Waiting.beforeService {s : State} (h : s.Waiting) : s.BeforeService := fun _ =>
  ⟨h.share, h.store, h.seq, h.bus, h.report, h.scale, h.load, h.climate, h.steam, h.writes, h.faults⟩

/-- In service the invariant says nothing. -/
theorem beforeService_of_inService {s : State} (h : s.inService = true) : s.BeforeService := fun stage =>
  absurd (by simpa [State.inService] using h) stage

/-- The fault kinds that samples decide (R165 to R167). -/
abbrev sampledKinds : List FaultKind :=
  [.cavitySensor, .humiditySensor, .boilerSensor, .coreProbeShort, .cavityOverheat, .boilerDry]

/-- What may change before service: inputs, readings, timers of the door and the water path's free fields. -/
abbrev waitingAspects : List Aspect :=
  [.doorTimer, .integrators, .ventTimer, .demands, .readings, .door, .doorPending, .coolingFan, .probes, .tank,
    .boilerReadings, .evaporation, .millilitres, .runs, .stored, .inputs, .freeIndex, .pending]
    ++ sampledKinds.map Aspect.fault

namespace State.Waiting

/-- A move of what may change before service. -/
theorem moves {as : List Aspect} {s t : State} (h : s.Waiting) (small : Only as s t)
    (free : ∀ a ∈ as, a ∈ waitingAspects := by decide) : t.Waiting := by
  have only : Only waitingAspects s t := small.mono free
  have flap := only .flap (by decide)
  have record := only .record (by decide)
  have boiler := only .boiler (by decide)
  have frame := only .frame (by decide)
  have withdrawn := only .withdrawn (by decide)
  have ceiling := only .ceiling (by decide)
  have gates := only .gates (by decide)
  have writes := only .writes (by decide)
  have fault (k : FaultKind) (fixed : Aspect.fault k ∉ waitingAspects) : t.faults.get k = s.faults.get k := only _ fixed
  simp only [Same, Prod.mk.injEq] at flap record boiler frame withdrawn ceiling gates writes
  obtain ⟨mains, drain, link, duplicate, retained⟩ := h.faults
  refine ⟨?stage, ?share, ?store, ?seq, ?bus, ?report, ?scale, ?load, ?climate, ?steam, ?writes, ?faults⟩
  case stage => rw [only.startup]; exact h.stage
  case share => rw [only.share, h.share, State.station, State.station, only.startup]
  case store => rw [only.store, h.store]
  case seq => rw [only.seq, h.seq]
  case bus => rw [only.bus, h.bus]
  case report => rw [only.report, h.report]
  case scale => rw [only.scale, h.scale]
  case load =>
    rw [h.load] at frame withdrawn ceiling gates
    clear h
    cases ht : t.load
    simp_all
  case climate => simpa only [Climate.Waits, record, flap] using h.climate
  case steam => simpa only [Steam.Waits, boiler] using h.steam
  case writes => simpa only [writes] using h.writes
  case faults =>
    exact ⟨(fault .mains (by decide)).trans mains, (fault .drainTimeout (by decide)).trans drain,
      (fault .link (by decide)).trans link, (fault .duplicateStation (by decide)).trans duplicate,
      (fault .retainedRecord (by decide)).trans retained⟩

variable {s : State} (h : s.Waiting)
include h

/-- A move of the steam generator that starts nothing. -/
theorem mapSteam {f : Steam → Steam} (waits : (f s.steam).Waits) : (s.mapSteam f).Waiting :=
  ⟨h.stage, h.share, h.store, h.seq, h.bus, h.report, h.scale, h.load, h.climate, waits, h.writes, h.faults⟩

/-- A move of the climate regulator that starts nothing. -/
theorem mapClimate {f : Climate → Climate} (waits : (f s.climate).Waits) : (s.mapClimate f).Waiting :=
  ⟨h.stage, h.share, h.store, h.seq, h.bus, h.report, h.scale, h.load, waits, h.steam, h.writes, h.faults⟩

/-- The door's timer set. -/
theorem setDoorTimer (timer : Option CycleTimer) : (s.mapLoad (fun l => { l with doorTimer := timer })).Waiting := by
  refine ⟨h.stage, h.share, h.store, h.seq, h.bus, h.report, h.scale, ?_, h.climate, h.steam, h.writes, h.faults⟩
  rw [State.mapLoad_load, h.load]

/-! ### What a waiting part is not -/

/-- Start-up has not reached its last stage. -/
theorem inService_eq : s.inService = false := by simp [State.inService, h.stage]

/-- No program is ACTIVE. -/
theorem activeRun_eq : s.activeRun = none := by simp [State.activeRun, h.seq, Sequencer.reset]

/-- No program is ACTIVE. -/
theorem hasActive_eq : s.hasActive = false := by rw [State.hasActive, h.activeRun_eq]; rfl

/-- There is no run state. -/
theorem runState_eq : s.runState = none := by simp [State.runState, h.hasActive_eq]

/-- There is no active step. -/
theorem activeStep_eq : s.activeStep = none := by rw [State.activeStep, h.activeRun_eq]

/-- MAINS is not active. -/
theorem mainsOut_eq : s.mainsOut = false := by
  simp [State.mainsOut, State.faultActive, FaultSet.get, h.faults.1, FaultRecord.clear]

/-- The boiler is in none of its working states. -/
theorem working_eq : s.steam.boiler.working = false := by
  obtain ⟨-, -, -, -, -, empty | standing | off⟩ := h.steam
  · rw [empty]; rfl
  · rw [standing]; rfl
  · rw [off]; rfl

/-- The boiler neither fills nor drains. -/
theorem boiler_still : s.steam.boiler ≠ .filling ∧ s.steam.boiler ≠ .draining := by
  obtain ⟨-, -, -, -, -, state⟩ := h.steam
  constructor <;> rintro b <;> simp [b] at state

/-- Nothing has become due (R91, R126, R153). -/
theorem settleDue_eq : s.settleDue = false := by
  have phase : s.phase = none := by rw [State.phase, h.activeRun_eq]; rfl
  simp [State.settleDue, State.valveDue, State.prepareDue, h.inService_eq, h.steam.2.1, phase]

/-! ### What has no effect on a waiting part -/

/-- Nothing is withdrawn from no frame (R49). -/
theorem withdraw_eq (which : Load → Bool) : s.withdraw which = s := by
  have stopped : s.load.running = false := by rw [h.load]; rfl
  simp [State.withdraw, State.mapLoad, LoadFrame.withdraw, stopped]

/-- The ceiling is 0 already (R38). -/
theorem updateCeiling_eq : s.updateCeiling = s := by
  have now : s.ceilingNow = 0 := by rw [State.ceilingNow, h.activeStep_eq]
  rw [State.updateCeiling, now, if_pos (by rw [h.load]; rfl)]

/-- The interruption timer is idle already (R134). -/
theorem keepInterruption_eq : s.keepInterruption = s := by
  simp only [State.keepInterruption, h.runState_eq, State.mapSeq, h.seq]
  cases s
  simp_all [Sequencer.reset]
  exact h.seq.symm

/-- There is nothing to settle. -/
theorem runSettle_eq : s.runSettle = s := by
  have turns : s.settleTurns settleBound = s := by
    rw [settleBound, State.settleTurns, h.settleDue_eq]
    rfl
  rw [State.runSettle, turns, h.updateCeiling_eq, h.keepInterruption_eq]

/-- Settling leaves the part waiting. -/
theorem settled : s.runSettle.Waiting := by rw [h.runSettle_eq]; exact h

/-- No report is handed before service (R181, R183). -/
theorem reported_eq (before : State) : before.reported s = s := by
  simp [State.reported, State.handReportIf, handReport_before h.inService_eq]

/-- The share engine does not act at once (R24). -/
theorem mainsApply_eq : s.mainsApply = s := mainsApply_off h.mainsOut_eq

/-- QUIET is not left: the state is LISTEN (R22). -/
theorem leaveQuiet_eq : s.leaveQuiet = s := by simp [State.leaveQuiet, h.share, Share.reset]

/-- No soak heating ends (R95). -/
theorem endSoak_eq : s.endSoak = s := by simp [State.endSoak, h.steam.2.2.1]

/-- No fill is stopped (R87). -/
theorem stopFill_eq : s.stopFill = s := by simp [State.stopFill, h.boiler_still.1]

/-- No request is served (R95). -/
theorem serve_eq : s.serve = s := serve_noRequest s h.steam.1

/-- A fault bars a boiler that does nothing (R96). -/
theorem barBoiler_eq {k : FaultKind} (m : k ≠ .mains) : s.barBoiler k = s := by
  have heating : s.barHeating = s := by simp [State.barHeating, h.endSoak_eq, h.working_eq]
  cases k
  case mains => exact absurd rfl m
  case cavityOverheat => exact heating
  case boilerSensor | boilerDry => simp only [State.barBoiler, State.barFilling, heating, h.stopFill_eq]
  all_goals rfl

/-- No program is aborted (R171). -/
theorem programFault_eq (k : FaultKind) : s.programFault k = s := by
  simp [State.programFault, State.activeProgram, h.activeRun_eq]

/-- A record that becomes active has no further effect (R171). -/
theorem faultBegins_eq {k : FaultKind} (m : k ≠ .mains) : s.faultBegins k = s := by
  rw [State.faultBegins, h.withdraw_eq, h.barBoiler_eq m, h.programFault_eq, h.updateCeiling_eq, h.mainsApply_eq]

/-- A sampled record passed through a transition leaves the part waiting. -/
theorem setFault {k : FaultKind} (sampled : k ∈ sampledKinds) (f : FaultRecord → FaultRecord) : (s.setFault k f).Waiting := by
  refine h.moves (as := [.fault k]) (fun a out => ?_) (by revert k; decide)
  cases a
  case fault j => exact get_set_ne _ _ (fun same => out (by simp [same]))
  case runs => cases k <;> rfl
  all_goals rfl

/-- A condition of a sample that arises sets its record, and that is all (R164). -/
theorem raise_eq {k : FaultKind} (sampled : k ∈ sampledKinds) : s.raise k = s.setFault k FaultRecord.arise := by
  have begins := (h.setFault sampled FaultRecord.arise).faultBegins_eq (k := k) (by rintro rfl; simp at sampled)
  rw [State.raise, begins, ite_self]

/-- A condition of a sample that goes clears its record, and that is all (R164). -/
theorem condGone_eq {k : FaultKind} (sampled : k ∈ sampledKinds) : s.condGone k = s.setFault k (FaultRecord.goes k) := by
  have waits := h.setFault sampled (FaultRecord.goes k)
  have ends : (s.setFault k (FaultRecord.goes k)).faultEnds k = s.setFault k (FaultRecord.goes k) := by
    cases k
    case cavityOverheat | boilerSensor | boilerDry => exact waits.serve_eq
    case drainTimeout | mains | link => simp at sampled
    all_goals rfl
  simp only [State.condGone, State.release, ends, ite_self]

/-! ### Samples -/

/-- The condition of a sample leaves the part waiting (R166, R167). -/
theorem condition {k : FaultKind} (sampled : k ∈ sampledKinds) (c : Option Bool) : (s.condition k c).Waiting := by
  unfold State.condition
  split
  · rw [h.raise_eq sampled]; exact h.setFault sampled _
  · rw [h.condGone_eq sampled]; exact h.setFault sampled _
  · exact h

/-- A sensor's sample leaves the part waiting (R165). -/
theorem sensorSample (k : SensorKind) (smp : Sample) : (s.sensorSample k smp).Waiting := by
  have counted := h.moves (setRun_does k (sensorValid k smp) s).only
  have sampled : sensorFault k ∈ sampledKinds := by cases k <;> decide
  unfold State.sensorSample
  dsimp only
  split
  · rw [counted.raise_eq sampled]; exact counted.setFault sampled _
  · split
    · rw [counted.condGone_eq sampled]; exact counted.setFault sampled _
    · exact counted

/-- A sample leaves the part waiting (R56, R82). -/
theorem sampleAll (smp : Sample) : (s.sampleAll smp).Waiting := by
  have read := ((h.moves (setInputs_does smp s).only).moves (climateSample_does smp _).only).moves
    (boilerSample_does smp.boiler _).only
  have sensed := ((read.sensorSample .cavity smp).sensorSample .humidity smp).sensorSample .boiler smp
  refine moves ?_ (coolAtSample_does _).only
  exact condition (condition (condition sensed (by decide) _) (by decide) _) (by decide) _

/-- A sample of the internal timer leaves the part waiting: there is no step to test (R127, R129). -/
theorem timerSample (smp : Sample) : (s.timerSample smp).Waiting := by
  have sampled := h.sampleAll smp
  have tests : (s.sampleAll smp).sampleTests false = s.sampleAll smp := by
    simp [State.sampleTests, State.phase, sampled.activeRun_eq]
  rw [State.timerSample, tests, sampled.runSettle_eq]
  exact sampled

/-- No crossing is a boundary (R34). -/
theorem crossingRuns_eq : s.crossingRuns = false := by simp [State.crossingRuns, h.inService_eq]

/-- No crossing is a boundary (R34). -/
theorem boundaryDue_eq : s.boundaryDue = false := by simp [State.boundaryDue, h.crossingRuns_eq]

/-- The next sample leaves the part waiting. -/
theorem nextSample (smp : Sample) : (s.nextSample smp).Waiting := by
  unfold State.nextSample
  rw [h.boundaryDue_eq]
  split
  · exact h.timerSample smp
  · exact h

/-! ### Door, probes and tank -/

/-- The door opens: no load to withdraw, no program to hold, no slot to empty (R68). -/
theorem doorOpens : s.doorOpens.Waiting := by
  have follows {x : State} (w : x.Waiting) :
      ((x.withdrawAll.doorNotice.mapStore (fun st => (st.doorClear .s0).doorClear .s1)).leaveQuiet).runSettle = x := by
    have dry : x.stepHumid = false := by rw [State.stepHumid, w.activeStep_eq]
    have slots : x.mapStore (fun st => (st.doorClear .s0).doorClear .s1) = x := by
      simp only [State.mapStore, w.store]
      exact congrArg (fun v => { x with store := v }) w.store.symm
    rw [State.withdrawAll, w.withdraw_eq, State.doorNotice, dry, if_neg Bool.false_ne_true, slots, w.leaveQuiet_eq,
      w.runSettle_eq]
  have opened := (h.mapClimate (f := fun c => { c with door := some .opened, doorPending := false }) h.climate).setDoorTimer
    (some .zero)
  rw [State.doorOpens, follows opened]
  exact opened

/-- The door closes: the flap is not driven yet (R69, R71). -/
theorem doorCloses : s.doorCloses.Waiting := by
  have closed := ((h.mapClimate (f := fun c => { c with door := some .closed, doorPending := false }) h.climate).setDoorTimer
    none)
  have commanded := closed.mapClimate (f := fun c => { c with flapCommand := c.flapFor }) closed.climate
  have undriven {x : State} (w : x.Waiting) : x.driveFlap = x := by
    simp [State.driveFlap, State.flapDriveOn, w.inService_eq]
  rw [State.doorCloses, State.commandFlap, undriven commanded, commanded.leaveQuiet_eq, commanded.runSettle_eq]
  exact commanded

/-- LOW dry finds no boiler that works, drains or heats a soak (R87, R92). -/
theorem lowGoesDry : s.lowGoesDry.Waiting := by
  have dried := h.mapSteam (f := fun w => { w with low := some .dry }) h.steam
  obtain ⟨request, -, -, -, -, state⟩ := h.steam
  simp only [State.lowGoesDry, State.withdrawBoiler, dried.withdraw_eq]
  obtain empty | standing | off := state
  · rw [empty]; exact dried
  · rw [standing]; exact dried
  · simp only [off, State.mapSteam_steam, request, dried.endSoak_eq]
    exact dried

/-- LOW wet finds an EMPTY boiler, for which a drain is owed and waits, or one that it leaves (R87). -/
theorem lowWetEvent : s.lowWetEvent.Waiting := by
  have wet := h.mapSteam (f := fun w => { w with low := some .wet }) h.steam
  have timely : s.lowWetTimesOut = false := by simp [State.lowWetTimesOut, h.boiler_still.2]
  obtain ⟨request, handed, soak, stroke, wait, state⟩ := h.steam
  simp only [State.lowWetEvent, timely, State.lowGoesWet]
  obtain empty | standing | off := state
  · have filled := wet.mapSteam (f := fun w => { w with boiler := .off, owed := some .waterFound })
      ⟨request, handed, soak, stroke, wait, .inr (.inr rfl)⟩
    have drains := filled.mapSteam (f := fun w => { w with drainStarted := true, drainServes := false, coolWait := some .zero })
      filled.steam
    simp only [empty, request]
    refine Eq.mp (congrArg State.Waiting ?_) drains
    simp [State.oweDrain, State.beginDrain, State.setBoiler, State.endSoak, State.mapSteam, soak, empty, BoilerState.working]
  · rw [standing]; exact wet
  · rw [off]; exact wet

/-- HIGH wet finds no fill to end (R88). -/
theorem highGoesWet : s.highGoesWet.Waiting := by
  have wet := h.mapSteam (f := fun w => { w with high := some .wet }) h.steam
  rw [State.highGoesWet, if_neg h.boiler_still.1]
  exact wet

/-- The tank's events find no fill (R89, R90). -/
theorem tankGone : (s.mapSteam Steam.tankGone).Waiting := by
  refine h.mapSteam ?_
  rw [Steam.tankGone, if_neg h.boiler_still.1]
  exact h.steam

/-- The tank's arrival finds no fill that waits (R90). -/
theorem tankHere (level : TankLevel) : (s.mapSteam (Steam.tankHere level)).Waiting := by
  refine h.mapSteam ?_
  unfold Steam.tankHere
  dsimp only
  rw [if_neg (fun c => h.boiler_still.1 c.1)]
  exact h.steam

/-- A level change finds no fill (R89, R90). -/
theorem levelChanges (level : TankLevel) : (s.mapSteam (Steam.levelChanges level)).Waiting := by
  refine h.mapSteam ?_
  unfold Steam.levelChanges
  dsimp only
  rw [if_neg h.boiler_still.1]
  exact h.steam

/-! ### Start-up's own events -/

/-- An input established starts nothing: a LOW probe WET finds the boiler STANDING (R98). -/
theorem establish (i : EstablishedInput) : (s.establish i).Waiting := by
  obtain ⟨request, handed, soak, stroke, wait, state⟩ := h.steam
  cases i
  case door d =>
    simp only [State.establish, State.establishDoor]
    split
    · exact h.mapClimate h.climate
    · exact h
  case lowProbe p =>
    refine h.mapSteam ?_
    unfold Steam.establishLow
    split
    · cases p
      · exact ⟨request, handed, soak, stroke, wait, .inr (.inl rfl)⟩
      · exact ⟨request, handed, soak, stroke, wait, .inl rfl⟩
    · exact h.steam
  case highProbe p =>
    refine h.mapSteam ?_
    unfold Steam.establishHigh
    split <;> exact h.steam
  case tank k =>
    refine h.mapSteam ?_
    unfold Steam.establishTank
    split <;> exact h.steam

/-- The agreement with the program: there is none, the ceiling is 0 and the timer idle (R38, R134). -/
theorem follows : s.Follows := by
  refine ⟨?_, ?_⟩
  · rw [h.load, State.ceilingNow, h.activeStep_eq]; rfl
  · simp [h.runState_eq, h.seq, Sequencer.reset]

end State.Waiting

/-! ## Every command -/

/-- A command keeps the part's situation: a part that waits waits on, or enters service, and a program stays followed. -/
def KeepsSituation (s : State) (o : StepOutcome) : Prop :=
  ∀ t, o = .next t → t.BeforeService ∧ (s.Follows → t.Follows)

/-- A next state that waits. -/
theorem State.Waiting.keeps {s t : State} (h : t.Waiting) : KeepsSituation s (.next t) := by
  rintro _ ⟨⟩
  exact ⟨h.beforeService, fun _ => h.follows⟩

/-- A next state that waits, with its reports, of which there are none. -/
theorem State.Waiting.keeps_report {s t : State} (h : t.Waiting) : KeepsSituation s (s.report_ t) := by
  rw [State.report_, h.reported_eq]
  exact h.keeps

/-- A choice of two next states that wait. -/
theorem State.Waiting.ite {c : Prop} [Decidable c] {t u : State} (h : t.Waiting) (k : u.Waiting) :
    (if c then t else u).Waiting := by
  split
  · exact h
  · exact k

/-- A crossing in the mains window is counted there (R198), and in CONFIG_FAULT nowhere (R197). -/
theorem State.Waiting.crossing {s : State} (h : s.Waiting) : s.crossing.Waiting := by
  unfold State.crossing
  split
  · exact h
  · exact ⟨by simpa using h.stage, h.share, h.store, h.seq, h.bus, h.report, h.scale, h.load, h.climate, h.steam, h.writes,
      h.faults⟩
  · rename_i service
    exact absurd service h.stage

/-- The event of a crossing under a condition, before service. -/
theorem State.Waiting.crossingWhen {s : State} (h : s.Waiting) (due : Bool) : (s.crossingWhen due).Waiting := by
  unfold State.crossingWhen
  exact .ite h.crossing h

/-- A reset waits, whatever stage it begins (R197, R201). -/
theorem afterReset_waiting (station limitClass variant : Nat) (stored : StoredRecord) (q : List Instr) (i : Sample) (n : Nat) :
    (State.afterReset station limitClass variant stored q i n).Waiting := by
  refine ⟨?_, rfl, rfl, rfl, rfl, rfl, rfl, rfl, ⟨rfl, rfl, rfl⟩, ⟨rfl, rfl, rfl, rfl, rfl, .inl rfl⟩, ⟨rfl, rfl⟩,
    ⟨rfl, rfl, rfl, rfl, rfl⟩⟩
  simp only [State.afterReset, Startup.sampled]
  split <;> simp

/-- Start-up enters service in its last stage (R201). -/
theorem enterService_inService (s : State) : s.enterService.inService = true := by
  have moved (x : State) : x.startStandingDrain.runSettle.startup = x.startup :=
    ((runSettle_does _).only.startup).trans (startStandingDrain_does x).only.startup
  have driven (x : State) : x.driveFlap.startup = x.startup := (driveFlap_does x).only.startup
  simp [State.inService, State.enterService, moved, driven]

/-- Before service a command leaves the part waiting, or enters service with everything settled. -/
theorem exec_keeps_waiting (c : Instr) {s : State} (h : s.Waiting) : KeepsSituation s (exec c s) := by
  have down := h.inService_eq
  have received (f : RxFrame) (back : Returning) : KeepsSituation s (.next (s.receive f back)) := by
    rw [State.receive, State.receives, down]
    exact h.keeps
  have ticked : s.tickEvent = s := by rw [State.tickEvent, down]; rfl
  have ticks {due : Prop} [Decidable due] : KeepsSituation s (.next (if due then s.tickEvent else s)) := by
    rw [ticked, ite_self]
    exact h.keeps
  have sampled {due : Prop} [Decidable due] (smp : Sample) :
      KeepsSituation s (s.report_ (if due then s.nextSample smp else s)) := (State.Waiting.ite (h.nextSample smp) h).keeps_report
  have silent {due : Prop} [Decidable due] {t : State} (no : ¬due) : KeepsSituation s (s.report_ (if due then t else s)) := by
    rw [if_neg no]
    exact h.keeps_report
  have quiet {due : Prop} [Decidable due] {t : State} (no : ¬due) : KeepsSituation s (.next (if due then t else s)) := by
    rw [if_neg no]
    exact h.keeps
  cases c
  case reset => exact (afterReset_waiting _ _ _ _ _ _ _).keeps
  case mainsMeasurementEnd gap =>
    rintro _ ⟨⟩
    split
    · have handed {x : State} : (s.reportMeasured x).startup = x.startup := (handReportIf_does _ _ x).only.startup
      have entered (x : State) : (s.reportMeasured x.enterService).inService = true := by
        rw [State.inService, handed]
        exact enterService_inService x
      exact ⟨beforeService_of_inService (entered _),
        fun _ => (handReportIf_does _ _ _).only.follows (runSettle_follows _)⟩
    · exact h.keeps _ rfl
  case inputStateEstablished i =>
    exact (State.Waiting.ite ((h.moves (pinEstablished_does i s).only).establish i) h).keeps
  case announceTick =>
    show KeepsSituation s (.next s.tickEvent)
    rw [ticked]
    exact h.keeps
  case peerEntryRemoved | tableFullCleared | listenEnd | quietEntry => exact ticks
  case zeroCrossing => exact h.crossing.keeps_report
  case second | stepCountEnd | promptTimeout | interruptionTimeout | soakComplete | doorOpenMinute | ventComplete
      | strokeEnd | coolWaitExpired | drainComplete | drainTimeout => exact (h.crossingWhen _).keeps_report
  case frameBoundary => exact silent (by simp [h.boundaryDue_eq])
  case sampleTick smp =>
    exact (State.Waiting.ite (h.timerSample smp) (.ite h (h.moves (setInputs_does smp s).only))).keeps_report
  case sensorFaultRaised k smp => exact sampled smp
  case sensorFaultEnded k smp => exact sampled smp
  case drainValveOpens smp => exact sampled smp
  case mainsLoss | mainsRestored => exact silent (by simp [down])
  case doorOpen =>
    exact (State.Waiting.ite (h.moves (as := [.inputs]) (setInputs_does _ s).only).doorOpens h).keeps_report
  case doorClose =>
    exact (State.Waiting.ite (h.moves (as := [.inputs]) (setInputs_does _ s).only).doorCloses h).keeps_report
  case lowDry => exact (State.Waiting.ite h.lowGoesDry.settled h).keeps_report
  case lowWet => exact (State.Waiting.ite h.lowWetEvent.settled h).keeps_report
  case highWet => exact (State.Waiting.ite h.highGoesWet.settled h).keeps_report
  case highDry => exact (State.Waiting.ite (h.mapSteam h.steam) h).keeps
  case tankArrives level => exact (State.Waiting.ite (h.tankHere level).settled h).keeps_report
  case tankRemoved => exact (State.Waiting.ite h.tankGone.settled h).keeps_report
  case tankLevelChange level =>
    exact (State.Waiting.ite (h.levelChanges level).settled h).keeps_report
  case rotationReport =>
    show KeepsSituation s (.next s.rotate)
    rw [State.rotate, if_pos (.inl (by rw [h.report]; rfl))]
    exact h.keeps
  case quietGap => exact quiet (by simp [State.gapCompletes, down])
  case frameSent | frameBroken => exact silent (by simp [State.sends, down])
  case frameLost => exact quiet (by simp [State.sends, down])
  case badFrame | frameAbandoned => exact quiet (by simp [State.receives, down])
  case retainedWriteComplete good =>
    have none : s.writeEnds good = s := by
      simp [State.writeEnds, State.mapRetained, Retained.complete, h.writes.1]
    show KeepsSituation s (s.report_ (s.writeEnds good))
    rw [none]
    exact h.keeps_report
  all_goals exact received _ _

/-- In service a command stays in service, and keeps a program followed; RESET alone leaves service. -/
theorem exec_keeps_inService (c : Instr) {s : State} (service : s.inService = true) : KeepsSituation s (exec c s) := by
  have next {t : State} (startup : t.startup = s.startup) (follows : s.Follows → t.Follows) : KeepsSituation s (.next t) := by
    rintro _ ⟨⟩
    exact ⟨beforeService_of_inService (by rw [State.inService, startup]; exact service), follows⟩
  have reports {t : State} (startup : t.startup = s.startup) (follows : s.Follows → t.Follows) :
      KeepsSituation s (s.report_ t) :=
    next ((reported_does s t).only.startup.trans startup) (fun h => reported_follows (follows h))
  have answers {as : List Aspect} {bs : List Inv} {o : StepOutcome} (h : Answers as bs s o)
      (out : ∀ a ∈ Aspect.ceiling :: .program :: situationAspects, a ∉ as := by decide)
      (slots : .slots ∉ as := by decide) : KeepsSituation s o := by
    obtain ⟨t, rfl, does⟩ := h
    exact next (does.only.startup (out _ (by decide))) (fun h => does.only.follows h out slots)
  have received (f : RxFrame) (back : Returning) : KeepsSituation s (.next (s.receive f back)) :=
    next (receive_does f s).only.startup (receive_follows f back)
  have ticked : KeepsSituation s (.next s.tickEvent) := next (tickEvent_does s).only.startup tickEvent_follows
  have still : KeepsSituation s (.next s) := next rfl id
  have unreported : KeepsSituation s (s.report_ s) := reports rfl id
  have ticks {due : Prop} [Decidable due] : KeepsSituation s (.next (if due then s.tickEvent else s)) := by
    split
    · exact ticked
    · exact still
  have crossing : KeepsSituation s (s.report_ s.crossing) := by
    refine reports ?_ (crossing_follows service)
    have stage : s.startup.stage = .service := by simpa [State.inService] using service
    simp only [State.crossing, stage]
    split
    · exact (boundaryCrossing_does _ _ s).only.startup
    · rename_i within
      split
      · rename_i runs
        have inFrame : s.load.running = true ∧ s.load.cycle < 19 := by simpa [State.boundaryDue, runs] using within
        exact (cycleCrossing_does inFrame.1 inFrame.2).only.startup
      · rfl
  have crosses (due : Bool) : KeepsSituation s (s.report_ (s.crossingWhen due)) := by
    unfold State.crossingWhen
    split
    · exact crossing
    · exact unreported
  have sampled {due : Prop} [Decidable due] (smp : Sample) :
      KeepsSituation s (s.report_ (if due then s.nextSample smp else s)) := by
    split
    · exact reports (nextSample_does smp s).only.startup (nextSample_follows smp)
    · exact unreported
  have settles {due : Prop} [Decidable due] {as : List Aspect} {bs : List Inv} {t : State} (does : Does as bs s t)
      (out : .startup ∉ as := by decide) : KeepsSituation s (s.report_ (if due then t.runSettle else s)) := by
    split
    · exact reports ((runSettle_does t).only.startup.trans (does.only.startup out)) (fun _ => runSettle_follows t)
    · exact unreported
  cases c
  case reset => exact (afterReset_waiting _ _ _ _ _ _ _).keeps
  case mainsMeasurementEnd | inputStateEstablished =>
    have past : s.startup.stage ≠ .measuring := by
      have stage : s.startup.stage = .service := by simpa [State.inService] using service
      simp [stage]
    refine Eq.mp (congrArg _ (congrArg Host.Outcome.next (if_neg past).symm)) still
  case announceTick => exact ticked
  case peerEntryRemoved | tableFullCleared | listenEnd | quietEntry => exact ticks
  case zeroCrossing => exact crossing
  case second | stepCountEnd | promptTimeout | interruptionTimeout | soakComplete | doorOpenMinute | ventComplete
      | strokeEnd | coolWaitExpired | drainComplete | drainTimeout => exact crosses _
  case frameBoundary smp ms =>
    show KeepsSituation s (s.report_ (if s.boundaryDue then s.boundaryCrossing smp ms else s))
    split
    · exact reports (boundaryCrossing_does smp ms s).only.startup (fun _ => boundaryCrossing_follows smp ms s)
    · exact unreported
  case sampleTick smp =>
    show KeepsSituation s (s.report_ (if s.timerSamples then s.timerSample smp else
      if s.startup.stage = .configFault then s else s.setInputs smp))
    split
    · exact reports (timerSample_does smp s).only.startup (fun _ => runSettle_follows _)
    · split
      · exact unreported
      · exact reports rfl (setInputs_does smp s).only.follows
  case sensorFaultRaised k smp => exact sampled smp
  case sensorFaultEnded k smp => exact sampled smp
  case drainValveOpens smp => exact sampled smp
  case mainsLoss => exact settles (raiseMains_does s)
  case mainsRestored ms =>
    show KeepsSituation s (s.report_ (if _ then (s.mainsReturns ms).runSettle else s))
    split
    · have stays : ((s.mainsReturns ms).runSettle).inService = true := by
        have fixed : (s.mainsReturns ms).startup = s.startup.fixFreq (freqOfSpan ms) :=
          (mainsGone_does (s.mapStartup (Startup.fixFreq (freqOfSpan ms)))).only.startup
        rw [State.inService, (runSettle_does _).only.startup, fixed]
        exact service
      rintro _ ⟨⟩
      refine ⟨beforeService_of_inService ?_, fun _ => reported_follows (runSettle_follows _)⟩
      rw [State.inService, (reported_does _ _).only.startup]
      exact stays
    · exact unreported
  case doorOpen =>
    show KeepsSituation s (s.report_ (if _ then (s.doorPin .opened).doorOpens else s))
    split
    · exact reports (doorOpens_does _).only.startup (fun _ => runSettle_follows _)
    · exact unreported
  case doorClose =>
    show KeepsSituation s (s.report_ (if _ then (s.doorPin .closed).doorCloses else s))
    split
    · exact reports (doorCloses_does _).only.startup (fun _ => runSettle_follows _)
    · exact unreported
  case lowDry => exact settles (lowGoesDry_does s)
  case lowWet => exact settles (lowWetEvent_does s)
  case highWet => exact settles (highGoesWet_does s)
  case highDry => exact answers (highDry_answers s)
  case tankArrives level => exact settles (tankHere_does level s)
  case tankRemoved => exact settles (tankGone_does s)
  case tankLevelChange level => exact settles (levelChanges_does level s)
  case rotationReport => exact answers (rotationReport_answers s)
  case quietGap => exact answers (quietGap_answers s)
  case frameSent => exact answers (frameSent_answers s)
  case frameLost => exact answers (frameLost_answers s)
  case badFrame => exact answers (badFrame_answers s)
  case frameAbandoned => exact answers (frameAbandoned_answers s)
  case frameBroken =>
    show KeepsSituation s (s.report_ (if s.sends then State.linkCheck (s.mapBus _) else s))
    split
    · unfold State.linkCheck
      split
      · exact reports (raise_does (k := .link) (by decide) _).only.startup (fun h => raiseLink_follows (s := s.mapBus _) h)
      · exact reports rfl id
    · exact unreported
  case retainedWriteComplete good =>
    obtain ⟨t, answer, does⟩ := retainedWriteComplete_answers good s
    rintro _ ⟨⟩
    injection answer with same
    rw [same]
    exact ⟨beforeService_of_inService (by rw [State.inService, does.only.startup]; exact service),
      fun h => same ▸ reported_follows (writeEnds_follows good h)⟩
  all_goals exact received _ _

/-- The invariant of the statement, kept by a command whatever stage start-up is in. -/
theorem exec_keeps_situation (c : Instr) {s : State} (h : s.BeforeService) : KeepsSituation s (exec c s) := by
  by_cases stage : s.startup.stage = .service
  · exact exec_keeps_inService c (by simpa [State.inService] using stage)
  · exact exec_keeps_waiting c (h.waiting stage)

/-- Settles O7: before service commands start nothing, and in service each one that touches the program's situation settles it. -/
theorem ceilingFollowsTheProgram : Obligations.CeilingFollowsTheProgram := by
  intro s t h stepped
  obtain rfl | ⟨c, q, -, run⟩ := step_cases stepped
  · exact ⟨h, id⟩
  · exact exec_keeps_situation c (s := s.setPending q) h t run

/-- Settles O3: a reset is legal block by block, waits for start-up, and so follows the program that there is none of. -/
theorem resetIsLegal : Obligations.ResetIsLegal := by
  refine ⟨⟨afterReset_legal _ _ _ _ _ _ _, (afterReset_waiting _ _ _ _ _ _ _).follows,
    (afterReset_waiting _ _ _ _ _ _ _).beforeService⟩, fun station limitClass variant cut s => ⟨_, rfl, ?_⟩⟩
  exact ⟨afterReset_legal _ _ _ _ _ _ _, (afterReset_waiting _ _ _ _ _ _ _).follows,
    (afterReset_waiting _ _ _ _ _ _ _).beforeService⟩

/-- Settles O8: the blocks' reset values, and what an interrupted write leaves, case by case of the write and of the operand. -/
theorem resetState : Obligations.ResetState := by
  intro station limitClass variant cut s
  have stored : s.retained.afterReset cut
      = (match s.retained.writing, cut with
        | none, _ => s.retained.stored
        | some c, .torn => .written c (~~~ c.check)
        | some _, .previous => s.retained.stored
        | some c, .completed => .written c c.check) := by
    unfold Retained.afterReset
    cases s.retained.writing <;> cases cut <;> rfl
  show Host.Outcome.next (State.afterReset _ _ _ (s.retained.afterReset cut) _ _ _) = _
  rw [stored]
  rfl

end Sys2Proof.Machine
end

section
/-! PROOFS. Crossings and frames (spec/02, spec/95): the events of the part's own counters, the crossing within a frame, the frame
boundary, and the end of a frame. -/

namespace Sys2Proof.Machine

/-! ## The events of the part's own counters (log 2) -/

/-- A row of the part's own counters is the crossing at which it comes about, and nothing elsewhere. -/
theorem crossingRow (s : State) {due : Bool} {c : Prop} (comes : due = true ↔ c) :
    (c → s.report_ (s.crossingWhen due) = exec .zeroCrossing s) ∧ (¬c → s.report_ (s.crossingWhen due) = .next s) := by
  refine ⟨fun h => ?_, fun h => ?_⟩
  · rw [State.crossingWhen, if_pos (comes.mpr h)]
    rfl
  · rw [State.crossingWhen, if_neg (mt comes.mp h), report_same]

/-- The next crossing is a second (R120). -/
theorem secondDue_iff (s : State) : s.secondDue = true ↔ s.crossingRuns = true ∧ s.perSecond ≤ s.seq.clock + 1 := by
  simp [State.secondDue]

/-- A timer reaches n seconds at the next crossing (R73). -/
theorem timerReaches_iff (n : Nat) (t : Option CycleTimer) (s : State) : s.timerReaches n t = true ↔ s.Reaches n t := by
  cases t <;> simp [State.timerReaches, State.Reaches, CycleTimer.reachesNext]

/-- The pump stroke ends at the next crossing (R88). -/
theorem strokeEndDue_iff (s : State) :
    s.strokeEndDue = true ↔
      s.crossingRuns = true ∧ s.steam.boiler = .filling ∧ s.suspended = false ∧ s.steam.stroke = .running 24 := by
  simp [State.strokeEndDue, and_assoc]

/-- The next crossing's second ends a COUNT (R128, R155). -/
theorem countEndDue_iff (s : State) :
    s.countEndDue = true ↔
      (s.crossingRuns = true ∧ s.perSecond ≤ s.seq.clock + 1) ∧ s.counts = true ∧ s.countSecond.durationReached = true := by
  simp [State.countEndDue, secondDue_iff, and_assoc]

/-- Settles O23: each row's condition, as the row states it. -/
theorem counterEventsAreCrossings : Obligations.CounterEventsAreCrossings := by
  intro s second
  have withSecond {b : Bool} {c : Prop} (h : b = true ↔ c) : (s.secondDue && b) = true ↔ second ∧ c := by
    rw [Bool.and_eq_true, secondDue_iff, h]
  obtain ⟨secondYes, secondNo⟩ := crossingRow s (secondDue_iff s)
  obtain ⟨promptYes, promptNo⟩ := crossingRow s (withSecond (decide_eq_true_iff (p := s.seq.promptTimer = some 3599)))
  obtain ⟨interruptYes, interruptNo⟩ :=
    crossingRow s (withSecond (decide_eq_true_iff (p := s.seq.interruption = some 1799)))
  have timer (n : Nat) (t : Option CycleTimer) := crossingRow s (timerReaches_iff n t s)
  have valved (n : Nat) (t : Option CycleTimer) :
      (s.valveOpen && s.timerReaches n t) = true ↔ s.valveOpen = true ∧ s.Reaches n t := by
    rw [Bool.and_eq_true, timerReaches_iff]
  obtain ⟨strokeYes, strokeNo⟩ := crossingRow s (strokeEndDue_iff s)
  obtain ⟨coolYes, coolNo⟩ := crossingRow s (due := s.timerReaches 600 s.steam.coolWait && s.boilerInUse.isNone)
    (c := s.Reaches 600 s.steam.coolWait ∧ s.boilerInUse = none)
    (by rw [Bool.and_eq_true, timerReaches_iff, Option.isNone_iff_eq_none])
  obtain ⟨drainYes, drainNo⟩ := crossingRow s (valved 20 s.steam.runOn)
  obtain ⟨timeoutYes, timeoutNo⟩ := crossingRow s
    (due := s.valveOpen && s.steam.runOn.isNone && s.timerReaches 90 s.steam.drainTimer)
    (c := s.valveOpen = true ∧ s.steam.runOn = none ∧ s.Reaches 90 s.steam.drainTimer)
    (by rw [Bool.and_eq_true, Bool.and_eq_true, timerReaches_iff, Option.isNone_iff_eq_none, and_assoc])
  obtain ⟨stepYes, stepNo⟩ := crossingRow s (due := s.countEndDue && !s.serviceActive)
    (c := s.countEndDue = true ∧ s.serviceActive = false) (by rw [Bool.and_eq_true, Bool.not_eq_true'])
  obtain ⟨soakYes, soakNo⟩ := crossingRow s (due := s.countEndDue && s.serviceActive)
    (c := s.countEndDue = true ∧ s.serviceActive = true) (by rw [Bool.and_eq_true])
  refine ⟨secondYes, secondNo, fun a b => promptYes ⟨a, b⟩, promptNo, fun a b => interruptYes ⟨a, b⟩, interruptNo,
    fun due counts reached => ?ends, fun no => ?ongoing, (timer 60 _).1, (timer 60 _).2, (timer 20 _).1, (timer 20 _).2,
    strokeYes, strokeNo, coolYes, coolNo, drainYes, drainNo, timeoutYes, timeoutNo⟩
  case ends =>
    have ended := (countEndDue_iff s).mpr ⟨due, counts, reached⟩
    cases kind : s.serviceActive
    · exact ⟨stepYes ⟨ended, kind⟩, soakNo (by simp [kind])⟩
    · exact ⟨soakYes ⟨ended, kind⟩, stepNo (by simp [kind])⟩
  case ongoing =>
    have open_ := mt (countEndDue_iff s).mp no
    exact ⟨stepNo (fun h => open_ h.1), soakNo (fun h => open_ h.1)⟩

/-! ## Events that call for no report -/

/-- A change that none of the three views shows calls for no report (R183). -/
theorem reported_of_views {s t : State} (program : t.programView = s.programView) (water : t.waterView = s.waterView)
    (fault : t.faultView = s.faultView) : s.reported t = t := by
  simp [State.reported, State.handReportIf, program, water, fault]

/-- No report is handed before start-up's last stage (R181). -/
theorem reported_of_before {s t : State} (before : t.inService = false) : s.reported t = t := by
  simp [State.reported, State.handReportIf, handReport_before before]

/-! ## The crossing within a frame -/

/-- A crossing of a frame in progress, not its last (R34). -/
theorem inFrame_boundaryDue {s : State} (h : s.InFrame) : s.boundaryDue = false := by
  obtain ⟨runs, running, more⟩ := h
  simp [State.boundaryDue, runs, running, more]

/-- A counted crossing within a frame: gates, counts, timers, and the pump (R48). -/
theorem crossed_inFrame {s : State} (h : s.InFrame) :
    s.crossed = ((s.advanceLfsr.mapLoad (fun l => { l with cycle := l.cycle + 1 })).switchGates).countCrossing := by
  rw [State.crossed, inFrame_boundaryDue h, if_neg Bool.false_ne_true]

/-- A stroke event writes the scale account and its record alone (R154). -/
theorem strokeEvent_blocks (s : State) : ∃ a r, s.strokeEvent = { s with scale := a, retained := r } := by
  unfold State.strokeEvent
  split
  · exact ⟨_, _, rfl⟩
  · exact ⟨s.scale, s.retained, rfl⟩

/-- The pump's part of a crossing writes the steam generator, and of the account what a stroke event writes (R88, R154). -/
theorem strokeCrossing_blocks (s : State) :
    ∃ w a r, s.strokeCrossing = { s with steam := w, scale := a, retained := r } := by
  have begun : ∃ w a r, s.beginStroke = { s with steam := w, scale := a, retained := r } := by
    obtain ⟨a, r, event⟩ := strokeEvent_blocks (s.mapSteam (fun w => { w with strokes := w.strokes + 1, stroke := .running 0 }))
    exact ⟨_, a, r, event⟩
  unfold State.strokeCrossing
  split
  · split
    · exact ⟨_, _, _, rfl⟩
    · exact begun
    · split
      · exact ⟨_, _, _, rfl⟩
      · split
        · exact ⟨_, _, _, rfl⟩
        · exact begun
  · exact ⟨_, _, _, rfl⟩

/-- The pump's part of a crossing leaves the timers of the boiler (R88). -/
theorem strokeCrossing_timers (s : State) :
    s.strokeCrossing.steam.coolWait = s.steam.coolWait ∧ s.strokeCrossing.steam.drainTimer = s.steam.drainTimer
      ∧ s.strokeCrossing.steam.runOn = s.steam.runOn := by
  have begun : s.beginStroke.steam.coolWait = s.steam.coolWait ∧ s.beginStroke.steam.drainTimer = s.steam.drainTimer
      ∧ s.beginStroke.steam.runOn = s.steam.runOn := by
    simp [State.beginStroke]
  unfold State.strokeCrossing
  split
  · split
    · exact ⟨rfl, rfl, rfl⟩
    · exact begun
    · split
      · exact ⟨rfl, rfl, rfl⟩
      · split
        · exact ⟨rfl, rfl, rfl⟩
        · exact begun
  · exact ⟨rfl, rfl, rfl⟩

/-- The boiler's timers after a crossing (R91, R92). -/
theorem countCrossing_timers (s : State) :
    s.countCrossing.steam.coolWait = s.steam.coolWait.map (CycleTimer.tick s.perSecond 600)
      ∧ s.countCrossing.steam.drainTimer
          = (if s.valveOpen then s.steam.drainTimer.map (CycleTimer.tick s.perSecond 110) else s.steam.drainTimer)
      ∧ s.countCrossing.steam.runOn
          = (if s.valveOpen then s.steam.runOn.map (CycleTimer.tick s.perSecond 20) else s.steam.runOn) :=
  strokeCrossing_timers s.countCycle

/-- A count of 1 for a gate that is on, added. -/
theorem countIf_eq (b : Bool) (n : Nat) : countIf b n = n + (if b then 1 else 0) := by
  cases b <;> rfl

/-- The gate of a load, with membership in the plan and the probe spelled out (R48). -/
theorem gateOn_eq (s : State) (i : Load) :
    s.gateOn i = (decide (s.load.cycle ∈ s.load.plan.get i) && !s.load.withdrawn.get i
      && (decide (i ≠ .boiler) || decide (s.steam.low = some .wet))) := by
  rw [State.gateOn, State.lowWet, List.contains_eq_mem]

/-- A crossing within a frame moves its share engine, load frame, climate regulator and sequencer so (R31, R39, R48, R51, R73,
R120). -/
theorem crossed_blocks {s : State} (h : s.InFrame) :
    let k := s.load.cycle + 1
    let on (i : Load) : Bool :=
      decide (k ∈ s.load.plan.get i) && !s.load.withdrawn.get i && (decide (i ≠ .boiler) || decide (s.steam.low = some .wet))
    s.crossed.share = { s.share with lfsr := lfsrNext s.share.lfsr }
      ∧ s.crossed.load =
          { s.load with
            cycle := k
            gates := ⟨on .top, on .bottom, on .ring, on .boiler⟩
            conducted :=
              { top := s.load.conducted.top + (if on .top then 1 else 0)
                bottom := s.load.conducted.bottom + (if on .bottom then 1 else 0)
                ring := s.load.conducted.ring + (if on .ring then 1 else 0)
                boiler := s.load.conducted.boiler + (if on .boiler then 1 else 0) }
            steamingCount := s.load.steamingCount + (if on .boiler = true ∧ s.steam.boiler = .steaming then 1 else 0)
            doorTimer := s.load.doorTimer.map (CycleTimer.tick s.perSecond 60) }
      ∧ s.crossed.climate = { s.climate with ventTimer := s.climate.ventTimer.map (CycleTimer.tick s.perSecond 20) }
      ∧ s.crossed.seq = { s.seq with clock := if s.perSecond ≤ s.seq.clock + 1 then 0 else s.seq.clock + 1 } := by
  intro k on
  let switched := (s.advanceLfsr.mapLoad (fun l => { l with cycle := l.cycle + 1 })).switchGates
  obtain ⟨w, a, r, stroke⟩ := strokeCrossing_blocks switched.countCycle
  have crossed : s.crossed = { switched.countCycle with steam := w, scale := a, retained := r } := by
    rw [crossed_inFrame h]
    exact stroke
  have gate (i : Load) : (s.advanceLfsr.mapLoad (fun l => { l with cycle := l.cycle + 1 })).gateOn i = on i := gateOn_eq _ i
  rw [crossed]
  refine ⟨rfl, ?_, rfl, rfl⟩
  have load : switched.countCycle.load =
      { switched.load with doorTimer := switched.load.doorTimer.map (CycleTimer.tick s.perSecond 60) } := rfl
  rw [load]
  simp only [switched, State.switchGates, State.mapLoad_load, gate, PerLoad.make, countIf_eq, PerLoad.get, Bool.and_eq_true,
    decide_eq_true_eq]
  rfl

/-- Settles O24: by start-up's stage, and within a frame part by part of the crossing. -/
theorem zeroCrossing : Obligations.ZeroCrossing := by
  intro s
  refine ⟨fun fault => ?fault, fun window => ?window, fun service stopped => ?stopped, fun due => ?boundary,
    fun inFrame => ?within, fun perSecond cap t => rfl⟩
  case fault =>
    have same : s.crossing = s := by simp only [State.crossing, fault]
    show s.report_ s.crossing = _
    rw [same, report_same]
  case window =>
    have counted : s.crossing = s.mapStartup (fun u => { u with crossings := u.crossings + 1 }) := by
      simp only [State.crossing, window]
    show s.report_ s.crossing = _
    rw [counted, State.report_, reported_of_before (by simp [State.inService, window])]
    rfl
  case stopped =>
    have stage : s.startup.stage = .service := by simpa [State.inService] using service
    have advanced : s.crossing = s.advanceLfsr := by
      simp only [State.crossing, stage, State.boundaryDue, stopped, Bool.false_and]
      rfl
    show s.report_ s.crossing = _
    rw [advanced, State.report_, reported_of_views (s := s) (t := s.advanceLfsr) rfl rfl rfl]
    rfl
  case boundary =>
    have runs : s.crossingRuns = true := by
      simp only [State.boundaryDue, Bool.and_eq_true] at due
      exact due.1
    have stage : s.startup.stage = .service := by
      simp only [State.crossingRuns, State.inService, Bool.and_eq_true, decide_eq_true_eq] at runs
      exact runs.1.1
    have crossing : s.crossing = s.boundaryCrossing s.inputs 400 := by
      simp only [State.crossing, stage, due, if_true]
      rfl
    show s.report_ s.crossing = s.report_ (if s.boundaryDue then _ else s)
    rw [crossing, if_pos due]
  case within =>
    have runs := inFrame.1
    obtain ⟨share, load, climate, seq⟩ := crossed_blocks inFrame
    refine ⟨s.crossed, ?_, rfl, share, load, climate, seq, ?_, ?_⟩
    · show s.report_ s.crossing = _
      rw [crossing_eq runs, fire_rest, State.secondDue, runs, Bool.true_and]
      rfl
    · rw [crossed_inFrame inFrame]
      exact countCrossing_timers _
    · intro a out
      by_cases withdrawn : a = .withdrawn
      · subst withdrawn
        exact (congrArg LoadFrame.withdrawn load :)
      · have does := (advanceLfsr_does s).seq
          ((nextSwitch_does (s := s.advanceLfsr) inFrame.2.1 inFrame.2.2).seq (countCrossing_does _))
        rw [crossed_inFrame inFrame]
        refine does.same a (fun m => out ?_)
        simp at m ⊢
        tauto

/-! ## The boiler at a boundary -/

section
variable {s : State}

/-- A boundary's transition to a state that works where the present one does, or not where it does not (R49, R86). -/
theorem boilerBoundary_to {b : BoilerState} (after : s.boilerAfterBoundary = b)
    (working : b.working = s.steam.boiler.working) : s.boilerBoundary = { s with steam := { s.steam with boiler := b } } := by
  rw [State.boilerBoundary, after, setBoiler_quiet working]

/-- A boundary without a transition leaves everything (R86). -/
theorem boilerBoundary_stays (after : s.boilerAfterBoundary = s.steam.boiler) : s.boilerBoundary = s :=
  boilerBoundary_to after rfl

/-- The STEAM transition alone is made at a boundary (R86). -/
theorem boilerAfterBoundary_unmoved
    (h : s.steam.request ≠ .steam ∨ (s.steam.boiler ≠ .heating ∧ s.steam.boiler ≠ .ready ∧ s.steam.boiler ≠ .steaming)) :
    s.boilerAfterBoundary = s.steam.boiler := by
  unfold State.boilerAfterBoundary
  split
  · rename_i request
    obtain other | ⟨heating, ready, steaming⟩ := h
    · exact absurd request other
    · cases now : s.steam.boiler <;> simp_all
  · rfl

end

/-- The demand that a boiler not PAUSED states, by its state (R83, R155). -/
theorem statedDemand_of_running {s : State} (h : s.runState ≠ some .paused) :
    s.statedDemand =
      match s.steam.boiler with
      | .heating => 20
      | .ready => if s.boilerBelow 990 then 4 else 0
      | .steaming => s.climate.lastBoilerDemand
      | .off => if s.steam.soakHeating then s.soakDemand else 0
      | .empty => 0
      | .filling => 0
      | .draining => 0
      | .standing => 0 := by
  have open_ : s.suspended = false := by simp [State.suspended, h]
  rw [State.statedDemand, open_, if_neg Bool.false_ne_true] <;> rfl

/-! ## The new frame -/

/-- What begins with a frame: the demands taken, the allocation and its placement, and the gates of cycle 0 (R42 to R48). -/
theorem beginFrame_load (d : PerLoad Nat) (b : State) :
    let t := (b.beginFrame d).switchGates
    t.load.running = true ∧ t.load.cycle = 0 ∧ t.load.taken = b.takenDemands d
      ∧ t.load.alloc = allocate (ratings b.startup.variant) t.load.taken b.frameBudget
      ∧ (∀ i, t.load.plan.get i = placed i.index (t.load.alloc.get i))
      ∧ t.load.limited = decide (b.frameBudget < energy (ratings b.startup.variant) t.load.taken)
      ∧ (∀ i, t.load.gates.get i = (b.beginFrame d).gateOn i)
      ∧ (∀ i, t.load.conducted.get i = b.load.conducted.get i + (if t.load.gates.get i then 1 else 0)) := by
  refine ⟨rfl, rfl, rfl, rfl, fun i => ?_, rfl, fun i => ?_, fun i => ?_⟩
  · cases i <;> rfl
  · cases i <;> rfl
  · cases i <;> exact countIf_eq _ _

/-- The gates of the cycle that begins a frame (R48). -/
theorem beginFrame_gate (d : PerLoad Nat) (b : State) (i : Load) :
    (b.beginFrame d).gateOn i = true ↔
      0 ∈ ((b.beginFrame d).switchGates).load.plan.get i ∧ b.load.withdrawn.get i = false
        ∧ (i = .boiler → b.steam.low = some .wet) := by
  rw [gateOn_eq]
  simp only [Bool.and_eq_true, Bool.or_eq_true, Bool.not_eq_true', decide_eq_true_eq, and_assoc]
  refine and_congr Iff.rfl (and_congr Iff.rfl ?_)
  cases i <;> simp [State.beginFrame]

/-- A demand forced as R42 gives. -/
theorem takenDemand_eq (d : PerLoad Nat) (b : State) (i : Load) :
    b.takenDemand d i =
      if b.climate.door = some .opened ∨ b.loadCut i = true then 0
      else if i = .boiler then b.limitBoiler d.boiler else d.get i := by
  simp [State.takenDemand, State.doorOpen]

/-- The scale warning (R145). -/
theorem scaleWarning_iff (s : State) : s.scaleWarning = true ↔ 600000 ≤ s.scale.load := decide_eq_true_iff

/-- A boiler demand limited by level, state and scale warning (R42). -/
theorem limitBoiler_eq (d : Nat) (b : State) :
    b.limitBoiler d =
      if b.steam.low ≠ some .wet ∨ ¬(b.steam.boiler = .heating ∨ b.steam.boiler = .ready ∨ b.steam.boiler = .steaming
          ∨ b.steam.soakHeating = true) then 0
      else if 600000 ≤ b.scale.load then min d 16 else d := by
  simp [State.limitBoiler, State.lowWet, Steam.mayHeat, scaleWarning_iff, and_assoc]

/-! ## The boundary -/

/-- A boundary whose ended frame has a good length (R41): the crossing is counted, the sample taken, and the frame's work done. -/
theorem boundaryCrossing_good (smp : Sample) {ms : Nat} {s : State} (due : s.boundaryDue = true)
    (good : ¬(s.load.running = true ∧ (ms < 307 ∨ 445 < ms))) :
    s.boundaryCrossing smp ms
      = ((((s.advanceLfsr.endFrame).countCrossing).boundaryWork smp).fireDrain).fireRest
          (decide (s.perSecond ≤ s.seq.clock + 1)) := by
  have runs : s.crossingRuns = true := by
    rw [State.boundaryDue, Bool.and_eq_true] at due
    exact due.1
  have closed : s.advanceLfsr.closeFrame ms = s.advanceLfsr.endFrame := by
    refine if_neg fun bad => good ?_
    simpa [badFrameLength, State.advanceLfsr] using bad
  have present : s.advanceLfsr.endFrame.mainsOut = false := by
    have same : s.advanceLfsr.endFrame.mainsOut = s.mainsOut := by
      rw [State.mainsOut, State.faultActive, endFrame_faults]
      rfl
    rw [same]
    simp only [State.crossingRuns, Bool.and_eq_true, Bool.not_eq_true'] at runs
    exact runs.2
  have second : s.secondDue = decide (s.perSecond ≤ s.seq.clock + 1) := by rw [State.secondDue, runs, Bool.true_and]
  rw [State.boundaryCrossing, closed, present, if_neg Bool.false_ne_true, fire_rest, second]

/-- Settles O25: the boiler's transition row by row of R86, the demand it states row by row of R83, and the boundary by whether
the ended frame's length is good. -/
theorem frameBoundary : Obligations.FrameBoundary := by
  refine ⟨fun s => ?boiler, fun smp ms s => ⟨fun idle => ?idle, fun due bad => ?bad, fun due good => ?good⟩⟩
  case boiler =>
    intro now demand atLeast below goes paused
    have reads (x : Int) : s.boilerAtLeast x = true ↔ atLeast x := boilerAtLeast_iff x s
    have falls (x : Int) : s.boilerBelow x = true ↔ below x := boilerBelow_iff x s
    refine ⟨fun h => boilerBoundary_stays (boilerAfterBoundary_unmoved h), fun request => ⟨fun b => ?heating,
      fun b => ?ready, fun b => ?steaming⟩, fun h => ?paused, fun h => ?stated⟩
    case heating =>
      have after : s.boilerAfterBoundary = if s.boilerAtLeast 980 then .ready else .heating := by
        rw [State.boilerAfterBoundary, if_pos request, show s.steam.boiler = .heating from b]
      refine ⟨fun hot => boilerBoundary_to ?_ ?_, fun cold => boilerBoundary_stays ?_⟩
      · rw [after, if_pos ((reads 980).mpr hot)]
      · rw [show s.steam.boiler = .heating from b]; rfl
      · rw [after, if_neg (mt (reads 980).mp cold)]; exact b.symm
    case ready =>
      have after : s.boilerAfterBoundary =
          if 0 < s.climate.lastBoilerDemand then .steaming else if s.boilerBelow 900 then .heating else .ready := by
        rw [State.boilerAfterBoundary, if_pos request, show s.steam.boiler = .ready from b]
      refine ⟨fun asked => boilerBoundary_to ?_ ?_, fun none cold => boilerBoundary_to ?_ ?_,
        fun none hot => boilerBoundary_stays ?_⟩
      · rw [after, if_pos asked]
      · rw [show s.steam.boiler = .ready from b]; rfl
      · rw [after, if_neg (by omega), if_pos ((falls 900).mpr cold)]
      · rw [show s.steam.boiler = .ready from b]; rfl
      · rw [after, if_neg (by omega), if_neg (mt (falls 900).mp hot)]; exact b.symm
    case steaming =>
      have after : s.boilerAfterBoundary = if s.climate.lastBoilerDemand = 0 then .ready else .steaming := by
        rw [State.boilerAfterBoundary, if_pos request, show s.steam.boiler = .steaming from b]
      refine ⟨fun none => boilerBoundary_to ?_ ?_, fun asked => boilerBoundary_stays ?_⟩
      · rw [after, if_pos none]
      · rw [show s.steam.boiler = .steaming from b]; rfl
      · rw [after, if_neg (by omega)]; exact b.symm
    case paused => rw [State.statedDemand, if_pos (by simpa [State.suspended] using h)]
    case stated =>
      rw [statedDemand_of_running h]
      refine ⟨fun b => ?_, fun b => ?_, fun b => ?_, fun b soak => ?_, fun b none => ?_, fun b => ?_⟩
      · rw [show s.steam.boiler = .heating from b]
      · rw [show s.steam.boiler = .ready from b]
        exact ⟨fun cold => if_pos ((falls 990).mpr cold), fun hot => if_neg (mt (falls 990).mp hot)⟩
      · rw [show s.steam.boiler = .steaming from b]
      · simp only [show s.steam.boiler = .off from b, soak, if_true, State.soakDemand]
        refine ⟨fun cold => if_pos ((falls 570).mpr cold), fun warm cold => ?_, fun hot => ?_⟩
        · obtain ⟨c, reading, least⟩ := warm
          have notCold : ¬s.boilerBelow 570 = true := by
            rw [falls 570]
            rintro ⟨e, same, less⟩
            rw [reading] at same
            injection same
            omega
          rw [if_neg notCold, if_pos ((falls 600).mpr cold)]
        · have notCold : ¬s.boilerBelow 570 = true := by
            rw [falls 570]
            rintro ⟨e, same, less⟩
            exact hot ⟨e, same, by omega⟩
          rw [if_neg notCold, if_neg (mt (falls 600).mp hot)]
      · simp only [show s.steam.boiler = .off from b, none]
        rfl
      · obtain b | b | b | b := b <;> simp only [show s.steam.boiler = _ from b]
  case idle =>
    show s.report_ (if s.boundaryDue then _ else s) = _
    rw [idle]
    exact report_same s
  case bad =>
    have closed : s.advanceLfsr.closeFrame ms = s.advanceLfsr.endFrame.raise .mains := by
      refine if_pos ?_
      simpa [badFrameLength, State.advanceLfsr] using bad
    show s.report_ (if s.boundaryDue then _ else s) = _
    rw [if_pos due, State.boundaryCrossing, closed, raiseMains_active, if_pos rfl]
    rfl
  case good =>
    let b := (((((((s.advanceLfsr.endFrame).countCrossing).sampleAll smp).sampleTests true).runSettle).shareBoundary).regulate).boilerBoundary.runSettle
    let d := b.frameDemands b.statedDemand
    obtain ⟨running, cycle, taken, alloc, plan, limited, gates, conducted⟩ := beginFrame_load d b
    refine ⟨b, (b.beginFrame d).switchGates, ?_, rfl, ⟨running, cycle, ?_, alloc, plan, limited, fun i => ?_, conducted⟩, ?_⟩
    · show s.report_ (if s.boundaryDue then _ else s) = _
      rw [if_pos due, boundaryCrossing_good smp due good]
      rfl
    · rw [taken]
      simp [State.takenDemands, PerLoad.make, takenDemand_eq, limitBoiler_eq, PerLoad.get, ite_or, b, d]
    · rw [gates, beginFrame_gate]
    · exact ((beginFrame_does d b).seq (switchGates_does _)).only.mono (by decide)

/-! ## The end of a frame -/

/-- The scale load rises with a millilitre, up to its end (R147). -/
theorem addMillilitre_scale (s : State) :
    s.addMillilitre.scale = { s.scale with load := min 1000000 (s.scale.load + s.scale.hardness) } := by
  unfold State.addMillilitre
  dsimp only
  split <;> rfl

/-- The scale load rises with each millilitre, up to its end (R147). -/
theorem addMillilitres_scale (n : Nat) {s : State} (range : s.scale.load ≤ 1000000) :
    (s.addMillilitres n).scale = { s.scale with load := min 1000000 (s.scale.load + s.scale.hardness * n) } := by
  induction n generalizing s with
  | zero => simp [State.addMillilitres, range]
  | succ n ih =>
    have scale := addMillilitre_scale s
    rw [State.addMillilitres, ih (by rw [scale]; exact Nat.min_le_left _ _), scale]
    dsimp only
    congr 1
    rw [Nat.mul_succ]
    generalize s.scale.hardness * n = rest
    omega

/-- S rises across the level of the warning or of the lock (R148). -/
theorem crossed_iff (before after : Nat) :
    crossed before after = true ↔ (before < 600000 ∧ 600000 ≤ after) ∨ (before < 900000 ∧ 900000 ≤ after) := by
  simp only [crossed, Bool.or_eq_true, Bool.and_eq_true, decide_eq_true_iff]
  exact Iff.rfl

/-- A millilitre that crosses neither level requests no write (R148, R149). -/
theorem addMillilitre_retained {s : State} (none : crossed s.scale.load s.addMillilitre.scale.load = false) :
    s.addMillilitre.retained = s.retained := by
  rw [addMillilitre_scale] at none
  have stays : s.addMillilitre = s.mapScale Scale.addMillilitre := if_neg (Bool.eq_false_iff.mp none)
  rw [stays]
  rfl

/-- Millilitres that together cross neither level request no write (R148, R149). -/
theorem addMillilitres_retained (n : Nat) {s : State} (range : s.scale.load ≤ 1000000)
    (none : crossed s.scale.load (s.addMillilitres n).scale.load = false) : (s.addMillilitres n).retained = s.retained := by
  induction n generalizing s with
  | zero => rfl
  | succ n ih =>
    have scale := addMillilitre_scale s
    have low : s.addMillilitre.scale.load ≤ 1000000 := by rw [scale]; exact Nat.min_le_left _ _
    have total := addMillilitres_scale n low
    rw [State.addMillilitres] at none ⊢
    have rises : s.scale.load ≤ s.addMillilitre.scale.load ∧ s.addMillilitre.scale.load ≤ (s.addMillilitre.addMillilitres n).scale.load := by
      rw [total, scale]
      dsimp only
      omega
    have crosses := crossed_iff s.scale.load (s.addMillilitre.addMillilitres n).scale.load
    rw [none] at crosses
    have first : crossed s.scale.load s.addMillilitre.scale.load = false := by
      rw [Bool.eq_false_iff, Ne, crossed_iff]
      simp at crosses
      omega
    have later : crossed s.addMillilitre.scale.load (s.addMillilitre.addMillilitres n).scale.load = false := by
      rw [Bool.eq_false_iff, Ne, crossed_iff]
      simp at crosses
      omega
    rw [ih low later, addMillilitre_retained first]

/-- One millilitre that crosses a level requests a write of the account after it (R148, R149). -/
theorem addMillilitre_crosses {s : State} (yes : crossed s.scale.load s.addMillilitre.scale.load = true) :
    s.addMillilitre.retained = s.retained.request s.addMillilitre.scale.contents := by
  have writes : s.addMillilitre = (s.mapScale Scale.addMillilitre).requestWrite := by
    rw [addMillilitre_scale] at yes
    exact if_pos yes
  rw [writes]
  rfl

/-- The millilitres leave the load frame, and of the steam generator everything (R147). -/
theorem addMillilitres_blocks (n : Nat) (s : State) :
    (s.addMillilitres n).load = s.load ∧ (s.addMillilitres n).steam = s.steam := by
  have does := addMillilitres_does n s
  exact ⟨does.only.load, does.only.steam⟩

/-- The end of a frame in progress, part by part: the frame closed, its steaming energy evaporated, the ceiling recomputed (R52). -/
theorem endFrame_running {s : State} (run : s.load.running = true) :
    s.endFrame = ((s.mapLoad LoadFrame.close).evaporate
      (Load.watts s.startup.variant .boiler * s.load.steamingCount)).updateCeiling :=
  if_pos run

/-- Settles O26: the frame closes, its energy becomes millilitres, and these rise the scale load, with a write where a level is
crossed. -/
theorem frameEndHandsOverTheSteamingEnergy : Obligations.FrameEndHandsOverTheSteamingEnergy := by
  intro s run range t threshold boilerWatts total ml crosses
  have thresholdEq : s.threshold = threshold := by
    simp only [threshold, State.threshold]
    cases s.startup.freq with
    | none => rfl
    | some f => cases f <;> rfl
  have wattsEq : Load.watts s.startup.variant .boiler = boilerWatts := by
    show Config.boilerWatts s.startup.variant = boilerWatts
    match variant : s.startup.variant with
    | 0 => simp only [boilerWatts, variant, Config.boilerWatts]
    | 1 => simp only [boilerWatts, variant, Config.boilerWatts]
    | 2 => simp only [boilerWatts, variant, Config.boilerWatts]
    | n + 3 => simp only [boilerWatts, variant, Config.boilerWatts]
  let closed := s.mapLoad LoadFrame.close
  let drawn := closed.mapSteam (fun w =>
    { w with evaporation := total % threshold, millilitres := satAdd 65535 w.millilitres ml })
  have ended : t = (drawn.addMillilitres ml).updateCeiling := by
    simp only [t, endFrame_running run, State.evaporate, wattsEq]
    simp only [drawn, closed, ml, total, ← thresholdEq]
    rfl
  obtain ⟨load, steam⟩ := addMillilitres_blocks ml drawn
  have scale := addMillilitres_scale ml (s := drawn) range
  have after : t.scale = { s.scale with load := min 1000000 (s.scale.load + s.scale.hardness * ml) } := by
    rw [ended, updateCeiling_scale, scale]
    rfl
  have loaded : t.load = { LoadFrame.close s.load with ceiling := t.load.ceiling } := by
    rw [ended, updateCeiling_load, load]
    rfl
  have steamed : t.steam = drawn.steam := by rw [ended, updateCeiling_steam, steam]
  have kept : t.retained = (drawn.addMillilitres ml).retained := by rw [ended, updateCeiling_retained]
  have loadAfter : (drawn.addMillilitres ml).scale.load = t.scale.load := by rw [ended, updateCeiling_scale]
  have crossing : crossed s.scale.load t.scale.load = true ↔ crosses 600000 ∨ crosses 900000 := crossed_iff _ _
  refine ⟨?last, ?cleared, ?plan, ?energy, ?load, fun no600 no900 => ?unwritten, fun one yes => ?written, (endFrame_does s).only⟩
  case last => rw [loaded]; rfl
  case cleared => rw [loaded]; exact ⟨rfl, rfl, rfl, rfl⟩
  case plan => rw [loaded]; exact ⟨rfl, rfl, rfl, rfl⟩
  case energy => rw [steamed]; exact ⟨rfl, rfl⟩
  case load => rw [after]
  case unwritten =>
    rw [kept]
    refine addMillilitres_retained ml (s := drawn) range ?_
    rw [loadAfter, Bool.eq_false_iff]
    exact fun yes => (crossing.mp yes).elim no600 no900
  case written =>
    have single : drawn.addMillilitres ml = drawn.addMillilitre := by rw [one]; rfl
    rw [single] at kept loadAfter
    have contents : drawn.addMillilitre.scale.contents
        = ⟨s.scale.hardness, t.scale.load, s.scale.rinseOwed, s.scale.soakCount⟩ := by
      rw [← loadAfter, addMillilitre_scale]
      rfl
    rw [kept, addMillilitre_crosses (by rw [loadAfter]; exact crossing.mpr yes), contents]
    rfl

end Sys2Proof.Machine
end

section
/-! PROOFS. The bus link (spec/10): the transmit queue's hand-over, and the outcomes of the frame on the line. -/

namespace Sys2Proof.Machine

/-! ## Lists of entries, taken apart at the entry that matters -/

section
variable {p : Entry → Bool} {l r : List Entry} {e : Entry}

/-- The first entry that satisfies p is replaced in its place. -/
theorem replaceFirst_at {f : Entry → Entry} (before : ∀ x ∈ l, p x = false) (found : p e = true) :
    replaceFirst p f (l ++ e :: r) = some (l ++ f e :: r) := by
  induction l with
  | nil => simp [replaceFirst, found]
  | cons x l ih =>
    obtain ⟨no, rest⟩ := List.forall_mem_cons.mp before
    simp [replaceFirst, no, ih rest]

/-- Where no entry satisfies p none is replaced. -/
theorem replaceFirst_none {f : Entry → Entry} (before : ∀ x ∈ l, p x = false) : replaceFirst p f l = none := by
  induction l with
  | nil => rfl
  | cons x l ih =>
    obtain ⟨no, rest⟩ := List.forall_mem_cons.mp before
    simp [replaceFirst, no, ih rest]

/-- The first entry that satisfies p is taken out. -/
theorem removeFirst_at (before : ∀ x ∈ l, p x = false) (found : p e = true) :
    removeFirst p (l ++ e :: r) = some (l ++ r) := by
  induction l with
  | nil => simp [removeFirst, found]
  | cons x l ih =>
    obtain ⟨no, rest⟩ := List.forall_mem_cons.mp before
    simp [removeFirst, no, ih rest]

/-- Where no entry satisfies p none is taken out. -/
theorem removeFirst_none (before : ∀ x ∈ l, p x = false) : removeFirst p l = none := by
  induction l with
  | nil => rfl
  | cons x l ih =>
    obtain ⟨no, rest⟩ := List.forall_mem_cons.mp before
    simp [removeFirst, no, ih rest]

/-- The first entry that satisfies p is found. -/
theorem find?_at (before : ∀ x ∈ l, p x = false) (found : p e = true) : (l ++ e :: r).find? p = some e := by
  rw [List.find?_append, List.find?_eq_none.mpr (by simpa using before), List.find?_cons_of_pos found]
  rfl

/-- A new entry joins between its class and lower ones, and the higher ones (R190). -/
theorem insertByClass_at (low : ∀ x ∈ l, x.kind.cls ≤ e.kind.cls) (high : ∀ x ∈ r, e.kind.cls < x.kind.cls) :
    insertByClass e (l ++ r) = l ++ e :: r := by
  induction l with
  | nil =>
    cases r with
    | nil => rfl
    | cons x r => simp [insertByClass, high x (by simp)]
  | cons x l ih =>
    obtain ⟨lower, rest⟩ := List.forall_mem_cons.mp low
    simp [insertByClass, Nat.not_lt.mpr lower, ih rest]

/-- SENT acts on the entry whose frame is on the line (R188, R190). -/
theorem sentOn_at (before : ∀ x ∈ l, x.onLine = false) (sends : e.onLine = true) :
    sentOn (l ++ e :: r) =
      l ++ (match e.frames with
        | _ :: p :: rest => [{ e with frames := p :: rest, onLine := false, started := true }]
        | _ => []) ++ r := by
  induction l with
  | nil =>
    simp only [List.nil_append, sentOn, sends, if_true]
    obtain ⟨kind, frames, onLine, started⟩ := e
    match frames with
    | [] => rfl
    | [_] => rfl
    | _ :: _ :: _ => rfl
  | cons x l ih =>
    obtain ⟨no, rest⟩ := List.forall_mem_cons.mp before
    simp [sentOn, no, ih rest]

/-- LOST acts on the entry whose frame is on the line (R190). -/
theorem lostOn_at (before : ∀ x ∈ l, x.onLine = false) :
    lostOn (l ++ e :: r) = l ++ lostOn (e :: r) := by
  induction l with
  | nil => rfl
  | cons x l ih =>
    obtain ⟨no, rest⟩ := List.forall_mem_cons.mp before
    simp [lostOn, no, ih rest]

end

/-! ## Hand-over -/

/-- The entries that a hand-over of a kind replaces (R190). -/
abbrev replacedBy (k : EntryKind) (e : Entry) : Bool := e.waiting && e.kind.sameKind k

/-- A waiting entry of the kind is replaced in its place (R190). -/
theorem hand_replaces {k : EntryKind} {frames : List (List Byte)} {b : BusLink} {l r : List Entry} {e : Entry}
    (queue : b.queue = l ++ e :: r) (before : ∀ x ∈ l, replacedBy k x = false) (found : replacedBy k e = true) :
    b.hand k frames = { b with queue := l ++ { e with kind := k, frames := frames } :: r } := by
  rw [BusLink.hand, queue, replaceFirst_at before found]

/-- With no waiting entry of the kind the new one joins (R190). -/
theorem hand_joins {k : EntryKind} {frames : List (List Byte)} {b : BusLink} (none : ∀ x ∈ b.queue, replacedBy k x = false) :
    b.hand k frames = b.join ⟨k, frames, false, false⟩ := by
  rw [BusLink.hand, replaceFirst_none none]

/-- A waiting report (R191). -/
theorem waitingReport_iff (e : Entry) : e.waitingReport = true ↔ e.waiting = true ∧ ∃ j, e.kind = .report j := by
  unfold Entry.waitingReport
  cases e.kind <;> simp

/-- What is not a conjunction of two flags is their conjunction false. -/
theorem and_false_of_not {a b : Bool} (h : ¬(a = true ∧ b = true)) : (a && b) = false := by
  cases a <;> cases b <;> simp_all

/-- Settles O14: by the entries of the queue that the new one replaces, joins behind, or pushes out. -/
theorem queueHandOver : Obligations.QueueHandOver := by
  intro k frames b
  refine ⟨fun l e r queue waits same before => ?replaces, fun none => ?joins⟩
  case replaces =>
    exact hand_replaces queue (fun x m => and_false_of_not (before x m)) (by rw [replacedBy, waits, same]; rfl)
  case joins =>
    have joined := hand_joins (frames := frames) (fun x m => and_false_of_not (none x m))
    have notReport {q : List Entry} (h : ∀ x ∈ q, ¬(x.waiting = true ∧ ∃ j, x.kind = .report j)) :
        ∀ x ∈ q, x.waitingReport = false := fun x m => by
      rw [Bool.eq_false_iff, Ne, waitingReport_iff]
      exact h x m
    refine ⟨fun l r queue low high room => ?room, fun l e r x y queue waits report before full split low high => ?pushes,
      fun noReport full => ?refused⟩
    case room =>
      rw [joined, BusLink.join, if_pos (show b.queue.length < queueCapacity from room), queue, insertByClass_at low high]
    case pushes =>
      have found : e.waitingReport = true := (waitingReport_iff e).mpr ⟨waits, report⟩
      rw [joined, BusLink.join, if_neg (show ¬b.queue.length < queueCapacity from Nat.not_lt.mpr full), queue, removeFirst_at (notReport before) found, split]
      dsimp only
      rw [insertByClass_at low high]
      rfl
    case refused =>
      rw [joined, BusLink.join, if_neg (show ¬b.queue.length < queueCapacity from Nat.not_lt.mpr full), removeFirst_none (notReport noReport)]
      rfl

/-! ## The quiet gap and a lost frame -/

/-- A quiet gap completes on an idle line, or where one is awaited (R188, R189). -/
theorem gapCompletes_iff (s : State) :
    s.gapCompletes = true ↔ s.inService = true ∧ (s.bus.link = .idle ∨ (s.bus.link = .receiving ∧ s.bus.awaitGap = true)) := by
  simp [State.gapCompletes]

/-- Settles O12: a gap takes the head of the queue, and a loss leaves the entry on the line or lets a newer one take its place. -/
theorem quietGapAndFrameLost : Obligations.QuietGapAndFrameLost := by
  intro s gap
  refine ⟨⟨fun completes empty => ?idle, fun e q completes queue => ?starts, fun no => ?noGap⟩,
    fun l e r sends queue before onLine => ⟨fun stays => ?stays, fun a x b first split others waits same => ?newer⟩,
    fun silent => ?silent⟩
  case idle =>
    have quiet : s.bus.quietGap = { s.bus with link := .idle, awaitGap := false } := by
      unfold BusLink.quietGap
      split
      · rfl
      · rename_i front
        cases empty.symm.trans front
    show Host.Outcome.next (if s.gapCompletes then s.mapBus BusLink.quietGap else s) = _
    rw [if_pos ((gapCompletes_iff s).mpr completes), State.mapBus, quiet]
  case starts =>
    show Host.Outcome.next (if s.gapCompletes then s.mapBus BusLink.quietGap else s) = _
    rw [if_pos ((gapCompletes_iff s).mpr completes), State.mapBus, BusLink.quietGap, queue]
    rfl
  case noGap => exact next_of_not (mt (gapCompletes_iff s).mp no)
  case silent => exact next_of_not (by simp [silent])
  all_goals
    show Host.Outcome.next (if s.sends then s.mapBus _ else s) = _
    rw [if_pos sends, State.mapBus, queue, lostOn_at before, lostOn, if_pos onLine]
  case stays =>
    obtain started | none := stays
    · rw [if_pos started]
    · have missing : r.find? (replacedBy e.kind) = Option.none :=
        List.find?_eq_none.mpr (fun x m => by simpa [replacedBy] using none x m)
      cases e.started
      · rw [if_neg Bool.false_ne_true, missing]
      · rw [if_pos rfl]
  case newer =>
    have not (y : Entry) (m : y ∈ a) : replacedBy e.kind y = false := and_false_of_not (others y m)
    have found : replacedBy e.kind x = true := by rw [replacedBy, waits, same]; rfl
    rw [if_neg (by rw [first]; exact Bool.false_ne_true), split, find?_at not found, removeFirst_at not found]
    rfl

/-! ## What an outcome changes -/

/-- A move of the bus link stays on the bus link. -/
theorem mapBus_only (f : BusLink → BusLink) (s : State) : Only [.link, .queue, .busCounts] s (s.mapBus f) := by
  intro a out
  cases a
  case link | queue | busCounts => exact absurd (by decide) out
  all_goals rfl

/-- The kind of the entry on the line (R188). -/
theorem sending_at {b : BusLink} {l r : List Entry} {e : Entry} (queue : b.queue = l ++ e :: r)
    (before : ∀ x ∈ l, x.onLine = false) (onLine : e.onLine = true) : b.sending = some e.kind := by
  rw [BusLink.sending, queue, find?_at before onLine]
  rfl

/-- The own announcement that was SENT counts in ASKING where it carries the round's ask and draw (R5). -/
theorem countOwn_eq (k : EntryKind) (s : State) :
    s.countOwn (some k) =
      { s with
        share :=
          { s.share with
            ownCount :=
              match k with
              | .announce ask draw =>
                if s.share.state = .asking ∧ ask = s.share.ask ∧ draw = s.share.draw then min 3 (s.share.ownCount + 1)
                else s.share.ownCount
              | _ => s.share.ownCount } } := by
  unfold State.countOwn
  cases k
  case announce ask draw =>
    dsimp only
    split <;> rfl
  all_goals rfl

/-- Only an announcement of an ask round is counted (R5). -/
theorem countOwn_outside {k : Option EntryKind} {s : State} (state : s.share.state ≠ .asking) : s.countOwn k = s := by
  unfold State.countOwn
  split
  · rw [if_neg (fun c => state c.1)]
  all_goals rfl

/-- What MAINS applies at once without an isolation due is the hold (R24). -/
theorem mainsApply_share {s : State} (due : s.isolationDue = false) :
    ∃ hold applied cut, s.mainsApply.share = { s.share with hold := hold, applied := applied, pendingCut := cut } := by
  have stays : s.isolateIfDue = s := by rw [State.isolateIfDue, due]; rfl
  unfold State.mainsApply
  dsimp only
  rw [stays]
  split
  · split
    · refine ⟨s.mainsHold, s.mainsHold, 0, ?_⟩
      unfold State.announce
      split <;> rfl
    · exact ⟨_, _, _, rfl⟩
  · exact ⟨_, _, _, rfl⟩

/-! ## The end of LINK -/

/-- LINK's condition goes: the record in force and not latched becomes inactive (R164). -/
theorem goes_link (r : FaultRecord) :
    r.goes .link = if r.active = true ∧ r.latched = false then { r with active := false } else r := by
  simp [FaultRecord.goes, FaultKind.latching]

/-- LINK that is not in force does not end (R169). -/
theorem linkGone_unmoved {s : State} (no : ¬(s.faults.link.active = true ∧ s.faults.link.latched = false)) :
    s.condGone .link = s := by
  have same : s.setFault .link (FaultRecord.goes .link) = s := by
    show { s with faults := { s.faults with link := s.faults.link.goes .link } } = s
    rw [goes_link, if_neg no]
  rw [State.condGone, State.release, same]
  simp

/-- LINK ends: ISOLATED is left with it (R19, R169). -/
theorem linkGone_ends {s : State} (ends : s.faults.link.active = true ∧ s.faults.link.latched = false) :
    s.condGone .link
      = State.leaveIsolated { s with faults := { s.faults with link := { s.faults.link with active := false } } } := by
  have moved : s.setFault .link (FaultRecord.goes .link)
      = { s with faults := { s.faults with link := { s.faults.link with active := false } } } := by
    show { s with faults := { s.faults with link := s.faults.link.goes .link } } = _
    rw [goes_link, if_pos ends]
  rw [State.condGone, State.release, moved]
  simp [State.faultActive, FaultSet.get, ends.1, State.faultEnds]

/-- ISOLATED stays where it is not left (R19). -/
theorem leaveIsolated_stays {s : State} (no : ¬(s.share.state = .isolated ∧ s.cutOff = false)) : s.leaveIsolated = s :=
  if_neg no

/-- ISOLATED is left for the state of rest, with an ask round where the ceiling is above the hold (R13, R19). -/
theorem leaveIsolated_leaves {s : State} (yes : s.share.state = .isolated ∧ s.cutOff = false) :
    s.leaveIsolated = (s.mapShare (fun h => { h with state := s.restState })).askIfShort.mainsApply :=
  if_pos yes

/-- The state of rest, by the limit class (R20). -/
theorem restState_eq (s : State) : s.restState = if s.limit = none then .unshared else .steady := by
  unfold State.restState State.noLimit
  cases s.limit <;> rfl

/-- The state in which a frame has been SENT and LINK has ended with it, ISOLATED left for the state of rest. -/
def State.sentLeft (queue : List Entry) (s : State) : State :=
  { s with
    bus := { s.bus with link := .idle, queue := queue, broken := 0 }
    faults := { s.faults with link := { s.faults.link with active := false } }
    share := { s.share with state := if s.limit = none then .unshared else .steady } }

/-- The ask round that begins as ISOLATED is left (R13). -/
def State.sentAsks (queue : List Entry) (s : State) : State :=
  { s.sentLeft queue with
    share :=
      { s.share with
        state := .asking, ask := s.load.ceiling, draw := s.share.lfsr, ownCount := 0, denyCount := 0, starved := false } }

/-- With no more need than it holds the part that has left ISOLATED asks for nothing (R13). -/
theorem sentLeft_rests {q : List Entry} {s : State} (enough : s.limit = none ∨ s.load.ceiling ≤ s.share.hold) :
    (s.sentLeft q).askIfShort = s.sentLeft q := by
  refine if_neg ?_
  rintro ⟨steady, short⟩
  obtain free | enough := enough
  · rw [State.sentLeft, if_pos free] at steady
    cases steady
  · exact absurd short (Nat.not_lt.mpr enough)

/-- With a ceiling above its hold it starts an ask round (R13). -/
theorem sentLeft_asks {q : List Entry} {s : State} (limited : s.limit ≠ none) (short : s.share.hold < s.load.ceiling) :
    (s.sentLeft q).askIfShort
      = { s.sentAsks q with
          bus := (s.sentLeft q).bus.hand (.announce s.load.ceiling s.share.lfsr) [(s.sentAsks q).ownAnnouncement] } := by
  have steady : (s.sentLeft q).share.state = .steady := if_neg limited
  have started : ((s.sentLeft q).mapShare (fun h =>
      { h with
        state := .asking, ask := (s.sentLeft q).load.ceiling, draw := h.lfsr, ownCount := 0
        denyCount := if h.state = .asking then h.denyCount else 0
        starved := if h.state = .asking then h.starved else false })) = s.sentAsks q := by
    simp only [State.mapShare, steady]
    rfl
  rw [State.askIfShort, if_pos ⟨steady, short⟩, State.startRound, started]
  rfl

/-- Leaving ISOLATED leaves no isolation due. -/
theorem sentLeft_isolationDue {q : List Entry} {s : State} (alone : s.faults.duplicateStation.active = false) :
    (s.sentLeft q).isolationDue = false := by
  simp [State.isolationDue, State.cutOff, State.faultActive, FaultSet.get, State.sentLeft, alone]

/-- The same of the ask round that begins with it, whatever its queue. -/
theorem sentAsks_isolationDue {q : List Entry} {s : State} (b : BusLink) (alone : s.faults.duplicateStation.active = false) :
    State.isolationDue { s.sentAsks q with bus := b } = false := by
  simp [State.isolationDue, State.cutOff, State.faultActive, FaultSet.get, State.sentAsks, State.sentLeft, alone]

/-- A frame SENT, before the LINK condition is looked at: the link idle, the frame gone from its entry, an own announcement
counted (R5, R188). -/
theorem frameSent_counts {s : State} {l r : List Entry} {e : Entry} (queue : s.bus.queue = l ++ e :: r)
    (before : ∀ x ∈ l, x.onLine = false) (onLine : e.onLine = true) :
    (s.mapBus (fun b => { b with link := .idle, queue := sentOn b.queue, broken := 0 })).countOwn s.bus.sending
      = { s with
          bus :=
            { s.bus with
              link := .idle, broken := 0
              queue :=
                l ++ (match e.frames with
                  | _ :: p :: rest => [{ e with frames := p :: rest, onLine := false, started := true }]
                  | _ => []) ++ r }
          share :=
            { s.share with
              ownCount :=
                match e.kind with
                | .announce ask draw =>
                  if s.share.state = .asking ∧ ask = s.share.ask ∧ draw = s.share.draw then min 3 (s.share.ownCount + 1)
                  else s.share.ownCount
                | _ => s.share.ownCount } } := by
  rw [sending_at queue before onLine, countOwn_eq]
  simp only [State.mapBus, queue, sentOn_at before onLine]

/-- FRAME_SENT, all but its reports. -/
theorem frameSent_only (s : State) :
    Only [.link, .queue, .busCounts, .sharing, .fault .link] s
      (((s.mapBus (fun b => { b with link := .idle, queue := sentOn b.queue, broken := 0 })).countOwn s.bus.sending).condGone
        .link) :=
  (((mapBus_only _ s).mono (by decide)).trans ((countOwn_does s.bus.sending _).only.mono (by decide))).trans
    ((linkGone_does _).only.mono (by decide))

/-- A kind that bars nothing and has no effect on programs: what follows from its record is that the ceiling is computed again,
and under MAINS the share engine acts at once (R24, R171). -/
theorem raise_only {k : FaultKind} (recipe : k.onRecipe = .nothing) (service : k.onService = .nothing)
    (bars : ∀ x : State, x.barBoiler k = x) (s : State) :
    Only [.fault k, .queue, .sharing, .ceiling, .withdrawn] s (s.raise k) := by
  have set : Only [.fault k, .queue, .sharing, .ceiling, .withdrawn] s (s.setFault k FaultRecord.arise) :=
    (setFault_does k (arise_move k) s).only.mono (fun _ m => by rw [List.mem_singleton] at m; exact m ▸ List.mem_cons_self)
  have wide {as : List Aspect} {x y : State} (only : Only as x y)
      (few : ∀ a ∈ as, a ∈ [Aspect.queue, .sharing, .ceiling, .withdrawn]) :
      Only [.fault k, .queue, .sharing, .ceiling, .withdrawn] x y :=
    only.mono (fun a m => List.mem_cons_of_mem _ (few a m))
  unfold State.raise
  split
  · exact set
  · rw [State.faultBegins, bars, programFault_nothing recipe service]
    exact ((set.trans (wide (withdraw_does _ _).only (by decide))).trans (wide (updateCeiling_only _) (by decide))).trans
      (wide (mainsApply_does _).only (by decide))

/-- FRAME_BROKEN that brings the count to 16 raises LINK (R169). -/
theorem raiseLink_only (s : State) : Only [.fault .link, .queue, .sharing, .ceiling, .withdrawn] s (s.raise .link) :=
  raise_only rfl rfl (fun _ => rfl) s

/-- LINK that begins in a program that is followed, with mains, changes its record and may withdraw, and no more (R169). -/
theorem raiseLink_quiet {s : State} (follows : s.Follows) (mains : s.mainsOut = false) :
    (s.raise .link).bus = s.bus ∧ (s.raise .link).share = s.share := by
  have set : (s.setFault .link FaultRecord.arise).bus = s.bus ∧ (s.setFault .link FaultRecord.arise).share = s.share :=
    ⟨rfl, rfl⟩
  unfold State.raise
  split
  · exact set
  · let t := (s.setFault .link FaultRecord.arise).withdraw FaultKind.link.cuts
    have same : t.Follows := by
      refine (withdraw_does _ _).only.follows ?_
      exact follows_congr (s := s) (.of_run rfl rfl) (fun a m => by revert a; simp [Same, State.setFault]) rfl rfl follows
    have still : t.updateCeiling = t := if_pos same.1.symm
    have on : t.mainsOut = false := by
      have other : t.faults.get .mains = s.faults.get .mains := by
        rw [(withdraw_does _ _).only.faults]
        exact get_set_ne _ _ (show FaultKind.mains ≠ .link by decide)
      rw [State.mainsOut, State.faultActive, other]
      exact mains
    rw [State.faultBegins, State.barBoiler, programFault_nothing rfl rfl]
    show t.updateCeiling.mainsApply.bus = s.bus ∧ t.updateCeiling.mainsApply.share = s.share
    rw [still, mainsApply_off on]
    exact ⟨(withdraw_does _ _).only.bus, (withdraw_does _ _).only.share⟩

/-- Settles O13: SENT by whether LINK ends and ISOLATED with it, BROKEN by the count it reaches. -/
theorem frameSentAndBroken : Obligations.FrameSentAndBroken := by
  refine ⟨fun s l r e sends queue before onLine => ?sent, fun s l r e sends queue before onLine => ?broken⟩
  case sent =>
    intro ends back sent left asks
    let freed := s.mapBus (fun b => { b with link := .idle, queue := sentOn b.queue, broken := 0 })
    let t := (freed.countOwn s.bus.sending).condGone .link
    have answer : exec .frameSent s = .next (s.reported t) := by
      show s.report_ (if s.sends then _ else s) = _
      rw [if_pos sends]
      rfl
    have counts := frameSent_counts queue before onLine
    have only : Only [.link, .queue, .busCounts, .sharing, .fault .link] s t := frameSent_only s
    have link : t.faults.link = s.faults.link.goes .link := by
      have moved := condGone_get_same .link (freed.countOwn s.bus.sending)
      rw [(countOwn_does _ _).only.faults] at moved
      exact moved
    rw [goes_link] at link
    have leaves (h : back) : t = (s.sentLeft sent).askIfShort.mainsApply := by
      obtain ⟨ended, isolated, alone⟩ := h
      have uncounted : freed.countOwn s.bus.sending = freed :=
        countOwn_outside (show s.share.state ≠ .asking by rw [isolated]; decide)
      simp only [t]
      rw [uncounted, linkGone_ends (s := freed) ended, leaveIsolated_leaves]
      · simp only [freed, State.mapBus, State.mapShare, restState_eq, queue, sentOn_at before onLine]
        rfl
      · exact ⟨isolated, by simp [State.cutOff, State.faultActive, FaultSet.get, freed, alone]⟩
    have stays (h : ¬back) : t.bus = { s.bus with link := .idle, broken := 0, queue := sent }
        ∧ t.share =
          { s.share with
            ownCount :=
              match e.kind with
              | .announce ask draw =>
                if s.share.state = .asking ∧ ask = s.share.ask ∧ draw = s.share.draw then min 3 (s.share.ownCount + 1)
                else s.share.ownCount
              | _ => s.share.ownCount } := by
      have faults : (freed.countOwn s.bus.sending).faults = s.faults := (countOwn_does _ _).only.faults
      have settled : t.bus = (freed.countOwn s.bus.sending).bus ∧ t.share = (freed.countOwn s.bus.sending).share := by
        simp only [t]
        by_cases ended : ends
        · rw [linkGone_ends (by rw [faults]; exact ended), leaveIsolated_stays]
          · exact ⟨rfl, rfl⟩
          · rintro ⟨isolated, uncut⟩
            have same : (freed.countOwn s.bus.sending).share.state = .isolated := isolated
            rw [counts] at same
            refine h ⟨ended, same, ?_⟩
            simpa [State.cutOff, State.faultActive, FaultSet.get, faults] using uncut
        · rw [linkGone_unmoved (by rw [faults]; exact ended)]
          exact ⟨rfl, rfl⟩
      rw [settled.1, settled.2, counts]
      exact ⟨rfl, rfl⟩
    have rests (h : back) (enough : s.limit = none ∨ s.load.ceiling ≤ s.share.hold) : t = left.mainsApply := by
      rw [leaves h, sentLeft_rests enough]
      rfl
    have asked (h : back) (limited : s.limit ≠ none) (short : s.share.hold < s.load.ceiling) :
        t = State.mainsApply
          { asks with bus := left.bus.hand (.announce s.load.ceiling s.share.lfsr) [asks.ownAnnouncement] } := by
      rw [leaves h, sentLeft_asks limited short]
      rfl
    refine ⟨t, answer, ?bus, fun h => ?ends, fun h => ?unended, fun h => ?notBack, fun h => ?back, only⟩
    case bus =>
      have gone := (linkGone_does (freed.countOwn s.bus.sending)).only
      have line := gone .link (by decide)
      have counters := gone .busCounts (by decide)
      simp only [Same, Prod.mk.injEq, (countOwn_does _ _).only.bus] at line counters
      exact ⟨line.1, counters.1, counters.2⟩
    case ends => rw [link, if_pos h]
    case unended => rw [link, if_neg h]
    case notBack => rw [(stays h).1, (stays h).2]; exact ⟨rfl, rfl⟩
    case back =>
      have alone := h.2.2
      obtain ⟨hold, applied, cut, settled⟩ := mainsApply_share (sentLeft_isolationDue (q := sent) alone)
      have restState (enough : s.limit = none ∨ s.load.ceiling ≤ s.share.hold) :
          t.share.state = if s.limit = none then .unshared else .steady := by
        rw [rests h enough]
        exact congrArg Share.state settled
      refine ⟨rests h, asked h, fun free => ?_, fun limited enough => ?_, fun limited short => ?_, fun mains => ?_⟩
      · rw [restState (.inl free), if_pos free]
      · rw [restState (.inr enough), if_neg limited]
      · obtain ⟨hold, applied, cut, settled⟩ := mainsApply_share (sentAsks_isolationDue (q := sent)
          (left.bus.hand (.announce s.load.ceiling s.share.lfsr) [asks.ownAnnouncement]) alone)
        have share : t.share = { asks.share with hold := hold, applied := applied, pendingCut := cut } := by
          rw [asked h limited short]
          exact settled
        rw [share]
        exact ⟨rfl, rfl, rfl, rfl, rfl⟩
      · refine ⟨?_, fun enough => ?_⟩
        · by_cases enough : s.limit = none ∨ s.load.ceiling ≤ s.share.hold
          · rw [rests h enough, mainsApply_off (show left.mainsOut = false from mains)]
          · have limited : s.limit ≠ none := fun free => enough (.inl free)
            rw [asked h limited (by omega), mainsApply_off (show State.mainsOut { asks with bus := _ } = false from mains)]
        · rw [rests h enough, mainsApply_off (show left.mainsOut = false from mains)]
  case broken =>
    intro b
    let x : State := { s with bus := b }
    have gone : brokenOn s.bus.queue = l ++ r := by
      rw [brokenOn, queue, removeFirst_at before onLine]
      rfl
    have broke : s.mapBus (fun b =>
        { b with link := .receiving, awaitGap := true, queue := brokenOn b.queue, broken := satAdd 255 b.broken 1 }) = x := by
      simp only [State.mapBus, gone]
      rfl
    have answer : exec .frameBroken s = s.report_ x.linkCheck := by
      show s.report_ (if s.sends then State.linkCheck _ else s) = _
      rw [if_pos sends, broke]
    refine ⟨fun few => ?few, fun limit none => ?raises, fun limit yes => ?again⟩
    case few =>
      rw [answer, State.linkCheck, if_neg (show ¬x.bus.broken = 16 from few), State.report_,
        reported_of_views (s := s) (t := x) rfl rfl rfl]
    case raises =>
      have only := raiseLink_only x
      have line := only .link (by decide)
      have counters := only .busCounts (by decide)
      simp only [Same, Prod.mk.injEq] at line counters
      refine ⟨x.raise .link, ?_, ?_, ⟨line.1, line.2, counters.1.trans limit⟩, fun follows mains => ?_, ?_⟩
      · rw [answer, State.linkCheck, if_pos limit]
        rfl
      · exact (raise_get_same .link x).trans (arise_of_inactive none)
      · exact raiseLink_quiet (s := x) ((mapBus_only (fun _ => b) s).follows follows) mains
      · exact ((mapBus_only (fun _ => b) s).mono (by decide)).trans (only.mono (by decide))
    case again =>
      have active : x.faultActive .link = true := yes
      rw [answer, State.linkCheck, if_pos limit, State.raise, if_pos active]
      show Host.Outcome.next (s.reported { x with faults := { s.faults with link := s.faults.link.arise } }) = _
      rw [arise_of_active yes]

end Sys2Proof.Machine
end

section
/-! PROOFS. Start-up: the inputs established in the mains window, and the end of the measurement (R198 to R201). -/

namespace Sys2Proof.Machine

/-! ## Inputs -/

/-- Settles O10: each input is established while it has no state, and only during the measurement. -/
theorem inputIsEstablishedOnce : Obligations.InputIsEstablishedOnce := by
  intro s
  refine ⟨fun measuring => ?during, fun other i => ?outside⟩
  case outside =>
    show Host.Outcome.next (if s.startup.stage = .measuring then (s.pinEstablished i).establish i else s) = _
    rw [if_neg other]
  case during =>
    have answer (i : EstablishedInput) : exec (.inputStateEstablished i) s = .next ((s.pinEstablished i).establish i) := by
      show Host.Outcome.next (if s.startup.stage = .measuring then (s.pinEstablished i).establish i else s) = _
      rw [if_pos measuring]
    have kept {α : Type} {o : Option α} (h : o ≠ none) : ∃ v, o = some v := Option.ne_none_iff_exists'.mp h
    refine ⟨fun d open_ => ?_, fun open_ => ⟨?_, ?_⟩, fun p open_ => ?_, fun k open_ => ?_, fun d given => ?_, fun p given => ?_,
      fun p given => ?_, fun k given => ?_⟩
    · simp only [answer, State.pinEstablished, State.establish, State.establishDoor, State.doorPin, State.setInputs, State.mapClimate,
        open_]
    · simp only [answer, State.pinEstablished, State.establish, State.mapSteam, Steam.establishLow, open_]
    · simp only [answer, State.pinEstablished, State.establish, State.mapSteam, Steam.establishLow, open_]
    · simp only [answer, State.pinEstablished, State.establish, State.mapSteam, Steam.establishHigh, open_]
    · simp only [answer, State.pinEstablished, State.establish, State.mapSteam, Steam.establishTank, open_]
    · obtain ⟨v, given⟩ := kept given
      simp only [answer, State.pinEstablished, State.establish, State.establishDoor, given]
    · obtain ⟨v, given⟩ := kept given
      simp only [answer, State.pinEstablished, State.establish, State.mapSteam, Steam.establishLow, given]
    · obtain ⟨v, given⟩ := kept given
      simp only [answer, State.pinEstablished, State.establish, State.mapSteam, Steam.establishHigh, given]
    · obtain ⟨v, given⟩ := kept given
      simp only [answer, State.pinEstablished, State.establish, State.mapSteam, Steam.establishTank, given]

/-! ## A part in which no program and no frame has started -/

/-- No program has been loaded, no frame runs, and the share engine listens: what the stages of start-up share. -/
structure State.Unstarted (s : State) : Prop where
  seq : s.seq = .reset
  load : s.load = { LoadFrame.reset with doorTimer := s.load.doorTimer }
  listens : s.share.state = .listen
  joined : s.cutOff = false

/-- A part that waits has not started. -/
theorem State.Waiting.unstarted {s : State} (h : s.Waiting) : s.Unstarted := by
  obtain ⟨-, -, link, duplicate, -⟩ := h.faults
  refine ⟨h.seq, h.load, by rw [h.share]; rfl, ?_⟩
  simp [State.cutOff, State.faultActive, FaultSet.get, link, duplicate, FaultRecord.clear]

namespace State.Unstarted

variable {s : State} (h : s.Unstarted)
include h

/-- No program is ACTIVE. -/
theorem activeRun_eq : s.activeRun = none := by simp [State.activeRun, h.seq, Sequencer.reset]

/-- There is no run state. -/
theorem runState_eq : s.runState = none := by simp [State.runState, State.hasActive, h.activeRun_eq]

/-- The ceiling is 0 already (R38). -/
theorem updateCeiling_eq : s.updateCeiling = s := by
  have now : s.ceilingNow = 0 := by rw [State.ceilingNow, State.activeStep, h.activeRun_eq]
  rw [State.updateCeiling, now, if_pos (by rw [h.load]; rfl)]

/-- The interruption timer is idle already (R134). -/
theorem keepInterruption_eq : s.keepInterruption = s := by
  have idle : s.seq.interruption = none := by rw [h.seq]; rfl
  simp only [State.keepInterruption, h.runState_eq, State.mapSeq, reduceCtorEq, or_self, if_false, ← idle]

/-- Nothing is withdrawn from no frame (R49). -/
theorem withdraw_eq (which : Load → Bool) : s.withdraw which = s := by
  have stopped : s.load.running = false := by rw [h.load]; rfl
  simp [State.withdraw, State.mapLoad, LoadFrame.withdraw, stopped]

/-- The gates are off already (R35). -/
theorem gatesOff_eq : s.gatesOff = s := by
  have off : s.load.gates = .all false := by rw [h.load]; rfl
  rw [State.gatesOff, State.mapLoad, ← off]

/-- There is no frame to end (R52). -/
theorem endFrame_eq : s.endFrame = s := by
  have stopped : s.load.running = false := by rw [h.load]; rfl
  simp [State.endFrame, stopped]

/-- A record that becomes active finds no program (R171). -/
theorem programFault_eq (k : FaultKind) : s.programFault k = s := by simp [State.programFault, State.activeProgram, h.activeRun_eq]

/-- In LISTEN the outage applies nothing at once (R24). -/
theorem mainsApply_eq : s.mainsApply = s := by
  have early : s.isolationDue = false := by simp [State.isolationDue, h.joined]
  have hold : s.mainsHold = s.share.hold := by rw [State.mainsHold, h.listens]
  have still : s.isolateIfDue = s := by rw [State.isolateIfDue, early]; rfl
  simp only [State.mainsApply, still, early, hold, Nat.lt_irrefl, decide_false, Bool.or_self, Bool.false_eq_true, if_false, ite_self]

/-- What follows from an event is the drain valve alone, where it may open (R91). -/
theorem runSettle_eq (idle : s.steam.handed = none) : s.runSettle = s.openDueValve := by
  have due : s.settleDue = s.valveDue := by
    simp [State.settleDue, State.prepareDue, State.phase, h.activeRun_eq, idle]
  have opened : s.openValve.Unstarted := ⟨h.seq, h.load, h.listens, h.joined⟩
  have settled : s.openValve.settleDue = false := by
    have phase : s.openValve.phase = none := by rw [State.phase, opened.activeRun_eq]; rfl
    have shut : s.openValve.valveDue = false := by simp [State.valveDue, State.openValve]
    have idle : s.openValve.steam.handed = none := idle
    simp [State.settleDue, State.prepareDue, phase, shut, idle]
  have turns : s.settleTurns settleBound = s.openDueValve := by
    rw [settleBound, State.settleTurns, due, h.keepInterruption_eq, State.settleTurns, State.openDueValve]
    by_cases valve : s.valveDue
    · rw [if_pos valve, if_pos valve, State.settleOnce, if_pos valve, settled]
      rfl
    · rw [if_neg valve, if_neg valve]
  have after : s.openDueValve.Unstarted := by
    unfold State.openDueValve
    split
    · exact opened
    · exact h
  rw [State.runSettle, turns, after.updateCeiling_eq, after.keepInterruption_eq]

end State.Unstarted

/-! ## The stages of the measurement's end -/

/-- A door not established is taken as OPEN (R198). -/
theorem establishDoor_rest (s : State) :
    s.establishDoor .opened = { s with climate := { s.climate with door := some (s.climate.door.getD .opened) } } := by
  unfold State.establishDoor State.mapClimate
  cases known : s.climate.door with
  | none => rfl
  | some d => exact congrArg (fun c => { s with climate := { s.climate with door := c } }) known

/-- A LOW probe not established is taken as WET, with the boiler STANDING and its drain owed (R98, R198). -/
theorem establishLow_rest (w : Steam) :
    w.establishLow .wet
      = { w with
          low := some (w.low.getD .wet)
          boiler := if w.low = none then .standing else w.boiler
          owed := if w.low = none then some .startUp else w.owed } := by
  unfold Steam.establishLow
  cases known : w.low with
  | none => rfl
  | some p => exact congrArg (fun l => { w with low := l }) known

/-- A HIGH probe not established is taken as WET (R198). -/
theorem establishHigh_rest (w : Steam) : w.establishHigh .wet = { w with high := some (w.high.getD .wet) } := by
  unfold Steam.establishHigh
  cases known : w.high with
  | none => rfl
  | some p => exact congrArg (fun l => { w with high := l }) known

/-- A tank not established is taken as ABSENT (R198). -/
theorem establishTank_rest (w : Steam) : w.establishTank .absent = { w with tank := some (w.tank.getD .absent) } := by
  unfold Steam.establishTank
  cases known : w.tank with
  | none => rfl
  | some k => exact congrArg (fun l => { w with tank := l }) known

/-- The four inputs after the window (R198). -/
theorem establishRest_eq (s : State) :
    s.establishRest
      = { s with
          climate := { s.climate with door := some (s.climate.door.getD .opened) }
          steam :=
            { s.steam with
              low := some (s.steam.low.getD .wet), high := some (s.steam.high.getD .wet)
              tank := some (s.steam.tank.getD .absent)
              boiler := if s.steam.low = none then .standing else s.steam.boiler
              owed := if s.steam.low = none then some .startUp else s.steam.owed } } := by
  simp only [State.establishRest, State.establish, State.mapSteam, establishDoor_rest, establishLow_rest, establishHigh_rest,
    establishTank_rest]

/-- The inputs after the window leave the part waiting. -/
theorem State.Waiting.establishRest {s : State} (h : s.Waiting) : s.establishRest.Waiting :=
  (((h.establish _).establish _).establish _).establish _

/-- A measurement that fixes no frequency sets MAINS, whose effects on a part that has not started are the examinations of the door
and the cooling fan (R67, R77, R198). -/
theorem raiseMains_eq {s : State} (h : s.Waiting) :
    s.raise .mains
      = { s with
          faults := { s.faults with mains := ⟨true, false, 1⟩ }
          climate := { s.climate with coolingFan := false, doorPending := false } } := by
  have inactive : s.faultActive .mains = false := h.mainsOut_eq
  have unstarted := h.unstarted
  have set : s.setFault .mains FaultRecord.arise = { s with faults := { s.faults with mains := ⟨true, false, 1⟩ } } := by
    simp only [State.setFault, State.mapFaults, FaultSet.set, FaultSet.get, h.faults.1]
    rfl
  let t : State := { s with faults := { s.faults with mains := ⟨true, false, 1⟩ } }
  let u : State := { t with climate := { s.climate with coolingFan := false, doorPending := false } }
  have begun : t.Unstarted := ⟨unstarted.seq, unstarted.load, unstarted.listens, unstarted.joined⟩
  have out : u.Unstarted := ⟨unstarted.seq, unstarted.load, unstarted.listens, unstarted.joined⟩
  have still : u.boilerMainsLoss = u := by
    have idle : u.steam.stroke = .idle := h.steam.2.2.2.1
    simp only [State.boilerMainsLoss, State.mapSteam, Steam.cutStroke, idle]
  have bars : t.barBoiler .mains = u := by
    show t.outputsDown = u
    rw [State.outputsDown, begun.gatesOff_eq, begun.endFrame_eq]
    exact still
  rw [State.raise, inactive, if_neg Bool.false_ne_true, set, State.faultBegins, begun.withdraw_eq, bars, out.programFault_eq,
    out.updateCeiling_eq, out.mainsApply_eq]

/-- The state once the frequency is measured, MAINS set where there is none (R198). -/
def State.frequencyFixed (f : Option Freq) (s : State) : State :=
  { s with
    startup := { s.startup with freq := f }
    faults := { s.faults with mains := if f.isNone then ⟨true, false, 1⟩ else s.faults.mains }
    climate :=
      { s.climate with
        coolingFan := if f.isNone then false else s.climate.coolingFan
        doorPending := if f.isNone then false else s.climate.doorPending } }

/-- The measurement's frequency, and MAINS where there is none (R198). -/
theorem measure_eq {s : State} (h : s.Waiting) (gap : Bool) :
    s.measure gap = s.frequencyFixed (measuredFreq s.startup.crossings gap) := by
  have waits (f : Option Freq) : (s.mapStartup (fun u => { u with freq := f })).Waiting :=
    ⟨h.stage, h.share, h.store, h.seq, h.bus, h.report, h.scale, h.load, h.climate, h.steam, h.writes, h.faults⟩
  unfold State.measure
  generalize measuredFreq s.startup.crossings gap = f
  cases f with
  | none => exact raiseMains_eq (waits none)
  | some f => rfl

/-- A measured part has not started. -/
theorem State.Waiting.frequencyFixed {s : State} (h : s.Waiting) (f : Option Freq) : (s.frequencyFixed f).Unstarted :=
  ⟨h.seq, h.load, h.unstarted.listens, h.unstarted.joined⟩

/-- The state with the contents of a record, RETAINED_RECORD raised where it was corrupt (R199). -/
def State.recordTaken (c : Contents) (corrupt : Bool) (s : State) : State :=
  { s with
    scale := s.scale.take c
    faults := { s.faults with retainedRecord := if corrupt then s.faults.retainedRecord.arise else s.faults.retainedRecord } }

/-- The record load (R199): RETAINED_RECORD has no effect on a part that has not started. -/
theorem loadRecord_eq {s : State} (h : s.Unstarted) :
    s.loadRecord = s.recordTaken s.retained.stored.load.1 s.retained.stored.load.2 := by
  unfold State.loadRecord
  generalize s.retained.stored.load = r
  obtain ⟨c, corrupt⟩ := r
  cases corrupt with
  | false => rfl
  | true =>
    let t : State := s.recordTaken c true
    have begun : t.Unstarted := ⟨h.seq, h.load, h.listens, h.joined⟩
    have begins : t.faultBegins .retainedRecord = t := by
      rw [State.faultBegins, begun.withdraw_eq]
      show (State.mainsApply (State.updateCeiling (t.programFault .retainedRecord))) = t
      rw [begun.programFault_eq, begun.updateCeiling_eq, begun.mainsApply_eq]
    show (if (s.mapScale (Scale.take c)).faultActive .retainedRecord then t else t.faultBegins .retainedRecord) = t
    rw [begins, ite_self]

/-- A part with its record loaded has not started. -/
theorem State.Unstarted.recordTaken {s : State} (h : s.Unstarted) (c : Contents) (corrupt : Bool) :
    (s.recordTaken c corrupt).Unstarted := ⟨h.seq, h.load, h.listens, h.joined⟩

/-! ## Entering service -/

/-- The start-up drain has started: it waits for its valve from now on (R94). -/
def Steam.drainBegun (w : Steam) : Steam := { w with drainStarted := true, drainServes := false, coolWait := some ⟨0, 0⟩ }

/-- Start-up in its last stage, its flap drive on and its reports rotating, but for the start-up drain (R201). -/
def State.staged (s : State) : State :=
  { s with
    startup := { s.startup with stage := .service }
    climate :=
      { s.climate with
        flapDriven := if s.startup.freq.isSome && !s.mainsOut then s.climate.flapCommand else s.climate.flapDriven }
    report := { s.report with rotating := true } }

/-- A staged part has not started a program. -/
theorem State.Unstarted.staged {s : State} (h : s.Unstarted) : s.staged.Unstarted := ⟨h.seq, h.load, h.listens, h.joined⟩

/-- A drain begun changes the steam generator alone. -/
theorem State.Unstarted.drainBegun {s : State} (h : s.Unstarted) : (s.mapSteam Steam.drainBegun).Unstarted :=
  ⟨h.seq, h.load, h.listens, h.joined⟩

/-- Entering service: the stages, and the drain of a STANDING boiler, whose valve opens where it may (R91, R94, R201). -/
theorem enterService_eq {s : State} (h : s.Unstarted) (cold : s.steam.soakHeating = false) (idle : s.steam.handed = none) :
    s.enterService
      = (if s.steam.boiler = .standing then s.staged.mapSteam Steam.drainBegun else s.staged).openDueValve := by
  have driven : (s.mapStartup (fun u => { u with stage := .service })).driveFlap.mapReport (fun u => { u with rotating := true })
      = s.staged := by
    have on : (s.mapStartup (fun u => { u with stage := .service })).flapDriveOn = (s.startup.freq.isSome && !s.mainsOut) := by
      simp [State.flapDriveOn, State.inService, State.mapStartup, State.mainsOut, State.faultActive]
    rw [State.driveFlap, on, State.staged]
    split <;> rfl
  rw [State.enterService, driven, State.startStandingDrain]
  by_cases standing : s.steam.boiler = .standing
  · have begun : s.staged.beginDrain false = s.staged.mapSteam Steam.drainBegun := by
      have still : s.staged.endSoak = s.staged := by rw [State.endSoak, if_neg]; exact ne_true_of_eq_false cold
      have rests : s.staged.steam.boiler.working = false := by
        show s.steam.boiler.working = false
        rw [standing]; rfl
      rw [State.beginDrain, still, rests]
      rfl
    rw [if_pos (show s.staged.steam.boiler = .standing from standing), if_pos standing, begun]
    exact h.staged.drainBegun.runSettle_eq idle
  · rw [if_neg (show ¬s.staged.steam.boiler = .standing from standing), if_neg standing]
    exact h.staged.runSettle_eq idle

/-- The start-up drain opens its valve at once where the boiler is cool by a valid temperature, the tank is there, and neither
DRAIN_TIMEOUT nor MAINS is active (R91). -/
theorem drainBegun_valveDue {s : State} (service : s.inService = true) :
    (s.mapSteam Steam.drainBegun).valveDue = true
      ↔ (∃ T, s.boilerInUse = some T ∧ T ≤ 800) ∧ s.tankPresent = true ∧ s.faultActive .drainTimeout = false
          ∧ s.mainsOut = false := by
  have cool : (s.mapSteam Steam.drainBegun).coolForDrain = true ↔ ∃ T, s.boilerInUse = some T ∧ T ≤ 800 := by
    show (match s.boilerInUse with
      | some t => decide (t ≤ 800)
      | none => false) = true ↔ _
    cases s.boilerInUse <;> simp
  show (s.inService && true && (s.mapSteam Steam.drainBegun).coolForDrain && s.tankPresent && !s.faultActive .drainTimeout
    && !s.mainsOut) = true ↔ _
  rw [service]
  simp only [Bool.and_true, Bool.true_and, Bool.and_eq_true, Bool.not_eq_true', cool, and_assoc]

/-! ## The end of the measurement -/

/-- The state before start-up's last stage: inputs, frequency and record (R198, R199). -/
def State.measured (gap : Bool) (s : State) : State :=
  (s.establishRest.frequencyFixed (measuredFreq s.startup.crossings gap)).recordTaken s.retained.stored.load.1
    s.retained.stored.load.2

/-- The stages before the last one, and what they change. -/
theorem measured_eq {s : State} (h : s.Waiting) (gap : Bool) : (s.establishRest.measure gap).loadRecord = s.measured gap := by
  have rest : s.establishRest.startup = s.startup ∧ s.establishRest.retained = s.retained := by
    rw [establishRest_eq]; exact ⟨rfl, rfl⟩
  rw [measure_eq h.establishRest, loadRecord_eq (h.establishRest.frequencyFixed _), rest.1]
  show State.recordTaken s.establishRest.retained.stored.load.1 s.establishRest.retained.stored.load.2 _ = _
  rw [rest.2]
  rfl

/-- A measured part has not started. -/
theorem State.Waiting.measured {s : State} (h : s.Waiting) (gap : Bool) : (s.measured gap).Unstarted :=
  (h.establishRest.frequencyFixed _).recordTaken _ _

/-- What a record of contents and check loads (R199). -/
theorem load_written (c : Contents) (check : Word16) :
    ((c.check = check ∧ c.hardness ≤ 30 ∧ c.load ≤ 1000000 ∧ c.soakCount ≤ 65535) →
        (StoredRecord.written c check).load = (c, false))
      ∧ (¬(c.check = check ∧ c.hardness ≤ 30 ∧ c.load ≤ 1000000 ∧ c.soakCount ≤ 65535) →
        (StoredRecord.written c check).load = (⟨15, 600000, true, 0⟩, true)) := by
  have range : (c.check = check ∧ c.inRange = true)
      ↔ c.check = check ∧ c.hardness ≤ 30 ∧ c.load ≤ 1000000 ∧ c.soakCount ≤ 65535 := by
    simp only [Contents.inRange, Bool.and_eq_true, decide_eq_true_eq, and_assoc]
    exact Iff.rfl
  exact ⟨fun good => if_pos (range.mpr good), fun bad => if_neg (fun good => bad (range.mp good))⟩

/-- A report handed to the queue of a part that has just reset stands alone in it (R190, R193). -/
theorem hand_reset (k : ReportKind) (frames : List (List Byte)) :
    BusLink.reset.hand (.report k) frames = { BusLink.reset with queue := [⟨.report k, frames, false, false⟩] } := rfl

/-- Entering service changes the water path beside what it stages. -/
theorem enterService_only {s : State} (h : s.Unstarted) (cold : s.steam.soakHeating = false) (idle : s.steam.handed = none) :
    Only [.boiler] s.staged s.enterService := by
  have begun : Only [.boiler] s.staged (s.staged.mapSteam Steam.drainBegun) := by
    intro a out
    cases a
    case boiler => exact absurd (by decide) out
    all_goals rfl
  rw [enterService_eq h cold idle]
  split
  · exact begun.trans (openDueValve_does _).only
  · exact (openDueValve_does _).only

/-- What the stages before the last one change. -/
theorem measured_only {s : State} (gap : Bool) :
    Only [.startup, .door, .doorPending, .probes, .tank, .boiler, .fault .mains, .fault .retainedRecord, .hardness, .scaleLoad,
      .soakCount, .scaleFlags, .rotation, .flap, .coolingFan] s (s.measured gap).staged := by
  intro a out
  rw [State.measured, establishRest_eq]
  cases a
  case fault k =>
    cases k
    case mains | retainedRecord => exact absurd (by decide) out
    all_goals rfl
  case startup | door | doorPending | probes | tank | boiler | hardness | scaleLoad | soakCount | scaleFlags | rotation | flap
      | coolingFan => exact absurd (by decide) out
  all_goals rfl

/-- Settles O11: the stages in their order, the drain of a STANDING boiler at their end, and the one FAULT report. -/
theorem measurementEnds : Obligations.MeasurementEnds := by
  intro gap s measuring before
  have waits : s.Waiting := before.waiting (by rw [measuring]; decide)
  obtain ⟨request, handed, soak, stroke, fillWait, boiler⟩ := waits.steam
  obtain ⟨mainsClear, drainClear, linkClear, duplicateClear, recordClear⟩ := waits.faults
  let m := s.measured gap
  let f := measuredFreq s.startup.crossings gap
  have frequency : m.startup = { s.startup with freq := f } := by
    simp only [m, State.measured, establishRest_eq, State.recordTaken, State.frequencyFixed, f]
  have steam : m.steam = s.establishRest.steam := rfl
  have mains : m.faults.mains = if f.isNone then ⟨true, false, 1⟩ else ⟨false, false, 0⟩ := by
    simp only [m, State.measured, establishRest_eq, State.recordTaken, State.frequencyFixed, f, mainsClear]
    rfl
  have mainsOut : m.staged.mainsOut = f.isNone := by
    show m.faults.mains.active = _
    rw [mains]
    cases f <;> rfl
  have record : m.faults.retainedRecord = if s.retained.stored.load.2 then ⟨true, false, 1⟩ else ⟨false, false, 0⟩ := by
    simp only [m, State.measured, establishRest_eq, State.recordTaken, State.frequencyFixed, recordClear]
    rfl
  have account : m.scale = Scale.take s.retained.stored.load.1 .reset := by
    simp only [m, State.measured, establishRest_eq, State.recordTaken, State.frequencyFixed, waits.scale]
  let u := m.enterService
  have cold : m.steam.soakHeating = false := by rw [steam, establishRest_eq]; exact soak
  have idle : m.steam.handed = none := by rw [steam, establishRest_eq]; exact handed
  have entered : Only [.boiler] m.staged u := enterService_only (waits.measured gap) cold idle
  let c := decide (u.faultView ≠ s.faultView)
  let t := u.handReportIf c .fault
  have handsOver : Only [.queue, .freeIndex] u t := (handReportIf_does c .fault u).only
  have answer : exec (.mainsMeasurementEnd gap) s = .next t := by
    show Host.Outcome.next (if s.startup.stage = .measuring then
      s.reportMeasured (((s.establishRest).measure gap).loadRecord).enterService else s) = _
    rw [if_pos measuring, measured_eq waits]
    rfl
  have startup : t.startup = m.staged.startup := handsOver.startup.trans entered.startup
  have climate : t.climate = m.staged.climate := handsOver.climate.trans entered.climate
  have faults : t.faults = m.faults := handsOver.faults.trans entered.faults
  refine ⟨t, answer, ?stage, ?inputs, ?mains, ?record, ?listens, ?rotates, ?flap, ?drain, ?door, ?reports, ?frame⟩
  case stage =>
    rw [startup]
    show { m.startup with stage := Stage.service } = _
    rw [frequency]
    rfl
  case inputs =>
    have probes := (entered .probes (by decide)).trans (handsOver .probes (by decide))
    have tank := (entered .tank (by decide)).trans (handsOver .tank (by decide))
    simp only [Same, Prod.mk.injEq] at probes tank
    rw [climate, probes.1, probes.2, tank]
    simp only [m, State.measured, establishRest_eq]
    exact ⟨rfl, rfl, rfl, rfl⟩
  case mains =>
    rw [startup, faults, mains]
    show _ = if m.startup.freq.isNone = true then _ else _
    rw [frequency]
  case record =>
    have scale : t.scale = m.scale := handsOver.scale.trans entered.scale
    rw [scale, faults, account, record]
    refine ⟨fun blank => ?blank, fun k check written => ⟨fun good => ?good, fun bad => ?corrupt⟩⟩
    case blank => rw [blank]; exact ⟨rfl, rfl⟩
    case good => rw [written, (load_written k check).1 good]; exact ⟨rfl, rfl⟩
    case corrupt => rw [written, (load_written k check).2 bad]; exact ⟨rfl, rfl⟩
  case listens =>
    have share : t.share = m.share := handsOver.share.trans entered.share
    rw [share]
    exact (waits.measured gap).listens
  case rotates =>
    have report : t.report = m.staged.report := handsOver.report.trans entered.report
    have reset : m.staged.report = { ReportUnit.reset with rotating := true } := by
      show { s.establishRest.report with rotating := true } = _
      rw [(waits.establishRest).report]
    rw [report, reset]
    exact ⟨rfl, rfl⟩
  case flap =>
    have commanded : m.climate.flapCommand = s.climate.flapCommand ∧ m.climate.flapDriven = s.climate.flapDriven := by
      simp only [m, State.measured, establishRest_eq]
      exact ⟨rfl, rfl⟩
    rw [climate, startup]
    show (if m.startup.freq.isSome && !m.staged.mainsOut then m.climate.flapCommand else m.climate.flapDriven)
      = if m.startup.freq.isSome then _ else _
    rw [commanded.1, commanded.2, mainsOut, frequency]
    cases f <;> rfl
  case drain =>
    intro water
    have standing : m.steam.boiler = .standing := by
      rw [steam, establishRest_eq]
      show (if s.steam.low = none then BoilerState.standing else s.steam.boiler) = _
      split
      · rfl
      · exact water.resolve_right ‹_›
    have opens : u = (m.staged.mapSteam Steam.drainBegun).openDueValve := by
      show m.enterService = _
      rw [enterService_eq (waits.measured gap) cold idle, if_pos standing]
    have inUse : m.staged.boilerInUse = s.boilerInUse := by
      show (if m.faults.boilerSensor.active then none else m.steam.lastBoiler) = _
      simp only [m, State.measured, establishRest_eq]
      rfl
    have present : t.tankPresent = m.staged.tankPresent := by
      have tank := (entered .tank (by decide)).trans (handsOver .tank (by decide))
      simp only [Same] at tank
      rw [State.tankPresent, tank]
      rfl
    have fixed : t.startup.freq.isSome = true ↔ m.staged.mainsOut = false := by
      rw [startup, mainsOut]
      show m.startup.freq.isSome = true ↔ _
      rw [frequency]
      cases f <;> simp
    have drained : m.staged.faultActive .drainTimeout = false := by
      show m.faults.drainTimeout.active = false
      simp only [m, State.measured, establishRest_eq, State.recordTaken, State.frequencyFixed, drainClear]
      rfl
    have due := drainBegun_valveDue (s := m.staged) rfl
    rw [inUse, ← present, ← fixed] at due
    have steam : t.steam = u.steam := handsOver.steam
    rw [steam, opens, State.openDueValve]
    by_cases valve : (m.staged.mapSteam Steam.drainBegun).valveDue = true
    · obtain ⟨cool, tank, -, freq⟩ := due.mp valve
      rw [if_pos valve, if_pos ⟨cool, tank, freq⟩]
      exact ⟨rfl, rfl⟩
    · have shut : ¬((∃ T, s.boilerInUse = some T ∧ T ≤ 800) ∧ t.tankPresent = true ∧ t.startup.freq.isSome = true) :=
        fun ⟨cool, tank, freq⟩ => valve (due.mpr ⟨cool, tank, drained, freq⟩)
      rw [if_neg valve, if_neg shut]
      exact ⟨standing, rfl, rfl⟩
  case door =>
    have pending : m.climate.doorPending = if f.isNone then false else s.climate.doorPending := by
      simp only [m, State.measured, establishRest_eq]
      rfl
    rw [climate, startup]
    show m.climate.doorPending = if m.startup.freq.isSome then _ else _
    rw [pending, frequency]
    cases f <;> rfl
  case reports =>
    have bus : u.bus = s.bus := by
      have same : m.staged.bus = s.bus := (measured_only gap).bus
      exact entered.bus.trans same
    have uFaults : u.faults = m.faults := entered.faults
    have rest : m.faults = { s.faults with mains := m.faults.mains, retainedRecord := m.faults.retainedRecord } := by
      simp only [m, State.measured, establishRest_eq]
      rfl
    have raised : u.faultView ≠ s.faultView ↔ t.faults.mains.active = true ∨ t.faults.retainedRecord.active = true := by
      rw [State.faultView, State.faultView, uFaults, faults, rest, mains, record]
      cases f <;> cases s.retained.stored.load.2 <;>
        simp [FaultKind.all, FaultSet.get, mainsClear, recordClear, FaultRecord.clear]
    refine ⟨fun yes => ?_, fun no => ?_⟩
    · have handed : t = u.handReport .fault := if_pos (decide_eq_true (raised.mpr yes))
      rw [handReport_inService (enterService_inService m)] at handed
      have contents : t.faultContents = u.faultContents := by
        rw [handed, State.faultContents, State.faultContents]
        dsimp only
        rw [bus, waits.bus, hand_reset]
      rw [contents, handed]
      show u.bus.hand _ (reportFrames u.faultContents) = _
      rw [bus]
    · have quiet : t = u := if_neg (by simpa [c] using fun differ => no (raised.mp differ))
      rw [quiet, bus]
  case frame => exact (measured_only gap).mono.trans (entered.mono.trans handsOver.mono)

end Sys2Proof.Machine
end

section
/-! PROOFS. Reports: what the five kinds carry, their pages, and what one event hands (R181 to R187, R196). -/

namespace Sys2Proof.Machine

/-! ## Contents -/

/-- The program kind codes (R195). -/
theorem programKind_code (k : ProgramKind) : (if k = .service then 1 else 0) = k.code := by cases k <;> rfl

/-- A temperature's two bytes (R196, log 33). -/
theorem tenthsBytes_eq (t : Int) :
    tenthsBytes t = [BitVec.ofNat 8 ((t % 65536).toNat / 256), BitVec.ofNat 8 (t % 65536).toNat] := by
  rw [tenthsBytes, BitVec.toNat_ofInt]
  rfl

/-- A reading takes two bytes (R196). -/
theorem readingBytes_length (s : State) (n : Nat) (v : Option Int) : (s.readingBytes n v).length = 2 := by
  cases v <;> rfl

/-- A slot takes six bytes (R196). -/
theorem slotBytes_length (s : State) (n : Nat) (v : Slot) : (s.slotBytes n v).length = 6 := by
  cases v <;> rfl

/-- The lengths of the contents (R180). -/
theorem contents_length (s : State) :
    [ReportKind.climate, .program, .water, .share, .fault].map (fun k => (s.contents k).length) = [26, 31, 17, 15, 25] := by
  simp [State.contents, State.climateContents, State.programContents, State.waterContents, State.shareContents,
    State.faultContents, readingBytes_length, slotBytes_length, perLoadBytes, PerLoad.toList, bytesOf16, bytesOf24, optWord,
    FaultKind.all, FaultRecord.bytes]

/-! ## What one event hands -/

/-- A report handed under a condition, once start-up has reached LISTEN (R181, R183). -/
theorem handReportIf_inService {s : State} (h : s.inService = true) {c p : Prop} [Decidable c] [Decidable p] (same : c ↔ p)
    (k : ReportKind) :
    s.handReportIf (decide c) k
      = if p then { s with bus := s.bus.hand (.report k) (reportFrames (s.contents k)), freeIndex := s.freeIndex + 16 }
        else s := by
  rw [State.handReportIf, handReport_inService h]
  simp only [decide_eq_true_eq, same]

/-- What calls a PROGRAM report (R183). -/
theorem programView_ne_iff (s t : State) :
    t.programView ≠ s.programView
      ↔ t.store.slot0.code ≠ s.store.slot0.code ∨ t.store.slot1.code ≠ s.store.slot1.code
        ∨ t.runState ≠ s.runState ∨ t.doorHold ≠ s.doorHold ∨ t.tankHold ≠ s.tankHold
        ∨ t.probeHold ≠ s.probeHold ∨ t.activeRun.map Prod.fst ≠ s.activeRun.map Prod.fst
        ∨ t.seq.prompt ≠ s.seq.prompt ∨ t.report.chainRefusal ≠ s.report.chainRefusal := by
  simp only [State.programView, ne_eq, ProgramView.mk.injEq, not_and_or]

/-- What calls a WATER report (R183). -/
theorem waterView_ne_iff (s t : State) :
    t.waterView ≠ s.waterView
      ↔ t.scaleWarning ≠ s.scaleWarning ∨ t.scaleLock ≠ s.scaleLock ∨ t.scale.rinseOwed ≠ s.scale.rinseOwed
        ∨ t.scale.soakCount ≠ s.scale.soakCount := by
  simp only [State.waterView, ne_eq, WaterView.mk.injEq, not_and_or]

/-- What calls a FAULT report (R183). -/
theorem faultView_ne_iff (s t : State) : t.faultView ≠ s.faultView ↔ ∃ k ∈ FaultKind.all, t.faults.get k ≠ s.faults.get k := by
  simp only [State.faultView, ne_eq, List.map_inj_left, not_forall, exists_prop]

/-- Settles O15: the rotation, the three reports of an event in their order, the pages, and the contents field by field. -/
theorem reports : Obligations.Reports := by
  refine ⟨fun s => ⟨fun still => ?still, fun quiet => ?quiet, fun service rotating loud => ?rotates⟩,
    ?event, ?paged, ?contents⟩
  case still => exact congrArg Host.Outcome.next (show s.rotate = s from if_pos (.inl still))
  case quiet => exact congrArg Host.Outcome.next (show s.rotate = s from if_pos (.inr quiet))
  case rotates =>
    have turns : s.rotate = (s.handReport s.report.rotation).mapReport (fun u => { u with rotation := u.rotation.next }) :=
      if_neg (by simp [rotating, loud])
    rw [handReport_inService service] at turns
    refine ⟨s.rotate, rfl, ?_, ?_, ?_⟩
    · rw [turns]; rfl
    · rw [turns]
      show s.report.rotation.next = _
      cases s.report.rotation <;> rfl
    · obtain ⟨_, ⟨⟩, does⟩ := exec_answers .rotationReport s
      exact does.only
  case event =>
    intro before after program water fault hand first second
    refine ⟨fun down => by simp only [State.reported, State.handReportIf, handReport_before down, ite_self], fun service => ?_⟩
    have one : after.handReportIf (decide (after.programView ≠ before.programView)) .program = first :=
      handReportIf_inService service (programView_ne_iff before after) .program
    have service1 : first.inService = true := by
      simp only [first]
      split <;> exact service
    have two : first.handReportIf (decide (after.waterView ≠ before.waterView)) .water = second :=
      handReportIf_inService service1 (waterView_ne_iff before after) .water
    have service2 : second.inService = true := by
      simp only [second]
      split <;> exact service1
    rw [State.reported, one, two]
    exact handReportIf_inService service2 (faultView_ne_iff before after) .fault
  case paged =>
    intro bytes any few page n m
    exact ⟨pages_eq [] 7 (by decide) bytes any (by omega), pages_eq [16#8, 0#8] 5 (by decide) bytes any (by omega)⟩
  case contents =>
    intro s byte word flag tenths four modes boilers shares answers kind outcome header slot run position
    have modeCode : Mode.code = modes.idxOf := funext (fun m => (mode_code m).symm)
    have phaseCode (p : Phase) : p.code = [Phase.promptIn, .prepare, .preheat, .count, .promptOut, .vent].idxOf p :=
      (phase_code p).symm
    have endCode : EndKind.code = [EndKind.timed, .banded, .core, .promptOnly].idxOf := funext (fun e => (endKind_code e).symm)
    have answerCode : AnswerCode.number = answers.idxOf := funext (fun a => (answer_code a).symm)
    have kindCode (k : ProgramKind) : k.code = kind k := (programKind_code k).symm
    have reading (n : Nat) (v : Option Int) : s.readingBytes n v = tenths n v := by
      cases v with
      | none => rfl
      | some t => exact tenthsBytes_eq t
    have outcomeByte (o : ProgramOutcome) : o.byte = outcome o := by
      cases o with
      | finished => rfl
      | aborted c => exact congrArg (32 + ·) (abort_code c).symm
    have slotBytes (n : Nat) (v : Slot) : s.slotBytes n v = slot n v := by
      cases v
      case empty => rfl
      all_goals simp only [State.slotBytes, Slot.program, Slot.code, Slot.outcomeByte, kindCode, outcomeByte] <;> rfl
    have runByte : s.runByte = run := by
      have coded : runStateCode s.runState
          = (match s.runState with
            | none => 0
            | some v => 1 + [RunState.running, .held, .paused, .stopping].idxOf v) := by
        cases s.runState with
        | none => rfl
        | some v => exact (run_code v).symm
      simp only [State.runByte, coded, run, Nat.mul_comm 32] <;> rfl
    refine ⟨?climate, ?program, ?water, ?share, ?fault, contents_length s⟩
    case climate =>
      show s.climateContents = _
      simp only [State.climateContents, reading, runByte, modeCode, ← core_code, List.append_assoc, List.cons_append,
        List.nil_append]
      rfl
    case program =>
      have value : s.store.lastOutcome.value.byte
          = (match s.store.lastOutcome.value with
            | .ended o => outcome o
            | .powerDownNone => 35) := by
        cases s.store.lastOutcome.value with
        | ended o => exact outcomeByte o
        | powerDownNone => rfl
      show s.programContents = _
      simp only [State.programContents, slotBytes, runByte, value, phaseCode, endCode, answerCode, kindCode, List.append_assoc,
        List.cons_append, List.nil_append]
      rfl
    case water =>
      have tank (v : Option Tank) (w : Option TankWait) :
          tankByte v w
            = (match v with
                | some (.present level) => 128 + 32 * [TankLevel.empty, .low, .ok].idxOf level
                | _ => 96)
              + 8 * (match w with
                | none => 0
                | some c => 1 + [TankWait.absent, .empty, .budget].idxOf c) := by
        have presence : (match v with
            | some (.present .empty) => 128
            | some (.present .low) => 128 + 32
            | some (.present .ok) => 128 + 64
            | some .absent => 96
            | none => 96)
            = (match v with
                | some (.present level) => 128 + 32 * [TankLevel.empty, .low, .ok].idxOf level
                | _ => 96) := by
          rcases v with _ | ⟨⟩ | ⟨⟨⟩⟩ <;> rfl
        have cause : (match w with
            | none => 0
            | some .absent => 1
            | some .empty => 2
            | some .budget => 3)
            = (match w with
                | none => 0
                | some c => 1 + [TankWait.absent, .empty, .budget].idxOf c) := by
          rcases w with _ | ⟨⟨⟩⟩ <;> rfl
        rw [← presence, ← cause, Nat.mul_comm]
        rfl
      show s.waterContents = _
      simp only [State.waterContents, reading, tank, ← boiler_code, List.append_assoc, List.cons_append, List.nil_append]
      rfl
    case share =>
      show s.shareContents = _
      simp only [State.shareContents, ← share_code, List.append_assoc, List.cons_append, List.nil_append]
      rfl
    case fault =>
      show s.faultContents = _
      simp only [State.faultContents, List.flatMap_map]
      rfl

end Sys2Proof.Machine
end

section
/-! PROOFS. Received frames: the peer table (R6 to R11), frames that are not taken (R175, R189, R192), the duplicate station
(R170). -/

namespace Sys2Proof.Machine

/-! ## What a received frame does -/

/-- The state at a frame's end (R31, R189). -/
theorem frameEnds_eq (s : State) :
    s.frameEnds
      = { s with bus := { s.bus with link := .idle, awaitGap := false }, share := { s.share with lfsr := lfsrNext s.share.lfsr } } :=
  rfl

/-- A frame's end starts no report of its own. -/
theorem frameEnds_reported (s : State) : s.reported s.frameEnds = s.frameEnds := reported_of_views (s := s) (t := s.frameEnds) rfl rfl rfl

/-- A frame is taken while the part receives (R189). -/
theorem receive_good {f : RxFrame} {s : State} (receives : s.receives = true) (back : Returning) :
    s.receive f back = s.reported (s.receiveGood f back) := if_pos receives

/-- While the part does not receive a frame is lost (R189). -/
theorem receive_lost {f : RxFrame} {s : State} (receives : s.receives = false) (back : Returning) : s.receive f back = s :=
  if_neg (ne_true_of_eq_false receives)

/-- A good frame with no taker ends and no more (R192). -/
theorem receive_notTaken {f : RxFrame} {s : State} (receives : s.receives = true) (back : Returning)
    (notTaken : s.receiveGood f back = s.frameEnds) : s.receive f back = s.frameEnds := by
  rw [receive_good receives, notTaken, frameEnds_reported]

/-- An announcement of another station is heard (R7, R192). -/
theorem receiveGood_announce {src : Nat} {payload : List Byte} {s : State} (other : src ≠ s.station) :
    s.receiveGood (announceFrame src payload)
      = if payload.length = 6 ∧ s.usesAnnouncement src (.ofPayload payload) = true then
          s.frameEnds.recordPeer (.ofPayload payload)
        else s.frameEnds := by
  have own : ¬src = s.frameEnds.station := other
  simp only [State.receiveGood, announceFrame, if_neg own, or_true, if_true, State.takeFrame, and_self, State.hearAnnounce]
  rfl

/-- The announcements that the share engine uses (R10). -/
theorem usesAnnouncement_iff {src : Nat} {a : Announcement} {s : State} (other : src ≠ s.station) :
    s.usesAnnouncement src a = true ↔ (1 ≤ a.station ∧ a.station ≤ 30) ∧ a.station = src := by
  simp only [State.usesAnnouncement, Bool.and_eq_true, decide_eq_true_eq]
  exact ⟨fun ⟨known, _⟩ => known, fun known => ⟨known, known.2 ▸ other⟩⟩

/-! ## LOADING slots of stations that are gone (R102) -/

/-- One slot given up is EMPTY, and the other stays. -/
theorem abandonSlot_slot (gone : List Nat) (ix jx : SlotIx) (t : Store) :
    (t.abandonSlot gone ix).slot jx
      = if jx = ix ∧ (t.slot ix).loadsFor gone = true then .empty else t.slot jx := by
  unfold Store.abandonSlot
  cases held : t.slot ix with
  | loading p =>
    by_cases g : gone.contains p.originator = true
    · cases ix <;> cases jx <;> simp_all [Slot.loadsFor, Store.emptySlot, Store.freeStaging, Store.setSlot, Store.slot]
    · simp_all [Slot.loadsFor]
  | empty | ready p | active p | done p o => simp [Slot.loadsFor]

/-- The slots given up are EMPTY, and the others stay (R102). -/
theorem abandon_slot (gone : List Nat) (jx : SlotIx) (t : Store) :
    (t.abandon gone).slot jx = if (t.slot jx).loadsFor gone = true then .empty else t.slot jx := by
  unfold Store.abandon
  cases jx <;> simp [abandonSlot_slot]

/-- The slots that are given up. -/
theorem loadsFor_iff (gone : List Nat) (v : Slot) : v.loadsFor gone = true ↔ ∃ p, v = .loading p ∧ p.originator ∈ gone := by
  cases v <;> simp [Slot.loadsFor]

/-! ## The peer table (R7 to R9) -/

/-- The entry that a full table gives up is found where the silent counts before it are lower and those behind it no higher
(R9). -/
theorem evicted_at {l r : List Peer} {g : Peer} (gone : 3 ≤ g.silent) (before : ∀ p ∈ l, p.silent < g.silent)
    (behind : ∀ p ∈ r, p.silent ≤ g.silent) : evicted (l ++ g :: r) = some g := by
  have fold (q : List Peer) (n : Nat) (le : ∀ p ∈ q, p.silent ≤ g.silent) (start : n ≤ g.silent) :
      q.foldl (fun n p => max n p.silent) n ≤ g.silent := by
    induction q generalizing n with
    | nil => exact start
    | cons p q ih =>
      exact ih (max n p.silent) (fun x m => le x (List.mem_cons_of_mem _ m)) (Nat.max_le.mpr ⟨start, le p List.mem_cons_self⟩)
  have grows (q : List Peer) (n : Nat) : n ≤ q.foldl (fun n p => max n p.silent) n := by
    induction q generalizing n with
    | nil => exact Nat.le_refl n
    | cons p q ih => exact Nat.le_trans (Nat.le_max_left n p.silent) (ih _)
  have highest : highestSilent (l ++ g :: r) = g.silent := by
    refine Nat.le_antisymm (fold _ 0 (fun p m => ?_) (Nat.zero_le _)) ?_
    · obtain m | ⟨⟩ | ⟨_, m⟩ := (List.mem_append.mp m)
      · exact Nat.le_of_lt (before p m)
      · exact Nat.le_refl _
      · exact behind p m
    · rw [highestSilent, List.foldl_append, List.foldl_cons]
      exact Nat.le_trans (Nat.le_max_right _ _) (grows r _)
  refine List.find?_eq_some_iff_append.mpr ⟨?_, l, r, rfl, fun p m => ?_⟩
  · simp [Peer.gone, gone, highest]
  · have lower := before p m
    simp only [highest, Bool.not_eq_true', Bool.and_eq_false_iff, decide_eq_false_iff_not]
    exact .inr (Nat.ne_of_lt lower)

/-- A table without a GONE entry gives none up (R9). -/
theorem evicted_none {peers : List Peer} (counted : ∀ p ∈ peers, p.silent ≤ 2) : evicted peers = none := by
  refine List.find?_eq_none.mpr fun p m => ?_
  have few := counted p m
  simp only [Peer.gone, Bool.and_eq_true, decide_eq_true_eq]
  omega

/-- The table without an entry's station is the table without the entry. -/
theorem filter_station {l r : List Peer} {g : Peer} (nodup : ((l ++ g :: r).map Peer.station).Nodup) :
    (l ++ g :: r).filter (fun p => decide (p.station ≠ g.station)) = l ++ r := by
  rw [List.map_append, List.map_cons] at nodup
  have apart := List.nodup_middle.mp nodup
  rw [List.nodup_cons, ← List.map_append, List.mem_map] at apart
  have keep (q : List Peer) (sub : ∀ p ∈ q, p ∈ l ++ r) : q.filter (fun p => decide (p.station ≠ g.station)) = q :=
    List.filter_eq_self.mpr fun p m => decide_eq_true fun same => apart.1 ⟨p, sub p m, same⟩
  rw [List.filter_append, List.filter_cons_of_neg (by simp), keep l (fun p m => List.mem_append_left r m),
    keep r (fun p m => List.mem_append_right l m)]

/-- The share engine's table fields replaced. -/
theorem mapShare_peers_only {f : Share → Share} {s : State}
    (same : (f s.share) = { s.share with
      peers := (f s.share).peers, tableFull := (f s.share).tableFull, newcomer := (f s.share).newcomer }) :
    Only [.peers] s (s.mapShare f) := by
  intro a out
  cases a
  case peers => exact absurd (by decide) out
  case lfsr => exact (congrArg Share.lfsr same : _)
  case coolDown => exact (congrArg Share.coolDown same : _)
  case sharing =>
    simp only [Same, State.mapShare, Prod.mk.injEq]
    rw [same]
    simp
  all_goals rfl

/-- What a known station announces updates its entry (R7). -/
theorem recordPeer_known {a : Announcement} {s : State} (known : ∃ p ∈ s.share.peers, p.station = a.station) :
    s.recordPeer a = s.setPeers (s.share.peers.map (fun p => if p.station = a.station then p.hear a else p)) :=
  if_pos (by simpa using known)

/-- A new station joins a table with room (R8). -/
theorem recordPeer_joins {a : Announcement} {s : State} (new : ¬∃ p ∈ s.share.peers, p.station = a.station)
    (room : s.share.peers.length < 15) : s.recordPeer a = s.setPeers (s.share.peers ++ [.ofAnnouncement a]) := by
  rw [State.recordPeer, if_neg (by simpa using new), if_pos (show s.share.peers.length < peerCapacity from room)]

/-- A new station finds a full table: what becomes of the table is decided by the entry it can give up (R9). -/
theorem recordPeer_evicts {a : Announcement} {s : State} {g : Peer} (new : ¬∃ p ∈ s.share.peers, p.station = a.station)
    (full : s.share.peers.length = 15) (given : evicted s.share.peers = some g) :
    s.recordPeer a
      = (s.setPeers (s.share.peers.filter (fun p => decide (p.station ≠ g.station)) ++ [.ofAnnouncement a])).mapStore
          (Store.abandon [g.station]) := by
  rw [State.recordPeer, if_neg (by simpa using new), if_neg (show ¬s.share.peers.length < peerCapacity by rw [full]; decide),
    given]

/-- A new station finds a full table with no GONE entry: the table is marked full (R9). -/
theorem recordPeer_full {a : Announcement} {s : State} (new : ¬∃ p ∈ s.share.peers, p.station = a.station)
    (full : s.share.peers.length = 15) (kept : evicted s.share.peers = none) :
    s.recordPeer a = s.mapShare (fun h => { h with tableFull := true, newcomer := 0 }) := by
  rw [State.recordPeer, if_neg (by simpa using new), if_neg (show ¬s.share.peers.length < peerCapacity by rw [full]; decide),
    kept]

/-- Settles O16: a known station, a table with room, a table that stays full, and one that gives up an entry. -/
theorem announcementReceived : Obligations.AnnouncementReceived := by
  intro src payload s receives six other a range own legal new known
  let x : State := s.frameEnds
  have ended : Only [.link, .lfsr] s x := (frameEnds_does s).only
  have answer : exec (.announcementReceived src payload) s = .next (s.reported (x.recordPeer a)) := by
    show Host.Outcome.next (s.receive (announceFrame src payload)) = _
    rw [receive_good receives, receiveGood_announce other, if_pos ⟨six, (usesAnnouncement_iff other).mpr ⟨range, own⟩⟩]
  have does : Only [.peers, .slots, .staging] x (x.recordPeer a) :=
    (recordPeer_does (ofPayload_inRange payload) range (own ▸ other)).only
  have link := does .link (by decide)
  simp only [Same, Prod.mk.injEq] at link
  refine ⟨x.recordPeer a, answer, link.1, does .lfsr (by decide), fun old => ?known, fun fresh room => ?joins,
    fun fresh full counted => ?full, fun fresh full l g r table gone before behind => ?evicts⟩
  case known =>
    rw [recordPeer_known (s := x) (by rw [own]; exact old)]
    refine ⟨List.map_congr_left fun p m => ?_, ?_, rfl, rfl⟩
    · simp only [own]
      by_cases same : p.station = src
      · rw [if_pos same, if_pos same]
        subst same
        rfl
      · rw [if_neg same, if_neg same]
    · exact (ended.mono (by decide)).trans ((mapShare_peers_only (by rfl)).mono (by decide))
  case joins =>
    rw [recordPeer_joins (s := x) (by rw [own]; exact fresh) room]
    exact ⟨rfl, (ended.mono (by decide)).trans ((mapShare_peers_only (by rfl)).mono (by decide)), rfl, rfl⟩
  case full =>
    have kept : evicted x.share.peers = none := evicted_none counted
    rw [recordPeer_full (s := x) (by rw [own]; exact fresh) full kept]
    exact ⟨rfl, rfl, rfl, (ended.mono (by decide)).trans ((mapShare_peers_only (by rfl)).mono (by decide))⟩
  case evicts =>
    have given : evicted x.share.peers = some g := by
      show evicted s.share.peers = some g
      rw [table]
      exact evicted_at gone before behind
    have rest : x.share.peers.filter (fun p => decide (p.station ≠ g.station)) = l ++ r := by
      show s.share.peers.filter _ = _
      obtain ⟨-, nodup, -⟩ := legal
      rw [table] at nodup ⊢
      exact filter_station nodup
    have moved := recordPeer_evicts (s := x) (a := a) (by rw [own]; exact fresh) full given
    rw [rest] at moved
    have slot (ix : SlotIx) : (x.recordPeer a).store.slot ix
        = if (s.store.slot ix).loadsFor [g.station] = true then .empty else s.store.slot ix := by
      rw [moved]
      exact abandon_slot [g.station] ix s.store
    have loads (ix : SlotIx) : (s.store.slot ix).loadsFor [g.station] = true
        ↔ ∃ p, s.store.slot ix = .loading p ∧ p.originator = g.station := by
      simp only [loadsFor_iff, List.mem_singleton]
    refine ⟨by rw [moved]; rfl, by rw [moved]; rfl, by rw [moved]; rfl, fun ix yes => ?_, fun ix no => ?_, ?_, ?_⟩
    · rw [slot, if_pos ((loads ix).mpr yes)]
    · rw [slot, if_neg (fun h => no ((loads ix).mp h))]
    · have emptied (v : Slot) : v.loadsFor [g.station]
          = (match v with
              | .loading p => decide (p.originator = g.station)
              | _ => false) := by
        cases v <;> simp [Slot.loadsFor]
      rw [moved]
      refine (abandon_staging [g.station] s.store).trans (List.filter_congr fun e _ => ?_)
      rw [emptied, emptied] <;> rfl
    · exact (ended.mono (by decide)).trans (does.mono (by decide))

/-! ## Frames that are not taken (R175, R189, R192) -/

/-- What a report shows is the same once QUIET has been left. -/
theorem heard_reported (s : State) : s.reported s.heard = s.heard := by
  refine reported_of_views (s := s) (t := s.heard) ?_ ?_ ?_
  · have tank : s.heard.tankHold = s.tankHold := by
      simp only [State.tankHold, State.tankWait, State.drainInHand, State.tankPresent, heard_hasActive, heard_steam] <;> rfl
    have door : s.heard.doorHold = s.doorHold := by simp only [State.doorHold, State.doorOpen, heard_hasActive, heard_climate]
    have probe : s.heard.probeHold = s.probeHold := by simp only [State.probeHold, heard_hasActive, heard_seq]
    simp only [State.programView, tank, door, probe, heard_store, heard_runState, heard_activeRun, heard_seq, heard_report]
  · simp only [State.waterView, State.scaleWarning, State.scaleLock, heard_scale]
  · simp only [State.faultView, heard_faults]

/-- Settles O17: each kind of frame that has no taker, and the frames lost while a quiet gap is awaited. -/
theorem framesThatAreNotTaken : Obligations.FramesThatAreNotTaken := by
  intro s receives ended
  have idles {f : RxFrame} (notTaken : s.receiveGood f = s.frameEnds) :
      exec (.frameNotAccepted f) s = .next ended ∧ exec (.frameDropped f) s = .next ended := by
    have lost := receive_notTaken receives .nothing notTaken
    exact ⟨congrArg Host.Outcome.next lost, congrArg Host.Outcome.next lost⟩
  refine ⟨fun src payload other unused => ?ignored, fun f other unknown => ?unknown, fun f other cls kind dst empty => ?empty,
    ?bad, ?abandoned, ?waiting⟩
  case ignored =>
    refine congrArg Host.Outcome.next (receive_notTaken receives .nothing ?_)
    refine (receiveGood_announce other).trans (if_neg ?_)
    rintro ⟨six, used⟩
    obtain ⟨range, own⟩ := (usesAnnouncement_iff other).mp used
    obtain low | high | differs := unused six
    · omega
    · omega
    · exact differs own
  case unknown =>
    refine idles ?_
    have own : ¬f.src = s.frameEnds.station := other
    rw [State.receiveGood, if_neg own]
    obtain elsewhere | noTaker | short := unknown
    · exact if_neg (fun h => h.elim elsewhere.1 elsewhere.2)
    · have untaken : s.frameEnds.takeFrame f = s.frameEnds := by
        rw [State.takeFrame, if_neg (fun h => noTaker (.inl h)), 
          if_neg (show ¬(f.cls = 1 ∧ f.kind = 0 ∧ f.dst = s.frameEnds.station) from fun h => noTaker (.inr h))]
      rw [untaken, ite_self]
    · obtain ⟨cls, kind, length⟩ := short
      have unheard : s.frameEnds.takeFrame f = s.frameEnds := by
        rw [State.takeFrame, if_pos ⟨cls, kind⟩, State.hearAnnounce, if_neg (fun h => length h.1)]
      rw [unheard, ite_self]
  case empty =>
    have own : ¬f.src = s.frameEnds.station := other
    have taken : s.receiveGood f = s.heard := by
      rw [State.receiveGood, if_neg own, if_pos (.inl dst), State.takeFrame, if_neg (by simp [cls]),
        if_pos (show f.cls = 1 ∧ f.kind = 0 ∧ f.dst = s.frameEnds.station from ⟨cls, kind, dst⟩), empty]
      rfl
    show Host.Outcome.next (s.receive f) = _
    rw [receive_good receives, taken, heard_reported]
  case bad =>
    show Host.Outcome.next (if s.receives then s.mapBus (BusLink.countBad false) else s) = _
    rw [if_pos receives]
    rfl
  case abandoned =>
    show Host.Outcome.next (if s.receives then s.mapBus (BusLink.countBad true) else s) = _
    rw [if_pos receives]
    rfl
  case waiting =>
    intro waits
    have deaf : waits.receives = false := Bool.and_false _
    have lost (f : RxFrame) : waits.receive f = waits := receive_lost deaf .nothing
    have uncounted (b : Bool) : (if waits.receives then waits.mapBus (BusLink.countBad b) else waits) = waits :=
      if_neg (ne_true_of_eq_false deaf)
    exact ⟨fun f => ⟨congrArg Host.Outcome.next (lost f), congrArg Host.Outcome.next (lost f)⟩,
      congrArg Host.Outcome.next (uncounted false), congrArg Host.Outcome.next (uncounted true)⟩

/-! ## The duplicate station (R170, R179) -/

/-- DUPLICATE_STATION is active. -/
abbrev State.Duplicated (s : State) : Prop := s.faults.duplicateStation.active = true

/-- What leaves its record leaves DUPLICATE_STATION active. -/
theorem Only.duplicated {as : List Aspect} {s t : State} (only : Only as s t) (h : s.Duplicated)
    (n : .fault .duplicateStation ∉ as := by decide) : t.Duplicated := by
  have record : t.faults.duplicateStation = s.faults.duplicateStation := only (.fault .duplicateStation) n
  rw [State.Duplicated, record]
  exact h

/-- A request under DUPLICATE_STATION is dropped, or it is STOP, which touches no record (R179). -/
theorem arrive_duplicated (src : Nat) (payload : List Byte) {s : State} (back : Returning) (h : s.Duplicated) :
    (s.arrive src payload back).Duplicated := by
  have quiet : s.leaveQuiet.Duplicated := (leaveQuiet_does s).only.duplicated h
  have active : s.leaveQuiet.faultActive .duplicateStation = true := quiet
  unfold State.arrive
  dsimp only
  split
  · exact quiet
  · rename_i code body
    rw [active, Bool.true_and]
    split
    · exact quiet
    · rename_i stop
      have stop : code.toNat = 7 := Decidable.not_not.mp (fun other => stop (decide_eq_true other))
      refine (reply_does src code _).only.duplicated ?_
      unfold State.judge
      split
      · split <;> exact quiet
      · rw [stop]
        exact (stop_does _).only.duplicated quiet

/-- A received frame leaves DUPLICATE_STATION active. -/
theorem receive_duplicated (f : RxFrame) {s : State} (back : Returning) (h : s.Duplicated) : (s.receive f back).Duplicated := by
  have ended : s.frameEnds.Duplicated := (frameEnds_does s).only.duplicated h
  unfold State.receive
  split
  · refine (reported_does s _).only.duplicated ?_
    unfold State.receiveGood
    dsimp only
    split
    · have raised : ((s.frameEnds.raise .duplicateStation).runSettle.faults.get .duplicateStation).active = true := by
        rw [runSettle_get, raise_get_same]
        exact arise_active _
      exact raised
    · split
      · unfold State.takeFrame
        split
        · exact (hearAnnounce_does f _).only.duplicated ended
        · split
          · exact arrive_duplicated f.src f.payload back ended
          · exact ended
      · exact ended
  · exact h

/-- No command but RESET ends DUPLICATE_STATION (R170, R173). -/
theorem exec_duplicated {c : Instr} (other : ∀ a b d e, c ≠ .reset a b d e) {s t : State} (h : s.Duplicated)
    (run : exec c s = .next t) : t.Duplicated := by
  have untouched (out : .fault .duplicateStation ∉ touches c) : t.Duplicated := by
    obtain ⟨_, answer, does⟩ := exec_answers c s
    rw [run] at answer
    cases answer
    exact does.only.duplicated h out
  have received {f : RxFrame} {back : Returning} (r : (.next (s.receive f back) : StepOutcome) = .next t) : t.Duplicated := by
    cases r
    exact receive_duplicated f back h
  cases c
  case reset => exact absurd rfl (other _ _ _ _)
  case announcementReceived | announcementIgnored | frameNotAccepted | frameDropped | duplicateStation | requestUnknownCode
      | loadHeader | stepPartA | stepPartB | start | pause | continue_ | stop | skip | adjust | confirm | clear | discard
      | setHardness | startDescale | clearFaults | query => exact received run
  all_goals exact untouched (by simp only [touches]; decide)

/-- Settles O18: the record at a frame of the own source, and no command but RESET that ends it. -/
theorem duplicateStationStaysUntilReset : Obligations.DuplicateStationStaysUntilReset := by
  refine ⟨fun cls kind dst payload s receives => ?raised, fun c s t other active run => exec_duplicated other active run⟩
  let x : State := s.frameEnds
  have only : Only [.fault .duplicateStation, .queue, .sharing, .ceiling, .withdrawn] x (x.raise .duplicateStation) :=
    raise_only rfl rfl (fun _ => rfl) x
  have line := only .link (by decide)
  simp only [Same, Prod.mk.injEq] at line
  refine ⟨x.raise .duplicateStation, ?_, ?_, line.1, only .lfsr (by decide), ?_⟩
  · show Host.Outcome.next (s.receive ⟨cls, kind, s.station, dst, payload⟩) = _
    rw [receive_good receives, State.receiveGood, if_pos (show s.station = s.frameEnds.station from rfl)]
  · exact raise_get_same .duplicateStation x
  · exact ((frameEnds_does s).only.mono (by decide)).trans (only.mono (by decide))

end Sys2Proof.Machine
end

section
/-! PROOFS. The share engine at a boundary and under MAINS: holds, ask rounds, isolation, and the part's own announcement (R3,
R13, R17 to R24, R194). -/

namespace Sys2Proof.Machine

/-! ## The part's own announcement -/

/-- The bus link once the part's announcement of a state has been handed to it (R3, R4). -/
def State.handed (u : State) (b : BusLink) : BusLink := b.hand (.announce u.announcedAsk u.share.draw) [u.ownAnnouncement]

/-- Outside QUIET an announcement is handed (R4). -/
theorem announce_eq {s : State} (loud : s.share.state ≠ .quiet) : s.announce = { s with bus := s.handed s.bus } := if_neg loud

/-- What an announcement carries is decided by the straps, the ceiling, the program, and these fields of the share engine. -/
theorem handed_congr {u v : State} (startup : u.startup = v.startup) (ceiling : u.load.ceiling = v.load.ceiling)
    (rank : u.rank = v.rank) (state : u.share.state = v.share.state) (ask : u.announcedAsk = v.announcedAsk)
    (hold : u.share.hold = v.share.hold) (draw : u.share.draw = v.share.draw) (cut : u.share.pendingCut = v.share.pendingCut)
    (coolDown : u.share.coolDown = v.share.coolDown) (b : BusLink) : u.handed b = v.handed b := by
  simp only [State.handed, State.ownAnnouncement, State.announcedAsking, Share.shedding, State.station, startup, ceiling, rank, state, ask,
    hold, draw, cut, coolDown]

/-- The value of six bytes, and back. -/
theorem six_bytes {n : Nat} (small : n < 2 ^ 48) :
    n / 1099511627776 % 256 * 2 ^ 40 + n / 4294967296 % 256 * 2 ^ 32 + n / 16777216 % 256 * 2 ^ 24 + n / 65536 % 256 * 2 ^ 16
      + n / 256 % 256 * 2 ^ 8 + n % 256 = n := by
  omega

/-- The bytes of the part's announcement hold its fields in their places (R194). -/
theorem ownAnnouncement_bytes {s : State} (station : s.station < 32) (hold : s.share.hold ≤ 2047) (ask : s.announcedAsk ≤ 2047)
    (rank : s.rank ≤ 3) :
    ∃ b0 b1 b2 b3 b4 b5 : Byte, s.ownAnnouncement = [b0, b1, b2, b3, b4, b5]
      ∧ b0.toNat * 2 ^ 40 + b1.toNat * 2 ^ 32 + b2.toNat * 2 ^ 24 + b3.toNat * 2 ^ 16 + b4.toNat * 2 ^ 8 + b5.toNat =
          s.station * 2 ^ 43 + 2 * 2 ^ 40 + s.share.hold * 2 ^ 29 + s.announcedAsk * 2 ^ 18 + s.rank * 2 ^ 16
            + s.share.draw.toNat * 2 ^ 5 + bitIf s.announcedAsking 16 + bitIf s.share.shedding 8
            + bitIf (decide (s.share.state = .isolated)) 4 := by
  have draw := s.share.draw.isLt
  refine ⟨_, _, _, _, _, _, rfl, ?_⟩
  simp only [byteOf, BitVec.toNat_ofNat]
  have asking : bitIf s.announcedAsking 4 ≤ 4 ∧ bitIf s.announcedAsking 16 = 4 * bitIf s.announcedAsking 4 := by
    cases s.announcedAsking <;> decide
  have shedding : bitIf s.share.shedding 2 ≤ 2 ∧ bitIf s.share.shedding 8 = 4 * bitIf s.share.shedding 2 := by
    cases s.share.shedding <;> decide
  have isolated (b : Bool) : bitIf b 1 ≤ 1 ∧ bitIf b 4 = 4 * bitIf b 1 := by cases b <;> decide
  obtain ⟨low, four⟩ := isolated (decide (s.share.state = .isolated))
  rw [asking.2, shedding.2, four]
  generalize bitIf s.announcedAsking 4 = a at asking ⊢
  generalize bitIf s.share.shedding 2 = c at shedding ⊢
  generalize bitIf (decide (s.share.state = .isolated)) 1 = i at low ⊢
  have bytes := six_bytes (n := ((((((s.station * 8 + 2) * 2048 + s.share.hold) * 2048 + s.announcedAsk) * 4 + s.rank) * 2048
    + s.share.draw.toNat) * 8 + a + c + i) * 4) (by omega)
  refine Eq.trans ?_ (bytes.trans (by omega))
  rfl

/-- The fields of a peer's announcement from its six bytes (R194). -/
theorem ofPayload_eq (b0 b1 b2 b3 b4 b5 : Byte) {n : Nat}
    (value : n = b0.toNat * 2 ^ 40 + b1.toNat * 2 ^ 32 + b2.toNat * 2 ^ 24 + b3.toNat * 2 ^ 16 + b4.toNat * 2 ^ 8 + b5.toNat) :
    Announcement.ofPayload [b0, b1, b2, b3, b4, b5]
      = { station := n / 2 ^ 43 % 32, kind := .ofCode (n / 2 ^ 40 % 8), hold := n / 2 ^ 29 % 2048, ask := n / 2 ^ 18 % 2048
          rank := n / 2 ^ 16 % 4, draw := n / 2 ^ 5 % 2048, asking := decide (n / 2 ^ 4 % 2 = 1) } := by
  have whole : natOfBytes [b0, b1, b2, b3, b4, b5] = n := by
    simp only [natOfBytes, List.foldl_cons, List.foldl_nil]
    omega
  rw [Announcement.ofPayload, whole, Nat.testBit_eq_decide_div_mod_eq]
  rfl

/-! ## Isolation, settling and ask rounds -/

/-- The ISOLATED target without a limit (R18). -/
theorem isolatedTarget_free {s : State} (free : s.limit = none) : s.isolatedTarget = s.load.ceiling := by
  rw [State.isolatedTarget, State.noLimit, free]
  rfl

/-- The ISOLATED target under a limit (R18). -/
theorem isolatedTarget_limited {s : State} {L : Nat} (limited : s.limit = some L) : s.isolatedTarget = min s.load.ceiling (L / 2) := by
  have half : Config.fallbackCap s.startup.limitClass s.startup.variant = L / 2 := by
    rw [Config.fallbackCap, show Config.limitUnits s.startup.limitClass = some L from limited]
  rw [State.isolatedTarget, State.noLimit, limited, half]
  rfl

/-- Without LINK or DUPLICATE_STATION no state is left for ISOLATED (R17). -/
theorem isolateIfDue_joined {s : State} (joined : s.cutOff = false) : s.isolateIfDue = s := by
  rw [State.isolateIfDue, State.isolationDue, joined]
  rfl

/-- LINK or DUPLICATE_STATION takes any other state to ISOLATED (R17). -/
theorem isolateIfDue_enters {s : State} (cut : s.cutOff = true) (outside : s.share.state ≠ .isolated) :
    s.isolateIfDue = { s with share := s.share.isolate } := by
  rw [State.isolateIfDue, State.isolationDue, cut, decide_eq_true outside]
  rfl

/-- A part that is ISOLATED already stays so (R17). -/
theorem isolateIfDue_stays {s : State} (inside : s.share.state = .isolated) : s.isolateIfDue = s := by
  rw [State.isolateIfDue, State.isolationDue, decide_eq_false (not_not_intro inside), Bool.and_false]
  rfl

/-- The state with its hold settled, its announcement not yet handed (R23). -/
abbrev State.settledAt (hold : Nat) (s : State) : State := { s with share := s.share.settleHold hold }

/-- Where a boundary settles the hold, one that falls is announced (R4, R23). -/
theorem settleShare_settles {s : State} (settles : s.share.state.settles = true) :
    s.settleShare
      = { s.settledAt s.boundaryHold with
          bus := if s.boundaryHold < s.share.hold then (s.settledAt s.boundaryHold).handed s.bus else s.bus } := by
  have loud : (s.settledAt s.boundaryHold).share.state ≠ .quiet := by
    show s.share.state ≠ .quiet
    rintro quiet
    rw [quiet] at settles
    cases settles
  rw [State.settleShare, if_pos settles]
  show (s.settledAt s.boundaryHold).announceIf (decide (s.boundaryHold < s.share.hold)) = _
  by_cases falls : s.boundaryHold < s.share.hold
  · rw [decide_eq_true falls, if_pos falls, State.announceIf, if_pos rfl, announce_eq loud]
  · rw [decide_eq_false falls, if_neg falls]
    rfl

/-- In LISTEN and QUIET a boundary leaves hold and applied budget (R23). -/
theorem settleShare_rests {s : State} (rests : s.share.state = .listen ∨ s.share.state = .quiet) : s.settleShare = s := by
  refine if_neg ?_
  obtain listen | quiet := rests
  · rw [listen]; decide
  · rw [quiet]; decide

/-- An ask round begun from STEADY, its announcement not yet handed (R13). -/
abbrev State.roundBegun (s : State) : State :=
  { s with
    share :=
      { s.share with
        state := .asking, ask := s.load.ceiling, draw := s.share.lfsr, ownCount := 0, denyCount := 0, starved := false } }

/-- A STEADY part short of its ceiling starts an ask round (R13). -/
theorem askIfShort_asks {s : State} (steady : s.share.state = .steady) (short : s.share.hold < s.load.ceiling) :
    s.askIfShort = { s.roundBegun with bus := s.roundBegun.handed s.bus } := by
  have began : (s.mapShare (fun h =>
      { h with
        state := .asking, ask := s.load.ceiling, draw := h.lfsr, ownCount := 0
        denyCount := if h.state = .asking then h.denyCount else 0
        starved := if h.state = .asking then h.starved else false })) = s.roundBegun := by
    simp only [State.mapShare, steady]
    rfl
  rw [State.askIfShort, if_pos ⟨steady, short⟩, State.startRound, began]
  exact announce_eq (s := s.roundBegun) (show ShareState.asking ≠ .quiet by decide)

/-- Else none starts (R13). -/
theorem askIfShort_rests {s : State} (rests : s.share.state ≠ .steady ∨ s.load.ceiling ≤ s.share.hold) : s.askIfShort = s :=
  if_neg fun ⟨steady, short⟩ => rests.elim (fun other => other steady) (fun enough => absurd short (Nat.not_lt.mpr enough))

/-! ## A frame boundary (R17, R18, R20, R23) -/

/-- A boundary that settles the hold at `hold` and starts no ask round: the state with the announcement of a fall (R23). -/
abbrev State.boundaryAt (hold : Nat) (s : State) : State :=
  { s.settledAt hold with bus := if hold < s.share.hold then (s.settledAt hold).handed s.bus else s.bus }

/-- A boundary of a STEADY part: its hold settled, and an ask round where that is short of its ceiling (R13, R23). -/
theorem shareBoundary_steady {s : State} (joined : s.cutOff = false) (steady : s.share.state = .steady) :
    s.shareBoundary = (s.boundaryAt (min (s.share.hold - s.share.pendingCut) s.load.ceiling)).askIfShort := by
  have hold : s.boundaryHold = min (s.share.hold - s.share.pendingCut) s.load.ceiling := by
    rw [State.boundaryHold, steady]
    exact if_pos steady
  rw [State.shareBoundary, isolateIfDue_joined joined, settleShare_settles (by rw [steady]; rfl), hold]

/-- A boundary of a part that is ISOLATED, UNSHARED or ASKING starts no round (R18, R20, R23). -/
theorem shareBoundary_plain {x : State} (settles : x.share.state.settles = true) (other : x.share.state ≠ .steady) :
    x.settleShare.askIfShort = x.boundaryAt x.boundaryHold := by
  rw [settleShare_settles settles]
  exact askIfShort_rests (.inl other)

/-- LINK or DUPLICATE_STATION: a boundary settles the hold of ISOLATED (R17, R18). -/
theorem shareBoundary_cut {s : State} (cut : s.cutOff = true) :
    ∃ h, (h = s.share ∧ s.share.state = .isolated ∨ h = s.share.isolate ∧ s.share.state ≠ .isolated)
      ∧ s.shareBoundary = State.boundaryAt s.isolatedHold { s with share := h } := by
  by_cases inside : s.share.state = .isolated
  · refine ⟨s.share, .inl ⟨rfl, inside⟩, ?_⟩
    have hold : s.boundaryHold = s.isolatedHold := by rw [State.boundaryHold, inside]
    rw [State.shareBoundary, isolateIfDue_stays inside,
      shareBoundary_plain (by rw [inside]; rfl) (by rw [inside]; decide), hold]
  · refine ⟨s.share.isolate, .inr ⟨rfl, inside⟩, ?_⟩
    rw [State.shareBoundary, isolateIfDue_enters cut inside]
    exact shareBoundary_plain (x := { s with share := s.share.isolate }) rfl (show ShareState.isolated ≠ .steady by decide)

/-- The fields of the part's own announcement, and of a peer's, and what a boundary does with hold, ask and announcements.
Settles O22: the share state decides whether the hold is settled, and a round begins only from STEADY. -/
theorem boundarySettlesTheHold : Obligations.BoundarySettlesTheHold := by
  intro s t cut target isolated
  have isolatedHold : s.isolatedHold = isolated := by
    have same : s.isolatedTarget = target := by
      cases limit : s.limit with
      | none => rw [isolatedTarget_free limit]; simp only [target, limit]
      | some L => rw [isolatedTarget_limited limit]; simp only [target, limit]
    simp only [State.isolatedHold, same, isolated]
    rfl
  have plain (joined : s.cutOff = false) (settles : s.share.state.settles = true) (other : s.share.state ≠ .steady) :
      t = s.boundaryAt s.boundaryHold := by
    simp only [t, State.shareBoundary, isolateIfDue_joined joined]
    exact shareBoundary_plain settles other
  have resting (joined : s.cutOff = false) (rests : s.share.state = .listen ∨ s.share.state = .quiet) : t = s := by
    simp only [t, State.shareBoundary, isolateIfDue_joined joined, settleShare_rests rests]
    refine askIfShort_rests (.inl ?_)
    obtain listen | quiet := rests
    · rw [listen]; decide
    · rw [quiet]; decide
  refine ⟨fun joined => ⟨fun steady => ?steady, fun asking => ?asking, fun unshared => ?unshared, fun inside => ?isolated,
    resting joined⟩, fun apart => ?apart, ?handed, (shareBoundary_does s).only, ?own, ?peer⟩
  case steady =>
    have form := shareBoundary_steady joined steady
    by_cases short : min cut s.load.ceiling < s.load.ceiling
    · rw [askIfShort_asks (s := s.boundaryAt _) steady short] at form
      rw [show t = _ from form]
      exact ⟨rfl, rfl, rfl, fun _ => ⟨rfl, rfl, rfl, rfl, rfl⟩, fun full => absurd full (Nat.ne_of_lt short)⟩
    · rw [askIfShort_rests (s := s.boundaryAt _) (.inr (Nat.not_lt.mp short))] at form
      rw [show t = _ from form]
      exact ⟨rfl, rfl, rfl, fun less => absurd less short, fun _ => ⟨steady, rfl, rfl⟩⟩
  case asking =>
    have hold : s.boundaryHold = cut := by
      rw [State.boundaryHold, asking]
      exact if_neg (by rw [asking]; decide)
    rw [plain joined (by rw [asking]; rfl) (by rw [asking]; decide), hold]
    rfl
  case unshared =>
    have hold : s.boundaryHold = s.load.ceiling := by rw [State.boundaryHold, unshared]
    rw [plain joined (by rw [unshared]; rfl) (by rw [unshared]; decide), hold]
    rfl
  case isolated =>
    have hold : s.boundaryHold = isolated := by rw [State.boundaryHold, inside]; exact isolatedHold
    rw [plain joined (by rw [inside]; rfl) (by rw [inside]; decide), hold]
    rfl
  case apart =>
    obtain ⟨h, entered, form⟩ := shareBoundary_cut apart
    rw [isolatedHold] at form
    rw [show t = _ from form]
    obtain ⟨rfl, inside⟩ | ⟨rfl, outside⟩ := entered
    · exact ⟨inside, rfl, rfl, rfl, fun outside => absurd inside outside⟩
    · exact ⟨rfl, rfl, rfl, rfl, fun _ => ⟨rfl, rfl, rfl, rfl, rfl⟩⟩
  case handed =>
    intro handed round settled fallen
    have kept (x : State) (hold : Nat) (rest : x = { s with share := x.share }) (before : x.share.hold = s.share.hold)
        (draw : x.share.draw = s.share.draw) (form : t = x.boundaryAt hold) (no : ¬round) : t.bus = fallen := by
      have same : (x.settledAt hold).handed s.bus = handed settled s.bus := by
        have moved : settled = { t with share := { t.share with draw := s.share.draw } } := by
          simp only [settled, if_neg no]
        have ask : (x.settledAt hold).announcedAsk = settled.announcedAsk := by rw [moved, form]; rfl
        refine handed_congr ?_ ?_ ?_ ?_ ask ?_ ?_ ?_ ?_ s.bus <;> rw [moved, form]
        · rfl
        · exact draw
      have bus : x.bus = s.bus := by rw [rest]
      have level : t.share.hold = hold := by rw [form]; rfl
      rw [show fallen = if t.share.hold < s.share.hold then handed settled s.bus else s.bus from rfl, level, ← same, form]
      show (if hold < x.share.hold then (x.settledAt hold).handed x.bus else x.bus) = _
      rw [before, bus]
    by_cases cutOff : s.cutOff = true
    · have no : ¬round := fun ⟨joined, _⟩ => by rw [cutOff] at joined; cases joined
      obtain ⟨h, entered, form⟩ := shareBoundary_cut cutOff
      rw [if_neg no]
      obtain ⟨rfl, inside⟩ | ⟨rfl, outside⟩ := entered
      · exact kept s _ rfl rfl rfl form no
      · exact kept { s with share := s.share.isolate } _ rfl rfl rfl form no
    · have joined : s.cutOff = false := by simpa using cutOff
      by_cases steady : s.share.state = .steady
      · have form : t = _ := shareBoundary_steady joined steady
        by_cases short : min cut s.load.ceiling < s.load.ceiling
        · rw [askIfShort_asks (s := s.boundaryAt _) steady short] at form
          have yes : round := ⟨joined, steady, by rw [form]; exact short⟩
          have same : (s.settledAt (min cut s.load.ceiling)).handed s.bus = handed settled s.bus := by
            have moved : settled = { t with share := { t.share with draw := s.share.draw, state := .steady } } := by
              simp only [settled, if_pos yes]
            have calm : settled.share.state = .steady := by rw [moved]
            have ask : (s.settledAt (min cut s.load.ceiling)).announcedAsk = settled.announcedAsk := by
              rw [State.announcedAsk, State.announcedAsk, calm, show (s.settledAt _).share.state = .steady from steady, moved, form]
              rfl
            have rest : settled = { s with share := settled.share, bus := settled.bus } := by rw [moved, form]
            have rank : (s.settledAt (min cut s.load.ceiling)).rank = settled.rank := by rw [rest]; rfl
            refine handed_congr (v := settled) ?_ ?_ rank (steady.trans calm.symm) ask ?_ ?_ ?_ ?_ s.bus <;> rw [moved, form]
            rfl
          have level : t.share.hold = min cut s.load.ceiling := by rw [form]; rfl
          rw [if_pos yes, show fallen = if t.share.hold < s.share.hold then handed settled s.bus else s.bus from rfl, level, ← same,
            form]
          rfl
        · rw [askIfShort_rests (s := s.boundaryAt _) (.inr (Nat.not_lt.mp short))] at form
          have no : ¬round := fun ⟨_, _, less⟩ => short (by rw [form] at less; exact less)
          rw [if_neg no]
          exact kept s _ rfl rfl rfl form no
      · have no : ¬round := fun ⟨_, yes, _⟩ => steady yes
        rw [if_neg no]
        cases state : s.share.state
        case steady => exact absurd state steady
        case listen | quiet =>
          have same : t = s := resting joined (by simp [state])
          have level : ¬t.share.hold < s.share.hold := by rw [same]; exact Nat.lt_irrefl _
          rw [show fallen = s.bus from if_neg level, same]
        all_goals exact kept s _ rfl rfl rfl (plain joined (by rw [state]; rfl) steady) no
  case own =>
    refine ⟨rfl, fun station hold ask rank => ?_⟩
    obtain ⟨b0, b1, b2, b3, b4, b5, bytes, value⟩ := ownAnnouncement_bytes station hold ask rank
    refine ⟨b0, b1, b2, b3, b4, b5, bytes, value.trans ?_⟩
    simp only [bitIf, State.announcedAsking, Share.shedding, Bool.or_eq_true, Bool.and_eq_true, decide_eq_true_eq]
  case peer =>
    intro b0 b1 b2 b3 b4 b5 n
    obtain ⟨m, value⟩ : ∃ m, m = n := ⟨n, rfl⟩
    rw [← value, ofPayload_eq b0 b1 b2 b3 b4 b5 value]
    generalize m / 2 ^ 40 % 8 = code
    rfl

end Sys2Proof.Machine
end

section
/-! PROOFS. The walks of the announce tick (R26 to R30): what the orders of askers and holders make of the part's own place in
them. -/

namespace Sys2Proof.Machine

/-! ## Lists in order -/

section
variable {α : Type} {before : α → α → Bool}

/-- An element put in its place is a permutation. -/
theorem insertBy_perm (before : α → α → Bool) (x : α) (q : List α) : (insertBy before x q).Perm (x :: q) := by
  induction q with
  | nil => exact .refl _
  | cons y q ih =>
    unfold insertBy
    split
    · exact .refl _
    · exact (ih.cons y).trans (.swap x y q)

/-- A list put in order is a permutation. -/
theorem sortBy_perm (before : α → α → Bool) (q : List α) : (sortBy before q).Perm q := by
  induction q with
  | nil => exact .refl _
  | cons x q ih => exact (insertBy_perm before x _).trans (ih.cons x)

variable (trans : ∀ a b c : α, before a b = true → before b c = true → before a c = true)
include trans

/-- In an ordered list an element joins between those that precede it and those it precedes. -/
theorem insertBy_between {x : α} {q : List α} (sorted : q.Pairwise (fun a b => before b a = false))
    (comparable : ∀ y ∈ q, before x y = true ∨ before y x = true) :
    ∃ l r, insertBy before x q = l ++ x :: r ∧ q = l ++ r ∧ (∀ y ∈ l, before y x = true) ∧ ∀ y ∈ r, before x y = true := by
  induction q with
  | nil => exact ⟨[], [], rfl, rfl, by simp, by simp⟩
  | cons y q ih =>
    obtain ⟨least, rest⟩ := List.pairwise_cons.mp sorted
    unfold insertBy
    by_cases first : before x y = true
    · refine ⟨[], y :: q, if_pos first, rfl, by simp, fun z m => ?_⟩
      obtain rfl | m := List.mem_cons.mp m
      · exact first
      · refine (comparable z (List.mem_cons_of_mem _ m)).resolve_right fun back => ?_
        have under := trans _ _ _ back first
        rw [least z m] at under
        cases under
    · obtain ⟨l, r, placed, split, lower, upper⟩ := ih rest (fun z m => comparable z (List.mem_cons_of_mem _ m))
      refine ⟨y :: l, r, ?_, by rw [split]; rfl, fun z m => ?_, upper⟩
      · rw [if_neg first, placed]
        rfl
      · obtain rfl | m := List.mem_cons.mp m
        · exact (comparable z List.mem_cons_self).resolve_left first
        · exact lower z m

variable (asymm : ∀ a b : α, before a b = true → before b a = false)
include asymm

/-- An element put in its place leaves an ordered list ordered. -/
theorem insertBy_sorted {x : α} {q : List α} (sorted : q.Pairwise (fun a b => before b a = false)) :
    (insertBy before x q).Pairwise (fun a b => before b a = false) := by
  induction q with
  | nil => simp [insertBy]
  | cons y q ih =>
    obtain ⟨least, rest⟩ := List.pairwise_cons.mp sorted
    unfold insertBy
    split
    · rename_i first
      refine List.pairwise_cons.mpr ⟨fun z m => ?_, sorted⟩
      obtain rfl | m := List.mem_cons.mp m
      · exact asymm _ _ first
      · by_contra back
        have under := trans _ _ _ (by simpa using back) first
        rw [least z m] at under
        cases under
    · rename_i later
      refine List.pairwise_cons.mpr ⟨fun z m => ?_, ih rest⟩
      obtain rfl | m := List.mem_cons.mp ((insertBy_perm before x q).mem_iff.mp m)
      · simpa using later
      · exact least z m

/-- A list put in order is ordered. -/
theorem sortBy_sorted (q : List α) : (sortBy before q).Pairwise (fun a b => before b a = false) := by
  induction q with
  | nil => exact List.Pairwise.nil
  | cons x q ih => exact insertBy_sorted trans asymm ih

/-- What precedes an element that has joined an ordered list: those of the list that precede it, in whatever order the list was
given. -/
theorem insertBy_sortBy {x : α} {q : List α} (comparable : ∀ y ∈ q, before x y = true ∨ before y x = true) (f : α → Nat) :
    ∃ l r, insertBy before x (sortBy before q) = l ++ x :: r ∧ (∀ y ∈ l, y ∈ q)
      ∧ (l.map f).sum = ((q.filter (fun y => before y x)).map f).sum := by
  have perm := sortBy_perm before q
  obtain ⟨l, r, placed, split, lower, upper⟩ :=
    insertBy_between trans (sortBy_sorted trans asymm q) (fun y m => comparable y (perm.mem_iff.mp m)) (x := x)
  refine ⟨l, r, placed, fun y m => perm.mem_iff.mp (by rw [split]; exact List.mem_append_left r m), ?_⟩
  have first : (sortBy before q).filter (fun y => before y x) = l := by
    rw [split, List.filter_append, List.filter_eq_self.mpr lower,
      List.filter_eq_nil_iff.mpr (fun y m => ne_true_of_eq_false (asymm _ _ (upper y m))), List.append_nil]
  rw [← ((perm.filter (fun y => before y x)).map f).sum_eq, first]

end

/-! ## The orders of the walks (R26, R28) -/

/-- The order of the askers. -/
theorem askerBefore_iff (a b : Asker) :
    a.before b = true
      ↔ a.rank < b.rank ∨ (a.rank = b.rank ∧ (b.draw < a.draw ∨ (a.draw = b.draw ∧ a.station < b.station))) := by
  simp only [Asker.before, Bool.or_eq_true, Bool.and_eq_true, decide_eq_true_eq]

/-- The order of the askers is transitive. -/
theorem askerBefore_trans (a b c : Asker) (h : a.before b = true) (k : b.before c = true) : a.before c = true := by
  rw [askerBefore_iff] at *
  omega

/-- The order of the askers is asymmetric. -/
theorem askerBefore_asymm (a b : Asker) (h : a.before b = true) : b.before a = false := by
  rw [Bool.eq_false_iff, Ne, askerBefore_iff]
  rw [askerBefore_iff] at h
  omega

/-- The order of the holders. -/
theorem holderBefore_iff (a b : Holder) :
    a.before b = true
      ↔ b.rank < a.rank ∨ (a.rank = b.rank ∧ (a.draw < b.draw ∨ (a.draw = b.draw ∧ b.station < a.station))) := by
  simp only [Holder.before, Bool.or_eq_true, Bool.and_eq_true, decide_eq_true_eq]

/-- The order of the holders is transitive. -/
theorem holderBefore_trans (a b c : Holder) (h : a.before b = true) (k : b.before c = true) : a.before c = true := by
  rw [holderBefore_iff] at *
  omega

/-- The order of the holders is asymmetric. -/
theorem holderBefore_asymm (a b : Holder) (h : a.before b = true) : b.before a = false := by
  rw [Bool.eq_false_iff, Ne, holderBefore_iff]
  rw [holderBefore_iff] at h
  omega

/-- A peer ahead of the part: lower rank, higher draw, lower station (R26). -/
theorem ahead_iff (s : State) (p : Peer) :
    s.ahead p = true
      ↔ p.rank < s.rank
        ∨ (p.rank = s.rank ∧ (s.share.draw.toNat < p.draw ∨ (p.draw = s.share.draw.toNat ∧ p.station < s.station))) := by
  simp only [State.ahead, Bool.or_eq_true, Bool.and_eq_true, decide_eq_true_eq]

/-! ## The asker walk (R26) -/

/-- The needs of a list of askers. -/
def needs (q : List Asker) : Nat := (q.map Asker.need).sum

/-- The gives down a list: what the askers before leave of the margin is the margin less their needs, if anything. -/
theorem gives_append (q r : List Asker) (margin : Int) :
    ∃ left : Int, gives (q ++ r) margin = gives q margin ++ gives r left ∧ left.toNat = (margin - needs q).toNat := by
  induction q generalizing margin with
  | nil => exact ⟨margin, rfl, by simp [needs]⟩
  | cons a q ih =>
    obtain ⟨left, walk, rest⟩ := ih (margin - give a.need margin)
    refine ⟨left, by rw [List.cons_append, gives, walk, gives, List.cons_append], ?_⟩
    rw [rest]
    simp only [needs, List.map_cons, List.sum_cons, give]
    omega

/-- The askers of a walk are those of its list. -/
theorem gives_askers (q : List Asker) (margin : Int) : (gives q margin).map Prod.fst = q := by
  induction q generalizing margin with
  | nil => rfl
  | cons a q ih => rw [gives, List.map_cons, ih]

/-- The part's own give: its need, at most what the askers before it leave (R26). -/
theorem ownGive_at {l r : List Asker} {own : Asker} (margin : Int) (peers : ∀ a ∈ l, a.own = false) (part : own.own = true) :
    ownGive (gives (l ++ own :: r) margin) = min own.need (margin - needs l).toNat := by
  obtain ⟨left, walk, rest⟩ := gives_append l (own :: r) margin
  have passed : ∀ p ∈ gives l margin, p.1.own = false := fun p m =>
    peers p.1 (by rw [← gives_askers l margin]; exact List.mem_map_of_mem m)
  have found : (gives (l ++ own :: r) margin).find? (fun p => p.1.own) = some (own, give own.need left) := by
    rw [walk, List.find?_append, List.find?_eq_none.mpr (by simpa using passed), gives, List.find?_cons_of_pos (p := fun p : Asker × Nat => p.1.own) part]
    rfl
  rw [ownGive, found, ← rest]
  rfl

/-- The urgent unmet need: what the margin leaves unmet of the needs of the ranks below (R28). -/
theorem urgentUnmet_gives {q : List Asker} (sorted : q.Pairwise (fun a b => a.rank ≤ b.rank)) (rank : Nat) (margin : Int) :
    urgentUnmet rank (gives q margin) = needs (q.filter (fun a => decide (a.rank < rank))) - margin.toNat := by
  induction q generalizing margin with
  | nil => simp [gives, urgentUnmet, needs]
  | cons a q ih =>
    obtain ⟨least, rest⟩ := List.pairwise_cons.mp sorted
    have walk := ih rest (margin - give a.need margin)
    by_cases urgent : a.rank < rank
    · have one : urgentUnmet rank (gives (a :: q) margin)
          = (a.need - give a.need margin) + urgentUnmet rank (gives q (margin - give a.need margin)) := by
        simp [urgentUnmet, gives, urgent]
      rw [one, walk, List.filter_cons_of_pos (by simpa using urgent)]
      simp only [needs, List.map_cons, List.sum_cons, give]
      omega
    · have none : q.filter (fun a => decide (a.rank < rank)) = [] :=
        List.filter_eq_nil_iff.mpr fun b m => by
          have above := least b m
          simp only [decide_eq_true_eq]
          omega
      have one : urgentUnmet rank (gives (a :: q) margin) = urgentUnmet rank (gives q (margin - give a.need margin)) := by
        simp [urgentUnmet, gives, urgent]
      rw [one, walk, List.filter_cons_of_neg (by simpa using urgent), none]
      simp [needs]

/-! ## The holder walks (R28, R29) -/

/-- The part's own portion: at most its hold, of what the worse holders leave (R28, R29). -/
theorem ownPortion_at {l r : List Holder} {own : Holder} (amount : Nat) (peers : ∀ h ∈ l, h.own = false)
    (part : own.own = true) : ownPortion (l ++ own :: r) amount = min own.hold (amount - (l.map Holder.hold).sum) := by
  induction l generalizing amount with
  | nil => simp [ownPortion, part]
  | cons h l ih =>
    have peer := peers h List.mem_cons_self
    rw [List.cons_append, ownPortion, peer, if_neg Bool.false_ne_true, ih _ (fun x m => peers x (List.mem_cons_of_mem _ m))]
    simp only [List.map_cons, List.sum_cons]
    omega

/-- Without the part among the holders there is no portion. -/
theorem ownPortion_none {q : List Holder} (amount : Nat) (peers : ∀ h ∈ q, h.own = false) : ownPortion q amount = 0 := by
  induction q generalizing amount with
  | nil => rfl
  | cons h q ih =>
    rw [ownPortion, peers h List.mem_cons_self, if_neg Bool.false_ne_true, ih _ (fun x m => peers x (List.mem_cons_of_mem _ m))]

/-! ## The part's place among its peers -/

/-- A peer with a need asks for it, and for nothing else (R26). -/
theorem asker_some {p : Peer} {a : Asker} (h : p.asker = some a) : a = ⟨p.station, p.rank, p.draw, p.need, false⟩ := by
  cases settled : p.settled with
  | none =>
    rw [Peer.asker, settled] at h
    cases h
  | some ask =>
    rw [Peer.asker, settled] at h
    dsimp only at h
    split at h
    next asks =>
      have need : p.need = ask - p.hold := by
        simp only [Peer.need, settled, asks.1, if_true]
      rw [need]
      exact (Option.some.inj h).symm
    next => cases h

/-- A peer that does not ask has no need (R26). -/
theorem need_of_noAsker {p : Peer} (h : p.asker = none) : p.need = 0 := by
  cases settled : p.settled with
  | none => simp only [Peer.need, settled]
  | some ask =>
    rw [Peer.asker, settled] at h
    dsimp only at h
    split at h
    next => cases h
    next idle =>
      rw [Peer.need, settled]
      dsimp only
      by_cases asking : p.asking = true
      · have enough : ¬p.hold < ask := fun short => idle ⟨asking, short⟩
        rw [if_pos asking]
        omega
      · rw [if_neg asking]

/-- The needs of the counted peers that satisfy a condition, as the walk's askers have them. -/
theorem needs_counted {s : State} {c : Peer → Bool} {d : Asker → Bool}
    (same : ∀ p ∈ s.countedPeers, d ⟨p.station, p.rank, p.draw, p.need, false⟩ = c p) :
    needs ((s.countedPeers.filterMap Peer.asker).filter d) = s.sumCounted Peer.need c := by
  show _ = ((s.countedPeers.filter c).map Peer.need).sum
  generalize s.countedPeers = q at same ⊢
  induction q with
  | nil => rfl
  | cons p q ih =>
    have rest := ih (fun x m => same x (List.mem_cons_of_mem _ m))
    have here := same p List.mem_cons_self
    cases asks : p.asker with
    | none =>
      have idle := need_of_noAsker asks
      rw [List.filterMap_cons_none asks, rest, List.filter_cons]
      split
      · simp [idle]
      · rfl
    | some a =>
      rw [List.filterMap_cons_some asks, asker_some asks, List.filter_cons, List.filter_cons, here]
      split
      · simp only [needs, List.map_cons, List.sum_cons] at rest ⊢
        rw [rest]
      · exact rest

/-- The counted peers are other stations. -/
theorem counted_other {s : State} (legal : PeersLegal s.station s.share.peers) {p : Peer} (m : p ∈ s.countedPeers) :
    p.station ≠ s.station :=
  (legal.2.2 p (List.mem_filter.mp m).1).2.1

/-- The askers in a walk of the part's own. -/
theorem askers_asking {s : State} (asking : s.share.state = .asking) :
    s.askers = insertBy Asker.before ⟨s.station, s.rank, s.share.draw.toNat, s.need, true⟩
      (sortBy Asker.before (s.countedPeers.filterMap Peer.asker)) := by
  rw [State.askers, if_pos asking]
  rfl

/-- The part's give (R26): at most its need and what the askers ahead of it leave of the margin. -/
theorem ownGive_eq {s : State} (legal : PeersLegal s.station s.share.peers) (asking : s.share.state = .asking) (margin : Int) :
    ownGive (gives s.askers margin) = min s.need (margin - s.sumCounted Peer.need s.ahead).toNat := by
  have peer {a : Asker} (m : a ∈ s.countedPeers.filterMap Peer.asker) :
      ∃ p ∈ s.countedPeers, a = ⟨p.station, p.rank, p.draw, p.need, false⟩ := by
    obtain ⟨p, counted, asks⟩ := List.mem_filterMap.mp m
    exact ⟨p, counted, asker_some asks⟩
  obtain ⟨l, r, placed, among, sum⟩ := insertBy_sortBy askerBefore_trans askerBefore_asymm
    (x := (⟨s.station, s.rank, s.share.draw.toNat, s.need, true⟩ : Asker)) (q := s.countedPeers.filterMap Peer.asker)
    (fun a m => by
      obtain ⟨p, counted, rfl⟩ := peer m
      have other := counted_other legal counted
      simp only [askerBefore_iff]
      omega) Asker.need
  rw [askers_asking asking, placed,
    ownGive_at margin (fun a m => by obtain ⟨p, -, rfl⟩ := peer (among a m); rfl) rfl]
  have first : needs l = s.sumCounted Peer.need s.ahead := by
    rw [needs, sum]
    refine needs_counted fun p counted => ?_
    rw [Bool.eq_iff_iff, askerBefore_iff, ahead_iff]
  rw [first]

/-- The urgent unmet need (R28): of the counted peers of a rank below the part's own, what the margin does not cover. -/
theorem urgentUnmet_eq (s : State) (margin : Int) :
    urgentUnmet s.rank (gives s.askers margin)
      = s.sumCounted Peer.need (fun p => decide (p.rank < s.rank)) - margin.toNat := by
  have sorted : s.askers.Pairwise (fun a b => a.rank ≤ b.rank) := by
    refine (sortBy_sorted askerBefore_trans askerBefore_asymm _).imp fun {a b} after => ?_
    rw [Bool.eq_false_iff, Ne, askerBefore_iff] at after
    omega
  rw [urgentUnmet_gives sorted]
  have perm := ((sortBy_perm Asker.before ((if s.share.state = .asking then
      [(⟨s.station, s.rank, s.share.draw.toNat, s.need, true⟩ : Asker)] else [])
        ++ s.countedPeers.filterMap Peer.asker)).filter (fun a => decide (a.rank < s.rank))).map Asker.need
  have own : (if s.share.state = .asking then
      [(⟨s.station, s.rank, s.share.draw.toNat, s.need, true⟩ : Asker)] else []).filter (fun a => decide (a.rank < s.rank)) = [] := by
    split <;> simp
  have sum : needs (s.askers.filter (fun a => decide (a.rank < s.rank)))
      = needs ((s.countedPeers.filterMap Peer.asker).filter (fun a => decide (a.rank < s.rank))) := by
    refine perm.sum_eq.trans ?_
    rw [List.filter_append, own]
    exact congrArg List.sum (congrArg _ (List.nil_append _))
  rw [sum, needs_counted (c := fun p => decide (p.rank < s.rank)) (fun _ _ => rfl)]

/-- The holds of the worse holders: of the peers the part is not behind (R28). -/
theorem holds_worse {s : State} {minRank : Nat} (low : minRank ≤ s.rank) {own : Holder} {q : List Peer}
    (behind : ∀ p ∈ q, p.holder.before own = !s.ahead p) :
    ((((q.filter (fun p => decide (0 < p.hold) && decide (minRank ≤ p.rank))).map Peer.holder).filter
        (fun h => h.before own)).map Holder.hold).sum
      = ((q.filter (fun p => !s.ahead p)).map Peer.hold).sum := by
  induction q with
  | nil => rfl
  | cons p q ih =>
    have rest := ih (fun x m => behind x (List.mem_cons_of_mem _ m))
    have here := behind p List.mem_cons_self
    cases after : s.ahead p with
    | true =>
      rw [after] at here
      rw [List.filter_cons_of_neg (p := fun p => !s.ahead p) (by simp [after]), ← rest, List.filter_cons]
      split
      · rw [List.map_cons, List.filter_cons_of_neg (by rw [here]; decide)]
      · rfl
    | false =>
      rw [after] at here
      have ranked : minRank ≤ p.rank := by
        rw [Bool.eq_false_iff, Ne, ahead_iff] at after
        omega
      rw [List.filter_cons_of_pos (p := fun p => !s.ahead p) (by simp [after]), List.map_cons, List.sum_cons, ← rest,
        List.filter_cons]
      split
      · rw [List.map_cons, List.filter_cons_of_pos (p := fun h : Holder => h.before own) here, List.map_cons, List.sum_cons]
        rfl
      · rename_i drops
        have empty : p.hold = 0 := by
          simp only [ranked, decide_true, Bool.and_true, decide_eq_true_eq] at drops
          omega
        rw [empty, Nat.zero_add]

/-- The part's portion (R28, R29): at most its hold, of what the worse holders leave of the amount. -/
theorem ownPortion_eq {s : State} (legal : PeersLegal s.station s.share.peers) {minRank : Nat} (low : minRank ≤ s.rank)
    (hold amount : Nat) :
    ownPortion (s.holders minRank hold) amount
      = min hold (amount - s.sumCounted Peer.hold (fun p => !s.ahead p)) := by
  let peers := (s.countedPeers.filter (fun p => decide (0 < p.hold) && decide (minRank ≤ p.rank))).map Peer.holder
  have peer {h : Holder} (m : h ∈ peers) : ∃ p ∈ s.countedPeers, h = p.holder := by
    obtain ⟨p, kept, rfl⟩ := List.mem_map.mp m
    exact ⟨p, (List.mem_filter.mp kept).1, rfl⟩
  by_cases holds : 0 < hold
  · obtain ⟨l, r, placed, among, sum⟩ := insertBy_sortBy holderBefore_trans holderBefore_asymm
      (x := (⟨s.station, s.rank, s.share.draw.toNat, hold, true⟩ : Holder)) (q := peers)
      (fun h m => by
        obtain ⟨p, counted, rfl⟩ := peer m
        have other := counted_other legal counted
        simp only [holderBefore_iff, Peer.holder]
        omega) Holder.hold
    have walk : s.holders minRank hold = l ++ ⟨s.station, s.rank, s.share.draw.toNat, hold, true⟩ :: r := by
      rw [State.holders, if_pos holds]
      exact placed
    rw [walk, ownPortion_at amount (fun h m => by obtain ⟨p, -, rfl⟩ := peer (among h m); rfl) rfl, sum]
    have worse : ((peers.filter (fun h => h.before ⟨s.station, s.rank, s.share.draw.toNat, hold, true⟩)).map Holder.hold).sum
        = s.sumCounted Peer.hold (fun p => !s.ahead p) := by
      have behind : ∀ p ∈ s.countedPeers,
          p.holder.before ⟨s.station, s.rank, s.share.draw.toNat, hold, true⟩ = !s.ahead p := fun p counted => by
        have other := counted_other legal counted
        rw [Bool.eq_iff_iff, holderBefore_iff, Bool.not_eq_true', Bool.eq_false_iff, Ne, ahead_iff]
        simp only [Peer.holder]
        omega
      exact holds_worse low behind
    rw [worse]
  · have none : hold = 0 := by omega
    rw [State.holders, if_neg holds, none, Nat.zero_min]
    exact ownPortion_none amount fun h m => by
      obtain ⟨p, -, rfl⟩ := peer ((sortBy_perm Holder.before _).mem_iff.mp m)
      rfl

/-! ## What the walks decide (R27 to R30) -/

/-- A portion that gives way (R30); one of 0 changes nothing. -/
theorem giveWay_eq {h : Share} (inRange : h.pendingCut ≤ 2047) (n : Nat) :
    h.giveWay n
      = { h with pendingCut := min 2047 (h.pendingCut + n), coolDown := if 0 < n then 6 else h.coolDown } := by
  by_cases some_ : 0 < n
  · simp only [Share.giveWay, if_pos some_, satAdd]
  · have same : min 2047 (h.pendingCut + n) = h.pendingCut := by omega
    simp only [Share.giveWay, if_neg some_, same]

/-- A portion that gives way leaves hold, peers and draw. -/
theorem giveWay_keeps (n : Nat) (h : Share) :
    (h.giveWay n).hold = h.hold ∧ (h.giveWay n).peers = h.peers ∧ (h.giveWay n).draw = h.draw := by
  unfold Share.giveWay
  split <;> exact ⟨rfl, rfl, rfl⟩

/-- Two portions that give way one after the other (R30). -/
theorem giveWay_twice {h : Share} (inRange : h.pendingCut ≤ 2047) (y x : Nat) :
    (h.giveWay y).giveWay x
      = { h with
          pendingCut := min 2047 (h.pendingCut + y + x), coolDown := if 0 < y ∨ 0 < x then 6 else h.coolDown } := by
  have cut : min 2047 (min 2047 (h.pendingCut + y) + x) = min 2047 (h.pendingCut + y + x) := by omega
  have cool : (if 0 < x then 6 else if 0 < y then 6 else h.coolDown) = if 0 < y ∨ 0 < x then 6 else h.coolDown := by
    by_cases first : 0 < y <;> by_cases second : 0 < x <;> simp [first, second]
  rw [giveWay_eq inRange, giveWay_eq (Nat.min_le_left _ _), cut, cool]

/-- The grant of a tick: what it adds to the hold, and the count of those denied (R27). -/
theorem grant_eq (g need : Nat) (h : Share) :
    h.grant g need
      = { h with
          hold := h.hold + g, denyCount := if 0 < g then 0 else min 255 (h.denyCount + 1)
          starved := if 0 < g then false else h.starved || decide (16 ≤ min 255 (h.denyCount + 1))
          state := if 0 < g ∧ g = need then .steady else h.state } := by
  by_cases some_ : 0 < g
  · rw [Share.grant, if_pos some_, if_pos some_, if_pos some_]
    simp only [some_, true_and]
  · have zero : g = 0 := by omega
    rw [Share.grant, if_neg some_, if_neg some_, if_neg some_, if_neg (fun both => some_ both.1), zero]
    rfl

/-- A grant is permitted in ASKING, with three own announcements SENT, no cool-down and a table that is not full (R27). -/
abbrev Share.Permitted (h : Share) : Prop :=
  h.state = .asking ∧ h.ownCount = 3 ∧ h.coolDown = 0 ∧ h.tableFull = false

/-- The grant of a tick of the part (R26, R27): its need, at most what the askers ahead leave of the margin. -/
def State.grantAt (limit : Nat) (s : State) : Nat :=
  if s.share.Permitted then min s.need (s.freeMargin limit - s.sumCounted Peer.need s.ahead).toNat else 0

/-- The share engine after the grant of a tick, its cool-down counted (R27, R30). -/
def Share.granted (g need : Nat) (h : Share) : Share :=
  { h with
    hold := h.hold + g, coolDown := h.coolDown - 1
    denyCount := if h.Permitted then (if 0 < g then 0 else min 255 (h.denyCount + 1)) else h.denyCount
    starved :=
      if h.Permitted then (if 0 < g then false else h.starved || decide (16 ≤ min 255 (h.denyCount + 1))) else h.starved
    state := if h.state = .asking ∧ 0 < g ∧ g = need then .steady else h.state }

/-- The tick's count of the cool-down (R30). -/
abbrev State.cooled (s : State) : State := s.mapShare (fun h => { h with coolDown := h.coolDown - 1 })

/-- The asker walk of a tick grants what `grantAt` says (R26, R27). -/
theorem tickGrant_eq {s : State} (legal : PeersLegal s.station s.share.peers) (limit : Nat) :
    s.cooled.tickGrant (decide (0 < s.share.coolDown)) (gives s.cooled.askers (s.cooled.freeMargin limit))
      = { s with share := s.share.granted (s.grantAt limit) s.need } := by
  have permitted : s.cooled.share.grantPermitted (decide (0 < s.share.coolDown)) = true ↔ s.share.Permitted := by
    show (decide (s.share.state = .asking) && decide (s.share.ownCount = 3) && !decide (0 < s.share.coolDown)
      && !s.share.tableFull) = true ↔ _
    simp only [Bool.and_eq_true, decide_eq_true_eq, Bool.not_eq_true', decide_eq_false_iff_not, Nat.not_lt, Nat.le_zero, and_assoc]
  rw [State.tickGrant]
  by_cases yes : s.share.Permitted
  · have give : ownGive (gives s.cooled.askers (s.cooled.freeMargin limit)) = s.grantAt limit := by
      rw [State.grantAt, if_pos yes]
      exact ownGive_eq legal yes.1 _
    rw [if_pos (permitted.mpr yes), give]
    show { s with share := s.cooled.share.grant (s.grantAt limit) s.need } = _
    rw [grant_eq, Share.granted]
    simp only [if_pos yes, yes.1, true_and]
    rw [show s.cooled.share.state = .asking from yes.1]
    rfl
  · have zero : s.grantAt limit = 0 := if_neg yes
    rw [if_neg (fun h => yes (permitted.mp h)), zero, Share.granted, if_neg yes, if_neg yes,
      if_neg (fun h => absurd h.2.1 (Nat.lt_irrefl _))]
    rfl

/-- The yield (R28): of the urgent unmet need, what the worse holders do not cover; none in ISOLATED. -/
def State.yieldAt (limit : Nat) (s : State) : Nat :=
  if s.share.state = .isolated then 0
  else
    min (s.share.hold + s.grantAt limit)
      (s.sumCounted Peer.need (fun p => decide (p.rank < s.rank)) - (s.freeMargin limit).toNat
        - s.sumCounted Peer.hold (fun p => !s.ahead p))

/-- The shed (R29): of the excess over the limit, what the worse holders do not cover. -/
def State.shedAt (limit : Nat) (s : State) : Nat :=
  min (s.share.hold + s.grantAt limit - s.yieldAt limit)
    (s.share.hold + s.grantAt limit - s.yieldAt limit + s.peerSum - limit - s.sumCounted Peer.hold (fun p => !s.ahead p))

/-- The share engine after the walks of a tick (R25 to R30). -/
def State.walkedShare (limit : Nat) (s : State) : Share :=
  ((s.share.granted (s.grantAt limit) s.need).giveWay (s.yieldAt limit)).giveWay (s.shedAt limit)

/-- The walks of a tick in STEADY and ASKING grant, yield and shed; in ISOLATED they shed alone (R25). -/
theorem tickWalks_eq {s : State} (legal : PeersLegal s.station s.share.peers) (limit : Nat)
    (walks : s.share.state = .steady ∨ s.share.state = .asking ∨ s.share.state = .isolated) :
    s.cooled.tickWalks (decide (0 < s.share.coolDown)) limit = { s with share := s.walkedShare limit } := by
  by_cases inside : s.share.state = .isolated
  · have other : ¬s.share.Permitted := fun h => absurd (h.1.symm.trans inside) (by decide)
    have noGrant : s.grantAt limit = 0 := if_neg other
    have noYield : s.yieldAt limit = 0 := if_pos inside
    have grants : s.share.granted 0 s.need = s.cooled.share := by
      rw [Share.granted, if_neg other, if_neg other, if_neg (fun h => absurd h.2.1 (Nat.lt_irrefl _))]
      rfl
    have sheds : s.cooled.shedPortion limit 0 = s.shedAt limit := by
      rw [State.shedPortion, ownPortion_eq (s := s.cooled) legal (Nat.zero_le _), State.shedAt, noGrant, noYield]
      rfl
    rw [State.tickWalks, if_neg (by rw [show s.cooled.share.state = .isolated from inside]; decide),
      if_pos (show s.cooled.share.state = .isolated from inside), sheds, State.walkedShare, noGrant, noYield, grants]
    rfl
  · have running : s.cooled.share.state.walks = true := by
      show s.share.state.walks = true
      obtain steady | asking | isolated := walks
      · rw [steady]; rfl
      · rw [asking]; rfl
      · exact absurd isolated inside
    let t : State := { s with share := s.share.granted (s.grantAt limit) s.need }
    have yields : t.yieldPortion (gives s.cooled.askers (s.cooled.freeMargin limit)) = s.yieldAt limit := by
      rw [State.yieldPortion, ownPortion_eq (s := t) legal (Nat.le_refl _), State.yieldAt, if_neg inside]
      show min _ (urgentUnmet s.cooled.rank (gives s.cooled.askers (s.cooled.freeMargin limit)) - _) = _
      rw [urgentUnmet_eq s.cooled]
      rfl
    let u : State := t.mapShare (Share.giveWay (s.yieldAt limit))
    obtain ⟨hold, peers, draw⟩ := giveWay_keeps (s.yieldAt limit) t.share
    have sheds : u.shedPortion limit (s.yieldAt limit) = s.shedAt limit := by
      have sum (f : Peer → Nat) (c : Peer → Bool) : u.sumCounted f c = s.sumCounted f c := by
        show (((u.share.peers.filter _).filter c).map f).sum = _
        rw [show u.share.peers = s.share.peers from peers]
        rfl
      have all : u.peerSum = s.peerSum := by
        show ((u.share.peers.filter Peer.counted).map Peer.hold).sum = _
        rw [show u.share.peers = s.share.peers from peers]
        rfl
      have ahead : u.ahead = s.ahead := by
        funext p
        rw [State.ahead, show u.share.draw = s.share.draw from draw]
        rfl
      have level : u.share.hold = s.share.hold + s.grantAt limit := hold
      rw [State.shedPortion, ownPortion_eq (s := u) (by rw [show u.share.peers = s.share.peers from peers]; exact legal)
        (Nat.zero_le _), sum, all, ahead, level, State.shedAt]
    rw [State.tickWalks, if_pos running]
    dsimp only
    rw [tickGrant_eq legal, yields, sheds]
    rfl

end Sys2Proof.Machine
end

section
/-! PROOFS. The announce tick (R11, R12, R21, R25 to R30), and what MAINS applies at once (R24). -/

namespace Sys2Proof.Machine

/-! ## What MAINS applies at once (R24) -/

/-- Under MAINS an isolation entry or a lower hold is settled and announced. -/
theorem mainsApply_acts {s : State} (out : s.mainsOut = true)
    (acts : s.isolationDue = true ∨ s.isolateIfDue.mainsHold < s.isolateIfDue.share.hold) :
    s.mainsApply
      = { s.isolateIfDue.settledAt s.isolateIfDue.mainsHold with
          bus := (s.isolateIfDue.settledAt s.isolateIfDue.mainsHold).handed s.bus } := by
  have loud : (s.isolateIfDue.settledAt s.isolateIfDue.mainsHold).share.state ≠ .quiet := by
    show s.isolateIfDue.share.state ≠ .quiet
    intro quiet
    obtain due | lower := acts
    · rw [State.isolateIfDue, if_pos due] at quiet
      cases quiet
    · rw [State.mainsHold, quiet] at lower
      exact absurd lower (Nat.lt_irrefl _)
  have bus : s.isolateIfDue.bus = s.bus := (isolateIfDue_does s).only.bus
  have yes : (s.isolationDue || decide (s.isolateIfDue.mainsHold < s.isolateIfDue.share.hold)) = true := by simpa using acts
  rw [State.mainsApply, if_pos out]
  dsimp only
  rw [if_pos yes]
  show (s.isolateIfDue.settledAt s.isolateIfDue.mainsHold).announce = _
  rw [announce_eq loud, ← bus]

/-- Else nothing happens. -/
theorem mainsApply_rests {s : State} (due : s.isolationDue = false) (level : ¬s.mainsHold < s.share.hold) :
    s.mainsApply = s := by
  have still : s.isolateIfDue = s := by rw [State.isolateIfDue, due]; rfl
  simp only [State.mainsApply, still, due, level, decide_false, Bool.or_self, Bool.false_eq_true, if_false, ite_self]

/-- An isolation is due where LINK or DUPLICATE_STATION is active outside ISOLATED (R17). -/
theorem isolationDue_iff (s : State) :
    s.isolationDue = true
      ↔ (s.faults.link.active = true ∨ s.faults.duplicateStation.active = true) ∧ s.share.state ≠ .isolated := by
  simp only [State.isolationDue, State.cutOff, State.faultActive, FaultSet.get, Bool.and_eq_true, Bool.or_eq_true,
    decide_eq_true_eq]

/-- What MAINS applies at once leaves ask and draw, the counts of the round but at an entry to ISOLATED, and the state but for
that entry. -/
theorem mainsApply_fields (s : State) :
    s.mainsApply.share.ask = s.share.ask ∧ s.mainsApply.share.draw = s.share.draw
      ∧ (s.mainsApply.share.state = s.share.state ∨ s.mainsApply.share.state = .isolated) := by
  have entered : s.isolateIfDue.share.ask = s.share.ask ∧ s.isolateIfDue.share.draw = s.share.draw
      ∧ (s.isolateIfDue.share.state = s.share.state ∨ s.isolateIfDue.share.state = .isolated) := by
    unfold State.isolateIfDue
    split
    · exact ⟨rfl, rfl, .inr rfl⟩
    · exact ⟨rfl, rfl, .inl rfl⟩
  by_cases out : s.mainsOut = true
  · by_cases acts : s.isolationDue = true ∨ s.isolateIfDue.mainsHold < s.isolateIfDue.share.hold
    · rw [mainsApply_acts out acts]
      exact entered
    · obtain ⟨due, level⟩ := not_or.mp acts
      have due : s.isolationDue = false := by simpa using due
      have still : s.isolateIfDue = s := by rw [State.isolateIfDue, due]; rfl
      rw [still] at level
      rw [mainsApply_rests due level]
      exact ⟨rfl, rfl, .inl rfl⟩
  · rw [mainsApply_off (by simpa using out)]
    exact ⟨rfl, rfl, .inl rfl⟩

/-! ## The parts of a tick (R25) -/

/-- Outside QUIET a tick walks, announces, ages the table and counts (R25). -/
theorem shareTick_loud {s : State} (loud : s.share.state ≠ .quiet) :
    s.shareTick = ((s.cooled.tickShare (decide (0 < s.share.coolDown))).mainsApply.announce).ageTable.tickCounters := by
  rw [State.shareTick, if_neg loud]

/-- In QUIET a tick ages the table alone (R21, R25). -/
theorem shareTick_quiet {s : State} (quiet : s.share.state = .quiet) : s.shareTick = s.ageTable := by
  have aged : s.ageTable.share.state = .quiet := quiet
  rw [State.shareTick, if_pos quiet, State.tickCounters, aged]

/-- The counters of a tick outside LISTEN: a part at rest may enter QUIET, and no other field changes (R21, R25). -/
theorem tickCounters_running {s : State} (running : s.share.state ≠ .listen) :
    ∃ count state, s.tickCounters = { s with share := { s.share with quietCount := count, state := state } }
      ∧ (s.share.state ≠ .steady ∧ s.share.state ≠ .unshared ∨ 0 < s.share.hold → state = s.share.state) := by
  have quiets : ∃ count state, s.tickQuiet = { s with share := { s.share with quietCount := count, state := state } }
      ∧ (0 < s.share.hold → state = s.share.state) := by
    unfold State.tickQuiet
    split
    · rename_i rest
      have empty : s.share.hold = 0 := by
        simp only [State.atRest, Bool.and_eq_true, decide_eq_true_eq] at rest
        exact rest.1.1.2
      exact ⟨_, _, rfl, fun some_ => absurd empty (Nat.ne_of_gt some_)⟩
    · exact ⟨_, _, rfl, fun _ => rfl⟩
  unfold State.tickCounters
  cases state : s.share.state
  case listen => exact absurd state running
  case steady | unshared =>
    obtain ⟨count, next, counted, kept⟩ := quiets
    refine ⟨count, next, counted, fun h => ?_⟩
    rw [← state]
    exact kept (h.resolve_left (by simp))
  all_goals exact ⟨s.share.quietCount, s.share.state, rfl, fun _ => state⟩

/-- A sum over all counted peers (R6). -/
theorem sumCounted_all (f : Peer → Nat) (s : State) : s.sumCounted f (fun _ => true) = (s.countedPeers.map f).sum := by
  rw [State.sumCounted, List.filter_true]
  rfl

/-- The announce tick in service (R25). -/
theorem announceTick_inService {s : State} (service : s.inService = true) :
    exec .announceTick s = .next (s.reported s.shareTick) := congrArg Host.Outcome.next (if_pos service)

/-- A withdrawal of no load changes nothing (R49). -/
theorem withdraw_none (s : State) : s.withdraw (fun _ => false) = s := by
  simp only [State.withdraw, State.mapLoad, LoadFrame.withdraw, Bool.or_false]
  split <;> rfl

/-- Settles O20: the walks by what they decide, MAINS by what it applies at once, and the two conditions that isolate. -/
theorem announceTickWalks : Obligations.AnnounceTickWalks := by
  refine ⟨?walks, ?mains, ?raise⟩
  case walks =>
    intro L s service limit running inRange legal asking isolated peerHolds worseHolds margin need permitted g urgent y left x denied
      walked m
    have loud : s.share.state ≠ .quiet := by
      obtain h | h | h := running <;> rw [h] <;> decide
    have holds : peerHolds = s.peerSum := sumCounted_all _ _
    have free : s.freeMargin L = margin := by
      show (L : Int) - 15 - s.peerSum - s.share.hold = (L : Int) - 15 - peerHolds - s.share.hold
      rw [holds]
    have grant : s.grantAt L = g := by rw [State.grantAt, free]; rfl
    have yield : s.yieldAt L = y := by rw [State.yieldAt, grant, free]
    have shed : s.shedAt L = x := by rw [State.shedAt, grant, yield, ← holds]
    have share : s.walkedShare L = walked.share := by
      rw [State.walkedShare, giveWay_twice (by exact inRange), grant, yield, shed]
      rfl
    have tick : s.shareTick = m.announce.ageTable.tickCounters := by
      rw [shareTick_loud loud, State.tickShare, show s.cooled.limit = some L from limit]
      dsimp only
      rw [tickWalks_eq legal L running, share]
    obtain ⟨askSame, drawSame, stateSame⟩ := mainsApply_fields walked
    have mState : m.share.state = .steady ∨ m.share.state = .asking ∨ m.share.state = .isolated := by
      obtain same | entered := stateSame
      · have moved : walked.share.state = if asking ∧ 0 < g ∧ g = need then .steady else s.share.state := rfl
        rw [same, moved]
        split
        · exact .inl rfl
        · exact running
      · exact .inr (.inr entered)
    have mLoud : m.share.state ≠ .quiet ∧ m.share.state ≠ .listen := by
      obtain h | h | h := mState <;> rw [h] <;> decide
    obtain ⟨count, state, counted, kept⟩ := tickCounters_running (s := m.announce.ageTable) (by
      rw [announce_eq mLoud.1]
      exact mLoud.2)
    rw [announce_eq mLoud.1] at tick counted kept
    rw [counted] at tick
    refine ⟨s.shareTick, announceTick_inService service, ?_, ?_, ?_, fun calm => ?_, ?_, fun on => mainsApply_off on,
      (shareTick_does s).only.mono (by decide)⟩ <;> rw [tick]
    · exact ⟨rfl, rfl, rfl⟩
    · exact ⟨rfl, rfl, rfl⟩
    · exact ⟨askSame, drawSame, rfl⟩
    · refine kept (calm.imp (fun other => ⟨other, ?_⟩) id)
      show m.share.state ≠ .unshared
      obtain h | h | h := mState <;> rw [h] <;> decide
    · rfl
  case mains =>
    intro s enters h target cut hold u
    have due : s.isolationDue = true ↔ enters := isolationDue_iff s
    have entered : s.isolateIfDue = { s with share := h } := by
      unfold State.isolateIfDue
      by_cases yes : enters
      · rw [if_pos (due.mpr yes), show h = s.share.isolate from if_pos yes]
        rfl
      · rw [if_neg (fun d => yes (due.mp d)), show h = s.share from if_neg yes]
    have same : State.isolatedTarget { s with share := h } = target := by
      cases limit : s.limit with
      | none => rw [isolatedTarget_free (s := { s with share := h }) limit]; simp only [target, limit]
      | some L => rw [isolatedTarget_limited (s := { s with share := h }) limit]; simp only [target, limit]
    have level : State.mainsHold { s with share := h } = hold := by
      simp only [State.mainsHold, State.reducedHold, same, hold]
      cases h.state <;> rfl
    refine ⟨mainsApply_off, fun out stays flat => ?_, fun out acts => ?_⟩
    · have still : s.isolateIfDue = s := by
        rw [State.isolateIfDue, if_neg (fun d => stays (due.mp d))]
      have idle : s.isolationDue = false := by simpa using fun d => stays (due.mp d)
      refine mainsApply_rests idle ?_
      have now : s.mainsHold = hold := by rw [← level, ← entered, still]
      have before : h.hold = s.share.hold := by rw [show h = s.share from if_neg stays]
      rw [now, flat, before]
      exact Nat.lt_irrefl _
    · rw [mainsApply_acts out (acts.imp due.mpr (fun lower => by rw [entered, level]; exact lower)), entered, level]
      rfl
  case raise =>
    intro k s kind inactive follows
    have quiet : s.faultActive k = false := inactive
    let t : State := { s with faults := s.faults.set k ⟨true, false, min 255 ((s.faults.get k).count + 1)⟩ }
    have set : s.setFault k FaultRecord.arise = t := by
      rw [State.setFault, State.mapFaults, arise_of_inactive inactive]
    have only : Only [.fault k] s t := by rw [← set]; exact (setFault_does k (arise_move k) s).only
    have following : t.Follows := by
      obtain rfl | rfl := kind
      · exact only.follows follows
      · exact only.follows follows
    have begins : t.faultBegins k = t.mainsApply := by
      have kept : t.withdraw k.cuts = t := by
        obtain rfl | rfl := kind
        · exact withdraw_none t
        · exact withdraw_none t
      have free : t.programFault k = t := by
        obtain rfl | rfl := kind <;> exact programFault_nothing rfl rfl t
      have bars : t.barBoiler k = t := by obtain rfl | rfl := kind <;> rfl
      rw [State.faultBegins, kept, bars, free, State.updateCeiling, if_pos following.1.symm]
    rw [State.raise, quiet, if_neg Bool.false_ne_true, set, begins]

end Sys2Proof.Machine
end

section
/-! PROOFS. What raises the hold, and the announce tick's table and states (R11, R12, R21, R25). -/

namespace Sys2Proof.Machine

/-! ## A boundary raises the hold outside the sharing states alone (R18, R20, R23) -/

/-- A hold that has risen is that of ISOLATED or UNSHARED. -/
def RisesOutside (s t : State) : Prop :=
  s.share.hold < t.share.hold → t.share.state = .isolated ∨ t.share.state = .unshared

/-- What does not raise the hold may come before. -/
theorem RisesOutside.after {as : List Aspect} {bs : List Inv} {s t u : State} (first : Does as bs s t)
    (h : RisesOutside t u) (n : .hold ∉ bs := by decide) : RisesOutside s u :=
  fun rises => h (Nat.lt_of_le_of_lt (first.kept .hold n _ (Nat.le_refl _)) rises)

/-- What neither raises the hold nor leaves these states may follow. -/
theorem RisesOutside.then {as : List Aspect} {bs : List Inv} {s t u : State} (h : RisesOutside s t)
    (last : Does as bs t u) (n : .hold ∉ bs ∧ .outside ∉ bs := by decide) : RisesOutside s u :=
  fun rises => last.kept .outside n.2 (h (Nat.lt_of_lt_of_le rises (last.kept .hold n.1 _ (Nat.le_refl _))))

/-- What does not raise the hold at all. -/
theorem Does.risesOutside {as : List Aspect} {bs : List Inv} {s t : State} (h : Does as bs s t)
    (n : .hold ∉ bs := by decide) : RisesOutside s t :=
  fun rises => absurd rises (Nat.not_lt.mpr (h.kept .hold n _ (Nat.le_refl _)))

/-- The share engine at a boundary. -/
theorem shareBoundary_risesOutside (s : State) : RisesOutside s s.shareBoundary := by
  obtain ⟨joined, cut, -⟩ := boundarySettlesTheHold s
  intro rises
  by_cases cutOff : s.cutOff = true
  · exact .inl (cut cutOff).1
  · obtain ⟨steady, asking, unshared, isolated, rests⟩ := joined (by simpa using cutOff)
    cases state : s.share.state
    case steady =>
      rw [(steady state).1] at rises
      omega
    case asking =>
      rw [asking state] at rises
      exact absurd rises (Nat.not_lt.mpr (Nat.sub_le _ _))
    case unshared => exact .inr (by rw [unshared state]; exact state)
    case isolated => exact .inl (by rw [isolated state]; exact state)
    case listen | quiet =>
      rw [rests (by simp [state])] at rises
      exact absurd rises (Nat.lt_irrefl _)

/-- The gates of a frame that begins carry no share. -/
theorem beginFrame_switchGates_share (d : PerLoad Nat) (s : State) : ((s.beginFrame d).switchGates).share = s.share := rfl

/-- A frame's beginning may follow too. -/
theorem RisesOutside.begins {s t : State} (h : RisesOutside s t) (d : PerLoad Nat) :
    RisesOutside s ((t.beginFrame d).switchGates) := by
  rw [RisesOutside, beginFrame_switchGates_share]
  exact h

/-- A boundary crossing. -/
theorem boundaryCrossing_risesOutside (smp : Sample) (ms : Nat) (s : State) :
    RisesOutside s (s.boundaryCrossing smp ms) := by
  have closed := (advanceLfsr_does s).seq (closeFrame_does ms s.advanceLfsr)
  unfold State.boundaryCrossing
  dsimp only
  split
  · exact (closed.seq (runSettle_does _)).risesOutside
  · rename_i on
    have counted := closed.seq (countCrossing_does (s.advanceLfsr.closeFrame ms))
    let a := (((s.advanceLfsr.closeFrame ms).countCrossing.sampleAll smp).sampleTests true).runSettle
    let b := (a.shareBoundary.regulate.boilerBoundary).runSettle
    have first := ((counted.seq (sampleAll_does smp _)).seq (sampleTests_does true _)).seq (runSettle_does _)
    have last := ((regulate_does a.shareBoundary).seq (boilerBoundary_does _)).seq (runSettle_does _)
    have frame : RisesOutside s b := (RisesOutside.after first (shareBoundary_risesOutside a)).then last
    exact (frame.begins (b.frameDemands b.statedDemand)).then (fire_does _ _)

/-- Any crossing. -/
theorem crossing_risesOutside (s : State) : RisesOutside s s.crossing := by
  unfold State.crossing
  split
  · exact fun rises => absurd rises (Nat.lt_irrefl _)
  · exact fun rises => absurd rises (Nat.lt_irrefl _)
  · split
    · exact boundaryCrossing_risesOutside _ _ s
    · split
      · rename_i within runs
        have run : s.load.running = true := by
          by_contra stopped
          simp_all [State.boundaryDue]
        have more : s.load.cycle < 19 := by
          by_contra last
          simp_all [State.boundaryDue]
        exact (cycleCrossing_does run more).risesOutside
      · exact (advanceLfsr_does s).risesOutside

/-- The next sample. -/
theorem nextSample_risesOutside (smp : Sample) (s : State) : RisesOutside s (s.nextSample smp) := by
  unfold State.nextSample
  split
  · exact (timerSample_does smp s).risesOutside
  · split
    · exact boundaryCrossing_risesOutside smp _ s
    · exact (Does.refl (as := []) (bs := []) s).risesOutside

/-! ## A tick raises the hold within the reserve (R26, R27) -/

/-- The hold has not risen above what leaves the peers' holds and the reserve their place under the limit. -/
def RisesWithin (s t : State) : Prop :=
  s.share.hold < t.share.hold →
    ∃ L, s.limit = some L ∧ t.share.hold + s.sumCounted Peer.hold (fun _ => true) + 15 ≤ L

/-- No give is above the margin (R26). -/
theorem ownGive_le_margin (q : List Asker) (margin : Int) : ownGive (gives q margin) ≤ margin.toNat := by
  induction q generalizing margin with
  | nil => exact Nat.zero_le _
  | cons a q ih =>
    by_cases own : a.own = true
    · have found : ownGive (gives (a :: q) margin) = give a.need margin := by
        rw [ownGive, gives, List.find?_cons_of_pos (p := fun p : Asker × Nat => p.1.own) own]
      rw [found]
      exact Nat.min_le_right _ _
    · have rest : ownGive (gives (a :: q) margin) = ownGive (gives q (margin - give a.need margin)) := by
        rw [ownGive, gives, List.find?_cons_of_neg (p := fun p : Asker × Nat => p.1.own) own]
        rfl
      have less := ih (margin - give a.need margin)
      rw [rest]
      omega

/-- The grant of a tick, whatever its list of askers (R27). -/
theorem tickGrant_hold (barred : Bool) (given : List (Asker × Nat)) (s : State) :
    (s.tickGrant barred given).share.hold ≤ s.share.hold + ownGive given := by
  unfold State.tickGrant
  split
  · show (s.share.grant (ownGive given) s.need).hold ≤ _
    rw [grant_eq]
  · exact Nat.le_add_right _ _

/-- The walks of a tick (R25). -/
theorem tickShare_hold (barred : Bool) (s : State) :
    (s.tickShare barred).share.hold ≤ s.share.hold
      ∨ ∃ L, s.limit = some L ∧ (s.tickShare barred).share.hold ≤ s.share.hold + (s.freeMargin L).toNat := by
  unfold State.tickShare
  cases limit : s.limit with
  | none => exact .inl (Nat.le_refl _)
  | some L =>
    dsimp only
    unfold State.tickWalks
    split
    · refine .inr ⟨L, rfl, ?_⟩
      dsimp only
      have gives_ := tickGrant_hold barred (gives s.askers (s.freeMargin L)) s
      have margin := ownGive_le_margin s.askers (s.freeMargin L)
      rw [State.mapShare_share, (giveWay_keeps _ _).1, State.mapShare_share, (giveWay_keeps _ _).1]
      omega
    · split
      · exact .inl (by rw [State.mapShare_share, (giveWay_keeps _ _).1])
      · exact .inl (Nat.le_refl _)

/-- The tick. -/
theorem tickEvent_risesWithin (s : State) : RisesWithin s s.tickEvent := by
  intro rises
  unfold State.tickEvent at rises ⊢
  split at rises
  · rename_i service
    rw [if_pos service]
    have level : (s.reported s.shareTick).share = s.shareTick.share := (reported_does s _).only.share
    rw [level] at rises ⊢
    by_cases quiet : s.share.state = .quiet
    · rw [shareTick_quiet quiet] at rises
      exact absurd rises (Nat.lt_irrefl _)
    · let w := s.cooled.tickShare (decide (0 < s.share.coolDown))
      have rest := (((mainsApply_does w).seq (announce_does _)).seq (ageTable_does _)).seq (tickCounters_does _)
      have tick : s.shareTick = w.mainsApply.announce.ageTable.tickCounters := shareTick_loud quiet
      have kept : s.shareTick.share.hold ≤ w.share.hold := by rw [tick]; exact rest.kept .hold (by decide) _ (Nat.le_refl _)
      obtain same | ⟨L, limit, granted⟩ := tickShare_hold (decide (0 < s.share.coolDown)) s.cooled
      · exact absurd rises (Nat.not_lt.mpr (Nat.le_trans kept same))
      · have margin : s.cooled.freeMargin L = (L : Int) - 15 - s.peerSum - s.share.hold := rfl
        have cooled : s.cooled.share.hold = s.share.hold := rfl
        refine ⟨L, limit, ?_⟩
        rw [sumCounted_all]
        show s.shareTick.share.hold + s.peerSum + 15 ≤ L
        rw [margin, cooled] at granted
        have walked : w.share.hold ≤ s.share.hold + ((L : Int) - 15 - s.peerSum - s.share.hold).toNat := granted
        omega
  · exact absurd rises (Nat.lt_irrefl _)

/-! ## Every command -/

/-- Settles O21: only boundaries and ticks raise the hold, the first outside the sharing states, the second by a grant. -/
theorem holdRisesWithinTheReserve : Obligations.HoldRisesWithinTheReserve := by
  intro c s t run rises
  have level {as : List Aspect} {bs : List Inv} (h : Answers as bs s (exec c s)) (n : .hold ∉ bs := by decide) :
      t.share.state = .isolated ∨ t.share.state = .unshared
        ∨ ∃ L, s.limit = some L ∧ t.share.hold + s.sumCounted Peer.hold (fun _ => true) + 15 ≤ L := by
    obtain ⟨u, answer, does⟩ := h
    cases answer.symm.trans run
    exact absurd rises (Nat.not_lt.mpr (does.kept .hold n _ (Nat.le_refl _)))
  have apart {as : List Aspect} {bs : List Inv} (h : Answers as bs s (exec c s)) (n : .sharing ∉ as := by decide) :
      t.share.state = .isolated ∨ t.share.state = .unshared
        ∨ ∃ L, s.limit = some L ∧ t.share.hold + s.sumCounted Peer.hold (fun _ => true) + 15 ≤ L := by
    obtain ⟨u, answer, does⟩ := h
    cases answer.symm.trans run
    have same := does.same .sharing n
    simp only [Same, Prod.mk.injEq] at same
    exact absurd rises (by rw [same.2.1]; exact Nat.lt_irrefl _)
  have boundary {u : State} (answer : exec c s = s.report_ u) (h : RisesOutside s u) :
      t.share.state = .isolated ∨ t.share.state = .unshared
        ∨ ∃ L, s.limit = some L ∧ t.share.hold + s.sumCounted Peer.hold (fun _ => true) + 15 ≤ L := by
    cases answer.symm.trans run
    have same : (s.reported u).share = u.share := (reported_does s u).only.share
    rw [same] at rises ⊢
    exact (h rises).elim .inl (fun unshared => .inr (.inl unshared))
  have ticks {p : Prop} [Decidable p] (answer : exec c s = .next (if p then s.tickEvent else s)) :
      t.share.state = .isolated ∨ t.share.state = .unshared
        ∨ ∃ L, s.limit = some L ∧ t.share.hold + s.sumCounted Peer.hold (fun _ => true) + 15 ≤ L := by
    cases answer.symm.trans run
    split at rises
    · rename_i due
      rw [if_pos due]
      exact .inr (.inr (tickEvent_risesWithin s rises))
    · exact absurd rises (Nat.lt_irrefl _)
  have crosses (due : Bool) : RisesOutside s (s.crossingWhen due) := by
    unfold State.crossingWhen
    split
    · exact crossing_risesOutside s
    · exact (Does.refl (as := []) (bs := []) s).risesOutside
  have samples {p : Prop} [Decidable p] (smp : Sample) : RisesOutside s (if p then s.nextSample smp else s) := by
    split
    · exact nextSample_risesOutside smp s
    · exact (Does.refl (as := []) (bs := []) s).risesOutside
  cases c
  case reset =>
    cases run
    exact absurd rises (Nat.not_lt_zero _)
  case announceTick =>
    cases run
    exact .inr (.inr (tickEvent_risesWithin s rises))
  case peerEntryRemoved | tableFullCleared | listenEnd | quietEntry => exact ticks rfl
  case zeroCrossing => exact boundary rfl (crossing_risesOutside s)
  case second | stepCountEnd | promptTimeout | interruptionTimeout | soakComplete | doorOpenMinute | ventComplete
      | strokeEnd | coolWaitExpired | drainComplete | drainTimeout => exact boundary rfl (crosses _)
  case frameBoundary smp ms =>
    refine boundary (u := if s.boundaryDue then s.boundaryCrossing smp ms else s) rfl ?_
    split
    · exact boundaryCrossing_risesOutside smp ms s
    · exact (Does.refl (as := []) (bs := []) s).risesOutside
  case sensorFaultRaised | sensorFaultEnded | drainValveOpens => exact boundary rfl (samples _)
  case mainsMeasurementEnd gap => exact level (mainsMeasurementEnd_answers gap s)
  case inputStateEstablished i => exact level (inputStateEstablished_answers i s)
  case sampleTick smp => exact level (sampleTick_answers smp s)
  case mainsLoss => exact level (mainsLoss_answers s)
  case mainsRestored ms => exact level (mainsRestored_answers ms s)
  case doorOpen => exact level (doorOpen_answers s)
  case doorClose => exact level (doorClose_answers s)
  case lowDry => exact level (lowDry_answers s)
  case lowWet => exact level (lowWet_answers s)
  case highWet => exact level (highWet_answers s)
  case highDry => exact level (highDry_answers s)
  case tankArrives k => exact level (tankArrives_answers k s)
  case tankRemoved => exact level (tankRemoved_answers s)
  case tankLevelChange k => exact level (tankLevelChange_answers k s)
  case rotationReport => exact level (rotationReport_answers s)
  case quietGap => exact apart (quietGap_frame s)
  case frameSent => exact level (frameSent_answers s)
  case frameLost => exact apart (frameLost_frame s)
  case frameBroken => exact level (frameBroken_answers s)
  case badFrame => exact apart (countBad_frame false s)
  case frameAbandoned => exact apart (countBad_frame true s)
  case retainedWriteComplete good => exact level (retainedWriteComplete_answers good s)
  all_goals exact level (receive_answers _ s)

end Sys2Proof.Machine
end

section
/-! PROOFS. The announce tick's table, and the ticks at which LISTEN ends or QUIET is entered (R11, R12, R21). -/

namespace Sys2Proof.Machine

/-! ## The walks of a part that holds nothing, or does not walk (R25) -/

/-- Holders without the part's own yield it nothing. -/
theorem ownPortion_of_noHold (s : State) (minRank amount : Nat) : ownPortion (s.holders minRank 0) amount = 0 := by
  refine ownPortion_none amount fun h m => ?_
  have source := (sortBy_perm Holder.before _).mem_iff.mp m
  simp only [Nat.lt_irrefl, if_false, List.nil_append, List.mem_map] at source
  obtain ⟨p, -, rfl⟩ := source
  rfl

/-- The walks do not touch a part in LISTEN, UNSHARED or QUIET. -/
theorem tickShare_of_noWalk {s : State} (apart : s.share.state.walks = false) (joined : s.share.state ≠ .isolated) (barred : Bool) :
    s.tickShare barred = s := by
  unfold State.tickShare
  cases s.limit with
  | none => rfl
  | some L =>
    dsimp only
    rw [State.tickWalks, apart, if_neg Bool.false_ne_true, if_neg joined]

/-- The walks take nothing from a STEADY part without a hold. -/
theorem tickShare_of_empty {s : State} (steady : s.share.state = .steady) (empty : s.share.hold = 0) (barred : Bool) :
    s.tickShare barred = s := by
  unfold State.tickShare
  cases s.limit with
  | none => rfl
  | some L =>
    have grant (given : List (Asker × Nat)) : s.tickGrant barred given = s := by
      simp only [State.tickGrant, Share.grantPermitted, steady, reduceCtorEq, decide_false, Bool.false_and, Bool.false_eq_true,
        if_false]
    have yields (given : List (Asker × Nat)) : s.yieldPortion given = 0 := by
      rw [State.yieldPortion, empty, ownPortion_of_noHold]
    have sheds : s.shedPortion L 0 = 0 := by rw [State.shedPortion, empty, Nat.zero_sub, ownPortion_of_noHold]
    have still : s.mapShare (Share.giveWay 0) = s := rfl
    dsimp only
    rw [State.tickWalks, if_pos (by rw [steady]; rfl)]
    dsimp only
    rw [grant, yields, still, sheds, still]

/-- A portion that gives way leaves the state and its counts. -/
theorem giveWay_state (n : Nat) (h : Share) :
    (h.giveWay n).state = h.state ∧ (h.giveWay n).listenCount = h.listenCount ∧ (h.giveWay n).quietCount = h.quietCount := by
  unfold Share.giveWay
  split <;> exact ⟨rfl, rfl, rfl⟩

/-- The walks leave the counts of LISTEN and QUIET, and the state but for a full grant that ends the round in STEADY (R27). -/
theorem tickShare_state (barred : Bool) (s : State) :
    ((s.tickShare barred).share.state = s.share.state ∨ (s.tickShare barred).share.state = .steady ∧ s.share.state = .asking)
      ∧ (s.tickShare barred).share.listenCount = s.share.listenCount
      ∧ (s.tickShare barred).share.quietCount = s.share.quietCount := by
  have grant (given : List (Asker × Nat)) :
      ((s.tickGrant barred given).share.state = s.share.state
          ∨ (s.tickGrant barred given).share.state = .steady ∧ s.share.state = .asking)
        ∧ (s.tickGrant barred given).share.listenCount = s.share.listenCount
        ∧ (s.tickGrant barred given).share.quietCount = s.share.quietCount := by
    unfold State.tickGrant
    split
    · rename_i permitted
      have asking : s.share.state = .asking := by
        simp only [Share.grantPermitted, Bool.and_eq_true, decide_eq_true_eq] at permitted
        exact permitted.1.1.1
      rw [State.mapShare_share, grant_eq]
      refine ⟨?_, rfl, rfl⟩
      by_cases full : 0 < ownGive given ∧ ownGive given = s.need
      · exact .inr ⟨if_pos full, asking⟩
      · exact .inl (if_neg full)
    · exact ⟨.inl rfl, rfl, rfl⟩
  have yields (n : Nat) (t : State) : (t.mapShare (Share.giveWay n)).share = t.share.giveWay n := rfl
  unfold State.tickShare
  cases s.limit with
  | none => exact ⟨.inl rfl, rfl, rfl⟩
  | some L =>
    dsimp only
    unfold State.tickWalks
    split
    · dsimp only
      simp only [yields, giveWay_state]
      exact grant _
    · split
      · simp only [yields, giveWay_state, true_or, and_self]
      · exact ⟨.inl rfl, rfl, rfl⟩

/-- What MAINS applies at once does not raise the quiet count (R17, R24). -/
theorem mainsApply_quietCount (s : State) : s.mainsApply.share.quietCount ≤ s.share.quietCount := by
  have entered : s.isolateIfDue.share.quietCount ≤ s.share.quietCount := by
    unfold State.isolateIfDue
    split
    · exact Nat.zero_le _
    · exact Nat.le_refl _
  by_cases out : s.mainsOut = true
  · by_cases acts : s.isolationDue = true ∨ s.isolateIfDue.mainsHold < s.isolateIfDue.share.hold
    · rw [mainsApply_acts out acts]
      exact entered
    · obtain ⟨due, level⟩ := not_or.mp acts
      have due : s.isolationDue = false := by simpa using due
      have still : s.isolateIfDue = s := by rw [State.isolateIfDue, due]; rfl
      rw [still] at level
      rw [mainsApply_rests due level]
  · rw [mainsApply_off (by simpa using out)]

/-! ## The part of a tick before the table ages (R25) -/

/-- Items 2 to 6 of a tick: the cool-down, the walks, what MAINS applies at once, and the announcement. -/
def State.tickWork (s : State) : State :=
  if s.share.state = .quiet then s else (s.cooled.tickShare (decide (0 < s.share.coolDown))).mainsApply.announce

/-- A tick ages the table and counts after that. -/
theorem shareTick_eq (s : State) : s.shareTick = s.tickWork.ageTable.tickCounters := rfl

/-- What it may change. -/
theorem tickWork_does (s : State) : Does [.sharing, .coolDown, .queue] [.hold] s s.tickWork := by
  refine Does.ite (fun _ => Does.refl s) (fun _ => ?_)
  refine Does.andThen (as := [.sharing, .coolDown, .queue]) (bs := [.hold]) ?_ (announce_does _)
  refine Does.andThen (as := [.sharing, .coolDown]) (bs := [.hold]) ?_ (mainsApply_does _)
  exact (coolCount_does s).andThen (tickShare_does _ _)

/-- Outside QUIET, where MAINS applies nothing, the walks are followed by the announcement alone. -/
theorem tickWork_loud {s : State} (loud : s.share.state ≠ .quiet) {w : State}
    (walks : s.cooled.tickShare (decide (0 < s.share.coolDown)) = w) (rests : w.mainsApply = w) (wLoud : w.share.state ≠ .quiet) :
    s.tickWork = { w with bus := w.handed w.bus } := by
  rw [State.tickWork, if_neg loud, walks, rests, announce_eq wLoud]

/-! ## The table ages (R11, R102) -/

/-- The stations whose entries an ageing removes. -/
theorem mem_removedStations (peers : List Peer) (n : Nat) :
    n ∈ removedStations peers ↔ ∃ q ∈ agedPeers peers, q.silent = 7 ∧ q.station = n := by
  simp only [removedStations, List.mem_map, List.mem_filter, decide_eq_true_eq, and_assoc]

/-- The table, TABLE_FULL, the newcomer count and the store after a tick. -/
theorem shareTick_table (s : State) :
    s.shareTick.share.peers = (agedPeers s.share.peers).filter (fun p => decide (p.silent ≠ 7))
      ∧ s.shareTick.share.newcomer = min 7 (s.share.newcomer + 1)
      ∧ s.shareTick.share.tableFull
        = s.share.tableFullAfter ((agedPeers s.share.peers).filter (fun p => decide (p.silent ≠ 7))) (min 7 (s.share.newcomer + 1))
      ∧ s.shareTick.store = s.store.abandon (removedStations s.share.peers) := by
  have work := (tickWork_does s).only
  have counts := (tickCounters_does s.tickWork.ageTable).only
  have before := work .peers (by decide)
  have after := counts .peers (by decide)
  simp only [Same, Prod.mk.injEq] at before after
  obtain ⟨peers, full, newcomer⟩ := before
  obtain ⟨peersLast, fullLast, newcomerLast⟩ := after
  have aged : s.tickWork.ageTable.share.peers = (agedPeers s.tickWork.share.peers).filter (fun p => decide (p.silent ≠ 7))
      ∧ s.tickWork.ageTable.share.newcomer = min 7 (s.tickWork.share.newcomer + 1)
      ∧ s.tickWork.ageTable.share.tableFull
        = s.tickWork.share.tableFullAfter ((agedPeers s.tickWork.share.peers).filter (fun p => decide (p.silent ≠ 7)))
            (min 7 (s.tickWork.share.newcomer + 1))
      ∧ s.tickWork.ageTable.store = s.tickWork.store.abandon (removedStations s.tickWork.share.peers) := ⟨rfl, rfl, rfl, rfl⟩
  obtain ⟨peersAged, newcomerAged, fullAged, storeAged⟩ := aged
  rw [shareTick_eq, peersLast, fullLast, newcomerLast, counts.store, peersAged, newcomerAged, fullAged, storeAged, peers, newcomer,
    work.store, Share.tableFullAfter, full]
  exact ⟨rfl, rfl, rfl, rfl⟩

/-- TABLE_FULL after ageing, where its condition to clear is given (R11). -/
theorem tableFullAfter_iff (peers : List Peer) (newcomer : Nat) (h : Share) :
    h.tableFullAfter peers newcomer = true
      ↔ h.tableFull = true ∧ ¬(h.tableFull = true ∧ (peers.length < 15 ∨ ∃ p ∈ peers, 3 ≤ p.silent) ∧ newcomer = 7) := by
  have gone : peers.any Peer.gone = true ↔ ∃ p ∈ peers, 3 ≤ p.silent := by
    simp only [List.any_eq_true, Peer.gone, decide_eq_true_eq]
  change _ ↔ _ ∧ ¬(_ ∧ (peers.length < peerCapacity ∨ _) ∧ _)
  simp only [Share.tableFullAfter, Bool.and_eq_true, Bool.not_eq_true', Bool.and_eq_false_iff, Bool.or_eq_false_iff,
    decide_eq_false_iff_not, ← gone]
  by_cases full : h.tableFull = true
  · simp only [full, true_and, not_and_or, not_or, Bool.not_eq_true]
  · simp [full]

/-! ## What the announcement of a tick carries (R3, R25) -/

/-- The rank is the program's and its step's. -/
theorem rank_of_activeRun {s t : State} (run : t.activeRun = s.activeRun) : t.rank = s.rank := by
  simp only [State.rank, State.activeProgram, State.activeStep, run]

/-- Ageing leaves the ACTIVE slot. -/
theorem ageTable_activeRun (s : State) : s.ageTable.activeRun = s.activeRun := by
  have slot (ix : SlotIx) :
      s.ageTable.store.slot ix
        = if (s.store.slot ix).loadsFor (removedStations s.share.peers) = true then .empty else s.store.slot ix :=
    abandon_slot _ ix s.store
  have program (ix : SlotIx) : (s.ageTable.store.slot ix).activeProgram = (s.store.slot ix).activeProgram := by
    rw [slot]
    cases s.store.slot ix with
    | loading p =>
      split
      · rfl
      · rfl
    | empty | ready | active | done => rfl
  have seq : s.ageTable.seq = s.seq := rfl
  simp only [State.activeRun, program, seq]

/-- An announcement carries no more of the state than these flags. -/
theorem handed_of_flags {u v : State} (startup : u.startup = v.startup) (rank : u.rank = v.rank)
    (ask : u.announcedAsk = v.announcedAsk) (asking : u.announcedAsking = v.announcedAsking) (hold : u.share.hold = v.share.hold)
    (draw : u.share.draw = v.share.draw) (shedding : u.share.shedding = v.share.shedding)
    (isolated : u.share.state = .isolated ↔ v.share.state = .isolated) (b : BusLink) : u.handed b = v.handed b := by
  simp only [State.handed, State.ownAnnouncement, State.station, startup, rank, ask, asking, hold, draw, shedding, isolated]

/-- Ageing leaves what an announcement carries. -/
theorem ageTable_handed (s : State) (b : BusLink) : s.ageTable.handed b = s.handed b := by
  have rank : s.ageTable.rank = s.rank := rank_of_activeRun (ageTable_activeRun s)
  have rest : s.ageTable.startup = s.startup ∧ s.ageTable.announcedAsk = s.announcedAsk
      ∧ s.ageTable.announcedAsking = s.announcedAsking ∧ s.ageTable.share.hold = s.share.hold
      ∧ s.ageTable.share.draw = s.share.draw ∧ s.ageTable.share.shedding = s.share.shedding
      ∧ s.ageTable.share.state = s.share.state := ⟨rfl, rfl, rfl, rfl, rfl, rfl, rfl⟩
  obtain ⟨startup, ask, asking, hold, draw, shedding, state⟩ := rest
  exact handed_of_flags startup rank ask asking hold draw shedding (by rw [state]) b

/-- Counting leaves what an announcement carries, but where LISTEN ends. -/
theorem tickCounters_handed {s : State} (listens : ¬(s.share.state = .listen ∧ 2 ≤ s.share.listenCount)) (b : BusLink) :
    s.tickCounters.handed b = s.handed b := by
  have quiets (outside : s.share.state = .steady ∨ s.share.state = .unshared) : s.tickQuiet.handed b = s.handed b := by
    have still : s.tickQuiet.share.state = s.share.state ∨ s.tickQuiet.share.state = .quiet := by
      unfold State.tickQuiet
      split
      · by_cases ends : satAdd 120 s.share.quietCount 1 = 120
        · exact .inr (if_pos ends)
        · exact .inl (if_neg ends)
      · exact .inl rfl
    have rest : s.tickQuiet.startup = s.startup ∧ s.tickQuiet.activeRun = s.activeRun ∧ s.tickQuiet.load = s.load
        ∧ s.tickQuiet.share.hold = s.share.hold ∧ s.tickQuiet.share.draw = s.share.draw
        ∧ s.tickQuiet.share.shedding = s.share.shedding := by
      unfold State.tickQuiet
      split <;> exact ⟨rfl, rfl, rfl, rfl, rfl, rfl⟩
    obtain ⟨startup, run, load, hold, draw, shedding⟩ := rest
    generalize s.tickQuiet = t at *
    refine handed_of_flags startup (rank_of_activeRun run) ?_ ?_ hold draw shedding ?_ b <;>
      obtain now | now := outside <;> obtain next | next := still <;>
        simp [State.announcedAsk, State.announcedAsking, next, now, load]
  unfold State.tickCounters
  cases state : s.share.state
  case listen =>
    have short : satAdd 3 s.share.listenCount 1 ≠ 3 := by
      have few : ¬2 ≤ s.share.listenCount := fun ends => listens ⟨state, ends⟩
      simp only [satAdd]
      omega
    have form : s.tickListen = { s with share := { s.share with listenCount := satAdd 3 s.share.listenCount 1 } } := if_neg short
    show s.tickListen.handed b = _
    rw [form]
    exact handed_of_flags rfl rfl rfl rfl rfl rfl rfl Iff.rfl b
  case steady => exact quiets (.inl state)
  case unshared => exact quiets (.inr state)
  case asking | isolated | quiet => rfl

/-- Outside QUIET, and before LISTEN ends, a tick under power hands the announcement of the state it leaves. -/
theorem shareTick_bus {s : State} (loud : s.share.state ≠ .quiet) (listens : ¬(s.share.state = .listen ∧ 2 ≤ s.share.listenCount))
    (power : s.mainsOut = false) : s.shareTick.bus = s.shareTick.handed s.bus := by
  obtain ⟨state, listen, -⟩ := tickShare_state (decide (0 < s.share.coolDown)) s.cooled
  have walked := tickShare_does (decide (0 < s.share.coolDown)) s.cooled
  have bus : (s.cooled.tickShare (decide (0 < s.share.coolDown))).bus = s.bus := walked.only.bus
  have powered : (s.cooled.tickShare (decide (0 < s.share.coolDown))).mainsOut = false := by
    rw [State.mainsOut, State.faultActive, walked.only (.fault .mains) (by decide)]
    exact power
  have states : (s.cooled.tickShare (decide (0 < s.share.coolDown))).share.state = s.share.state
      ∨ (s.cooled.tickShare (decide (0 < s.share.coolDown))).share.state = .steady := state.imp id And.left
  have counted : (s.cooled.tickShare (decide (0 < s.share.coolDown))).share.listenCount = s.share.listenCount := listen
  generalize walks : s.cooled.tickShare (decide (0 < s.share.coolDown)) = w at bus powered states counted
  have wLoud : w.share.state ≠ .quiet := by
    obtain h | h := states <;> rw [h]
    · exact loud
    · decide
  have wListens : ¬(w.share.state = .listen ∧ 2 ≤ w.share.listenCount) := by
    obtain h | h := states <;> rw [h, counted]
    · exact listens
    · exact fun both => absurd both.1 (by decide)
  rw [shareTick_eq, tickWork_loud loud walks (mainsApply_off powered) wLoud]
  generalize announced : ({ w with bus := w.handed w.bus } : State) = a
  have same : a.handed s.bus = w.handed s.bus := by
    rw [← announced]
    exact handed_of_flags rfl rfl rfl rfl rfl rfl rfl Iff.rfl _
  have aListens : ¬(a.ageTable.share.state = .listen ∧ 2 ≤ a.ageTable.share.listenCount) := by
    rw [← announced]
    exact wListens
  have later : a.ageTable.tickCounters.bus = a.bus := by
    have kept : a.ageTable.tickCounters.bus = a.ageTable.bus := by
      obtain listens | runs := em (a.ageTable.share.state = .listen)
      · have short : satAdd 3 a.ageTable.share.listenCount 1 ≠ 3 := by
          have few : ¬2 ≤ a.ageTable.share.listenCount := fun ends => aListens ⟨listens, ends⟩
          simp only [satAdd]
          omega
        rw [State.tickCounters, listens]
        exact (congrArg State.bus (if_neg short)).trans rfl
      · obtain ⟨count, next, form, -⟩ := tickCounters_running runs
        rw [form]
    rw [kept]
    rfl
  rw [later, tickCounters_handed aListens, ageTable_handed, same, ← announced]
  show w.handed w.bus = _
  rw [bus]

/-- Below 119 ticks at rest a part does not enter QUIET (R21). -/
theorem tickCounters_loud {s : State} (loud : s.share.state ≠ .quiet) (few : s.share.quietCount + 1 < 120) :
    s.tickCounters.share.state ≠ .quiet := by
  have quiets : s.tickQuiet.share.state ≠ .quiet := by
    unfold State.tickQuiet
    split
    · have short : satAdd 120 s.share.quietCount 1 ≠ 120 := by
        simp only [satAdd]
        omega
      exact fun h => loud ((if_neg short).symm.trans h)
    · exact loud
  unfold State.tickCounters
  cases state : s.share.state
  case listen =>
    dsimp only
    unfold State.tickListen
    dsimp only
    repeat' split
    · exact ShareState.noConfusion
    · rw [State.startRound, announce_eq (by exact ShareState.noConfusion)]
      exact ShareState.noConfusion
    · exact ShareState.noConfusion
    · rw [State.mapShare_share, state]
      exact ShareState.noConfusion
  case steady | unshared => exact quiets
  case quiet => exact absurd state loud
  case asking | isolated =>
    rw [state]
    exact ShareState.noConfusion

/-- A tick below 119 at rest does not enter QUIET either. -/
theorem shareTick_staysLoud {s : State} (loud : s.share.state ≠ .quiet) (few : s.share.quietCount + 1 < 120) :
    s.shareTick.share.state ≠ .quiet := by
  obtain ⟨walkedState, -, walkedCount⟩ := tickShare_state (decide (0 < s.share.coolDown)) s.cooled
  rw [shareTick_loud loud]
  generalize s.cooled.tickShare (decide (0 < s.share.coolDown)) = w at walkedState walkedCount
  have wLoud : w.share.state ≠ .quiet := by
    obtain h | h := walkedState
    · rw [h]
      exact loud
    · rw [h.1]
      decide
  have mLoud : w.mainsApply.share.state ≠ .quiet := by
    obtain ⟨-, -, h | h⟩ := mainsApply_fields w <;> rw [h]
    · exact wLoud
    · decide
  have mCount := mainsApply_quietCount w
  rw [announce_eq mLoud]
  refine tickCounters_loud mLoud ?_
  show w.mainsApply.share.quietCount + 1 < 120
  have start : w.share.quietCount = s.share.quietCount := walkedCount
  omega

/-! ## The ticks themselves -/

/-- The rows of the table: a tick ages the entries, and each row that names an entry or TABLE_FULL is that tick. -/
theorem announceTick_table {s : State} (service : s.inService = true) :
    let aged := s.share.peers.map (fun p => { p with silent := min 7 (p.silent + 1) })
    let kept := aged.filter (fun p => decide (p.silent ≠ 7))
    let news := min 7 (s.share.newcomer + 1)
    let clears := s.share.tableFull = true ∧ (kept.length < 15 ∨ ∃ p ∈ kept, 3 ≤ p.silent) ∧ news = 7
    (s.shareTick.share.peers = kept ∧ s.shareTick.share.newcomer = news
        ∧ (s.shareTick.share.tableFull = true ↔ s.share.tableFull = true ∧ ¬clears))
      ∧ (∀ p ∈ aged, p.silent = 7 → exec (.peerEntryRemoved p.station) s = exec .announceTick s)
      ∧ (∀ n, (¬∃ p ∈ aged, p.silent = 7 ∧ p.station = n) → exec (.peerEntryRemoved n) s = .next s)
      ∧ (clears → exec .tableFullCleared s = exec .announceTick s)
      ∧ (¬clears → exec .tableFullCleared s = .next s) := by
  intro aged kept news clears
  obtain ⟨peers, newcomer, full, -⟩ := shareTick_table s
  have fullIff : s.shareTick.share.tableFull = true ↔ s.share.tableFull = true ∧ ¬clears := by
    rw [full]
    exact tableFullAfter_iff _ _ _
  have removed (n : Nat) : (removedStations s.share.peers).contains n = true ↔ ∃ p ∈ aged, p.silent = 7 ∧ p.station = n := by
    rw [List.contains_iff_mem]
    exact mem_removedStations _ n
  have answer : s.tickEvent.share = s.shareTick.share := by
    rw [State.tickEvent, if_pos service]
    exact (reported_does s _).only.share
  have cleared : (s.share.tableFull && !s.tickEvent.share.tableFull) = true ↔ clears := by
    rw [Bool.and_eq_true, Bool.not_eq_true', answer, Bool.eq_false_iff, ne_eq, fullIff]
    constructor
    · exact fun ⟨set, not⟩ => by_contra fun keeps => not ⟨set, keeps⟩
    · exact fun clear => ⟨clear.1, fun keeps => keeps.2 clear⟩
  refine ⟨⟨peers, newcomer, fullIff⟩, fun p m gone => ?_, fun n none => ?_, fun clear => ?_, fun keeps => ?_⟩
  · exact congrArg Host.Outcome.next (if_pos ((removed p.station).mpr ⟨p, m, gone, rfl⟩))
  · exact congrArg Host.Outcome.next (if_neg (fun h => none ((removed n).mp h)))
  · exact congrArg Host.Outcome.next (if_pos (cleared.mpr clear))
  · exact congrArg Host.Outcome.next (if_neg (fun h => keeps (cleared.mp h)))

/-- The slots and the staging entries that a tick gives up (R102, R110). -/
theorem announceTick_slots (s : State) :
    let aged := s.share.peers.map (fun p => { p with silent := min 7 (p.silent + 1) })
    (∀ ix p, s.store.slot ix = .loading p → (∃ q ∈ aged, q.silent = 7 ∧ q.station = p.originator) →
        s.shareTick.store.slot ix = .empty)
      ∧ ∀ ix, (¬∃ p, s.store.slot ix = .loading p ∧ ∃ q ∈ aged, q.silent = 7 ∧ q.station = p.originator) →
        s.shareTick.store.slot ix = s.store.slot ix := by
  intro aged
  obtain ⟨-, -, -, store⟩ := shareTick_table s
  have gone (ix : SlotIx) : (s.store.slot ix).loadsFor (removedStations s.share.peers) = true
      ↔ ∃ p, s.store.slot ix = .loading p ∧ ∃ q ∈ aged, q.silent = 7 ∧ q.station = p.originator := by
    simp only [loadsFor_iff, mem_removedStations]
    rfl
  rw [store]
  refine ⟨fun ix p held left => ?_, fun ix stays => ?_⟩
  · rw [abandon_slot, if_pos ((gone ix).mpr ⟨p, held, left⟩)]
  · rw [abandon_slot, if_neg (fun h => stays ((gone ix).mp h))]

/-- Where MAINS does not come with an isolation, and the hold stands at what MAINS leaves, MAINS applies nothing (R24). -/
theorem cooled_mainsApply_rests {s : State} (power : ¬(s.mainsOut = true ∧ s.cutOff = true))
    (level : s.cooled.share.hold ≤ s.cooled.mainsHold) : s.cooled.mainsApply = s.cooled := by
  by_cases out : s.mainsOut = true
  · have joined : s.cutOff = false := by simpa using fun cut => power ⟨out, cut⟩
    have stays : s.cooled.isolationDue = false := by
      show (s.cutOff && _) = false
      rw [joined, Bool.false_and]
    exact mainsApply_rests stays (Nat.not_lt.mpr level)
  · have power : s.mainsOut = false := by simpa using out
    exact mainsApply_off (s := s.cooled) power

/-- What the tick in which LISTEN ends leaves. -/
theorem shareTick_listenEnds {s : State} (power : ¬(s.mainsOut = true ∧ s.cutOff = true)) (state : s.share.state = .listen)
    (count : s.share.listenCount = 2) :
    s.shareTick.share.listenCount = 3
      ∧ (s.limit = none → s.shareTick.share.state = .unshared)
      ∧ (s.limit ≠ none → s.load.ceiling = 0 → s.shareTick.share.state = .steady)
      ∧ (s.limit ≠ none → 0 < s.load.ceiling →
          s.shareTick.share.state = .asking ∧ s.shareTick.share.ask = s.load.ceiling ∧ s.shareTick.share.draw = s.share.lfsr
            ∧ s.shareTick.share.ownCount = 0 ∧ s.shareTick.share.denyCount = 0)
      ∧ s.shareTick.share.hold = s.share.hold ∧ s.shareTick.share.applied = s.share.applied := by
  have rests : s.cooled.mainsApply = s.cooled := by
    refine cooled_mainsApply_rests power (Nat.le_of_eq (Eq.symm ?_))
    have listens : s.cooled.share.state = .listen := state
    rw [State.mainsHold, listens]
  have loud : s.share.state ≠ .quiet := by rw [state]; decide
  have walks : s.cooled.tickShare (decide (0 < s.share.coolDown)) = s.cooled :=
    tickShare_of_noWalk (s := s.cooled) (by show s.share.state.walks = false; rw [state]; rfl) (by show s.share.state ≠ _; rw [state]; decide) _
  rw [shareTick_eq, tickWork_loud loud walks rests loud]
  generalize s.cooled.handed s.cooled.bus = bus
  let a : State := ({ s.cooled with bus := bus } : State).ageTable
  have listens : a.share.state = .listen := state
  have third : satAdd 3 a.share.listenCount 1 = 3 := by
    show satAdd 3 s.share.listenCount 1 = 3
    rw [count]
    rfl
  let t := a.mapShare (fun h => { h with listenCount := satAdd 3 h.listenCount 1 })
  have tListens : t.share.state = .listen := state
  have form : a.tickCounters
      = if s.noLimit then t.mapShare (fun h => { h with state := .unshared })
        else if 0 < s.load.ceiling then t.startRound
        else t.mapShare (fun h => { h with state := .steady }) := by
    rw [State.tickCounters, listens]
    exact if_pos third
  show a.tickCounters.share.listenCount = 3 ∧ _
  have tick : ({ s.cooled with bus := bus } : State).ageTable.tickCounters = a.tickCounters := rfl
  rw [tick, form]
  have round : t.startRound.share = { t.share with
      state := .asking, ask := s.load.ceiling, draw := s.share.lfsr, ownCount := 0, denyCount := 0, starved := false } := by
    rw [State.startRound, announce_eq (by exact ShareState.noConfusion)]
    simp only [State.mapShare_share, tListens, reduceCtorEq, if_false]
    rfl
  have limits : s.noLimit = true ↔ s.limit = none := Option.isNone_iff_eq_none
  by_cases free : s.limit = none
  · rw [if_pos (limits.mpr free)]
    exact ⟨third, fun _ => rfl, fun limited => absurd free limited, fun limited => absurd free limited, rfl, rfl⟩
  · rw [if_neg (fun h => free (limits.mp h))]
    by_cases some_ : 0 < s.load.ceiling
    · rw [if_pos some_, round]
      exact ⟨third, fun h => absurd h free, fun _ zero => absurd zero (Nat.ne_of_gt some_),
        fun _ _ => ⟨rfl, rfl, rfl, rfl, rfl⟩, rfl, rfl⟩
    · rw [if_neg some_]
      exact ⟨third, fun h => absurd h free, fun _ _ => rfl, fun _ positive => absurd positive some_, rfl, rfl⟩

/-- What the tick in which QUIET is entered leaves. -/
theorem shareTick_quietEnters {s : State} (power : ¬(s.mainsOut = true ∧ s.cutOff = true))
    (rest : s.share.state = .steady ∨ s.share.state = .unshared) (idle : s.seq.run = none) (empty : s.share.hold = 0)
    (noCeiling : s.load.ceiling = 0) (noCut : s.share.pendingCut = 0) (count : s.share.quietCount = 119) :
    s.shareTick.share.state = .quiet ∧ s.shareTick.share.quietCount = 120 ∧ s.shareTick.share.hold = 0 := by
  have rests : s.cooled.mainsApply = s.cooled := by
    refine cooled_mainsApply_rests power ?_
    show s.share.hold ≤ _
    rw [empty]
    exact Nat.zero_le _
  have loud : s.share.state ≠ .quiet := by obtain h | h := rest <;> rw [h] <;> decide
  have walks : s.cooled.tickShare (decide (0 < s.share.coolDown)) = s.cooled := by
    obtain state | state := rest
    · exact tickShare_of_empty (s := s.cooled) state empty _
    · exact tickShare_of_noWalk (s := s.cooled) (by show s.share.state.walks = false; rw [state]; rfl)
        (by show s.share.state ≠ _; rw [state]; decide) _
  rw [shareTick_eq, tickWork_loud loud walks rests loud]
  generalize s.cooled.handed s.cooled.bus = bus
  let a : State := ({ s.cooled with bus := bus } : State).ageTable
  have resting : a.atRest = true := by
    have none_ : a.hasActive = false := by
      have noRun : a.seq.run = none := idle
      simp [State.hasActive, State.activeRun, noRun]
    have levels : a.share.hold = 0 ∧ a.load.ceiling = 0 ∧ a.share.pendingCut = 0 := ⟨empty, noCeiling, noCut⟩
    obtain ⟨hold, ceiling, cut⟩ := levels
    simp [State.atRest, none_, hold, ceiling, cut]
  have full : satAdd 120 a.share.quietCount 1 = 120 := by
    show satAdd 120 s.share.quietCount 1 = 120
    rw [count]
    rfl
  have counts : a.tickCounters = a.tickQuiet := by
    have states : a.share.state = .steady ∨ a.share.state = .unshared := rest
    obtain state | state := states <;> rw [State.tickCounters, state]
  show a.tickCounters.share.state = .quiet ∧ a.tickCounters.share.quietCount = 120 ∧ a.tickCounters.share.hold = 0
  rw [counts, State.tickQuiet, if_pos resting]
  exact ⟨if_pos full, full, empty⟩

/-- Settles O19: the table, the slots, the announcement, and the ticks at which LISTEN ends or QUIET is entered. -/
theorem announceTickAgesAndLeavesListen : Obligations.AnnounceTickAgesAndLeavesListen := by
  refine ⟨fun s service => ?tick, fun s service power => ⟨?listenEnds, ?listens, ?enters, ?stays⟩⟩
  case tick =>
    intro aged kept news clears
    obtain ⟨table, removed, others, clear, keeps⟩ := announceTick_table service
    obtain ⟨emptied, held⟩ := announceTick_slots s
    obtain ⟨-, -, -, store⟩ := shareTick_table s
    have only := (shareTick_does s).only
    refine ⟨s.shareTick, announceTick_inService service, table, emptied, held, ?_, fun quiet => ?_, fun quiet => ?_,
      fun loud listens power => shareTick_bus loud listens power, only.mono (by decide), removed, others, clear, keeps⟩
    · intro emptiedBy
      have loads (v : Slot) : emptiedBy v = v.loadsFor (removedStations s.share.peers) := by
        cases v with
        | loading p =>
          rw [Bool.eq_iff_iff, loadsFor_iff]
          simp only [mem_removedStations, emptiedBy, List.any_eq_true, Bool.and_eq_true, decide_eq_true_eq, Slot.loading.injEq,
            exists_eq_left']
          rfl
        | empty | ready | active | done => rfl
      rw [store, abandon_staging, loads, loads]
    · rw [shareTick_quiet quiet]
      exact (ageTable_does s).only
    · rw [shareTick_quiet quiet]
      rfl
  case listenEnds =>
    intro state count
    obtain ⟨ended, free, steady, asking, level⟩ := shareTick_listenEnds power state count
    have answer : exec .listenEnd s = exec .announceTick s := congrArg Host.Outcome.next (if_pos ⟨state, count⟩)
    exact ⟨s.shareTick, answer.trans (announceTick_inService service), answer.symm, ended, free, steady, asking, level,
      (shareTick_does s).only.mono (by decide)⟩
  case listens => exact fun other => congrArg Host.Outcome.next (if_neg other)
  case enters =>
    intro rest idle empty noCeiling noCut count
    obtain ⟨quiet, full, zero⟩ := shareTick_quietEnters power rest idle empty noCeiling noCut count
    have loud : s.share.state ≠ .quiet := by obtain h | h := rest <;> rw [h] <;> decide
    have enters : s.tickEvent.share.state = .quiet := by
      rw [State.tickEvent, if_pos service, (reported_does s _).only.share]
      exact quiet
    have answer : exec .quietEntry s = exec .announceTick s := congrArg Host.Outcome.next (if_pos ⟨loud, enters⟩)
    exact ⟨s.shareTick, answer.trans (announceTick_inService service), answer.symm, quiet, full, zero,
      (shareTick_does s).only.mono (by decide)⟩
  case stays =>
    intro rests
    refine congrArg Host.Outcome.next (if_neg ?_)
    rintro ⟨loud, enters⟩
    rw [State.tickEvent, if_pos service, (reported_does s _).only.share] at enters
    exact shareTick_staysLoud loud (rests.resolve_left loud) enters

end Sys2Proof.Machine
end

section
/-! PROOFS. The climate regulators, the convection fan and the lamp (R55, R59 to R66, R76, R78). -/

namespace Sys2Proof.Machine

/-! ## The situation at a boundary (R55) -/

/-- The regulators of a heating mode give way to the open door, to venting and to a pause. -/
theorem regulation_zero {s : State} {m : Mode} (mode : s.climate.mode = some m) (heats : m.heats = true)
    (zero : s.climate.door = some .opened ∨ s.climate.venting = true ∨ s.runState = some .paused) : s.regulation = .zero := by
  have yes : (s.doorOpen || s.climate.venting || s.suspended) = true := by
    simp only [State.doorOpen, State.suspended, Bool.or_eq_true, decide_eq_true_eq, or_assoc]
    exact zero
  simp only [State.regulation, mode, heats, Bool.not_true, Bool.false_eq_true, if_false, yes, if_true]

/-- Else they compute, and in RUNNING the integrators move. -/
theorem regulation_computed {s : State} {m : Mode} (mode : s.climate.mode = some m) (heats : m.heats = true)
    (other : ¬(s.climate.door = some .opened ∨ s.climate.venting = true ∨ s.runState = some .paused)) :
    s.regulation = if s.runState = some .running then .updated else .held := by
  have no : (s.doorOpen || s.climate.venting || s.suspended) = false := by
    refine Bool.eq_false_iff.mpr fun yes => other ?_
    simpa only [State.doorOpen, State.suspended, Bool.or_eq_true, decide_eq_true_eq, or_assoc] using yes
  simp only [State.regulation, mode, heats, Bool.not_true, Bool.false_eq_true, if_false, no, State.isRunning, decide_eq_true_eq]

/-- Without a heating mode they are unused. -/
theorem regulation_unused {s : State} (cold : ∀ m, s.climate.mode = some m → m.heats = false) : s.regulation = .unused := by
  unfold State.regulation
  cases mode : s.climate.mode with
  | none => rfl
  | some m => simp only [cold m mode, Bool.not_false, if_true]

/-! ## The arithmetic of a regulator (R59, R60, R63, R64) -/

/-- A demand is the raw demand in its range. -/
theorem demandOf_cast (raw : Int) : ((demandOf raw : Nat) : Int) = max 0 (min 20 raw) :=
  Int.toNat_of_nonneg (Int.le_max_left _ _)

/-- A regulator is not pinned where the error does not push past the range. -/
theorem saturated_false_iff (raw e : Int) : saturated raw e = false ↔ ¬(20 < raw ∧ 0 < e) ∧ ¬(raw < 0 ∧ e < 0) := by
  rw [← Bool.not_eq_true, saturated, Bool.or_eq_true, Bool.and_eq_true, Bool.and_eq_true, not_or]
  simp only [decide_eq_true_eq]

/-- The temperature demand outside RUNNING and in it. -/
theorem tempDemand_computed {s : State} (computed : s.regulation = .updated ∨ s.regulation = .held)
    (sensor : s.faultActive .cavitySensor = false) :
    s.tempDemand = demandOf (rawDemand s.climate.tempError s.climate.tempI) := by
  unfold State.tempDemand
  rw [sensor, if_neg Bool.false_ne_true]
  obtain h | h := computed <;> rw [h]

/-- Nothing is demanded where the regulators give way, or their sensor has failed. -/
theorem tempDemand_none {s : State} (rests : s.regulation = .zero ∨ s.regulation = .unused ∨ s.faultActive .cavitySensor = true) :
    s.tempDemand = 0 := by
  unfold State.tempDemand
  obtain h | h | h := rests
  · simp only [h, ite_self]
  · simp only [h, ite_self]
  · rw [if_pos h]

/-- The temperature integrator stays where the regulators do not run, or their sensor has failed. -/
theorem tempIAfter_rests {s : State} (rests : s.regulation ≠ .updated ∨ s.faultActive .cavitySensor = true) :
    s.tempIAfter = s.climate.tempI := by
  have stays : s.tempIntegrates = false := by
    obtain h | h := rests <;> simp [State.tempIntegrates, h]
  rw [State.tempIAfter, stays, if_neg Bool.false_ne_true]

/-- The humidity demand where the regulators compute. -/
theorem humDemand_computed {s : State} (computed : s.regulation = .updated ∨ s.regulation = .held) : s.humDemand = s.humidityDuty := by
  unfold State.humDemand
  obtain h | h := computed <;> rw [h]

/-- The humidity integrator stays where the regulators do not run. -/
theorem humIAfter_rests {s : State} (rests : s.regulation ≠ .updated ∨ s.climate.regulatesHumidity = false ∨ s.degradedNow = true) :
    s.humIAfter = s.humIEntering := by
  have stays : s.humIntegrates = false := by
    obtain h | h | h := rests <;> simp [State.humIntegrates, h]
  rw [State.humIAfter, stays, if_neg Bool.false_ne_true]

/-- The modes that do not heat. -/
theorem heats_eq_false_iff (m : Mode) : m.heats = false ↔ m = .wait ∨ m = .drain ∨ m = .fill ∨ m = .soak ∨ m = .rinse := by
  cases m <;> decide

/-- The service modes are those that do not heat, but for WAIT. -/
theorem service_iff {m : Mode} (cold : m.heats = false) : m.service = true ↔ m ≠ .wait := by
  obtain rfl | rfl | rfl | rfl | rfl := (heats_eq_false_iff m).mp cold <;> decide

/-- A heating mode is not a service mode. -/
theorem service_of_heats {m : Mode} (heats : m.heats = true) : m.service = false := by
  simp only [Mode.heats, Bool.and_eq_true, Bool.not_eq_true'] at heats
  exact heats.1

/-! ## The temperature and the humidity regulator at a boundary -/

/-- The temperature regulator of a heating mode. -/
theorem regulate_temperature {s : State} {m : Mode} (mode : s.climate.mode = some m) (heats : m.heats = true) :
    let zero := s.climate.door = some .opened ∨ s.climate.venting = true ∨ s.runState = some .paused
    let e := s.climate.tempError
    let raw := rawDemand e s.climate.tempI
    (zero ∨ s.faults.cavitySensor.active = true → s.tempDemand = 0 ∧ s.tempIAfter = s.climate.tempI)
      ∧ (¬zero → s.faults.cavitySensor.active = false →
          (s.tempDemand : Int) = max 0 (min 20 raw)
            ∧ s.tempIAfter =
              (if s.runState = some .running ∧ ¬(20 < raw ∧ 0 < e) ∧ ¬(raw < 0 ∧ e < 0)
                  ∧ ¬(m = .steam ∧ ¬s.steam.boiler = .steaming)
                then max 0 (min 5120 (s.climate.tempI + 2 * e)) else s.climate.tempI)) := by
  intro zero e raw
  constructor
  · intro rests
    by_cases off : zero
    · have now := regulation_zero mode heats off
      exact ⟨tempDemand_none (.inl now), tempIAfter_rests (.inl (by simp [now]))⟩
    · have failed : s.faultActive .cavitySensor = true := rests.resolve_left off
      exact ⟨tempDemand_none (.inr (.inr failed)), tempIAfter_rests (.inr failed)⟩
  · intro on sensor
    have works : s.faultActive .cavitySensor = false := sensor
    have now := regulation_computed mode heats on
    have computed : s.regulation = .updated ∨ s.regulation = .held := by
      rw [now]
      split
      · exact .inl rfl
      · exact .inr rfl
    refine ⟨by rw [tempDemand_computed computed works, demandOf_cast], ?_⟩
    have moves : s.tempIntegrates = true ↔ s.runState = some .running ∧ ¬(20 < raw ∧ 0 < e) ∧ ¬(raw < 0 ∧ e < 0)
        ∧ ¬(m = .steam ∧ ¬s.steam.boiler = .steaming) := by
      have updated : s.regulation = .updated ↔ s.runState = some .running := by
        rw [now]
        split <;> simp_all
      simp only [State.tempIntegrates, works, Bool.and_eq_true, Bool.not_eq_true', decide_eq_true_eq, updated,
        saturated_false_iff, Bool.and_eq_false_iff, decide_eq_false_iff_not, mode, Option.some.injEq, not_and_or, and_assoc, raw, e,
        Bool.not_false, true_and, ne_eq]
    rw [State.tempIAfter]
    by_cases go : s.tempIntegrates = true
    · rw [if_pos go, if_pos (moves.mp go)]
      rfl
    · rw [if_neg go, if_neg (fun h => go (moves.mpr h))]

/-- The humidity regulator of a humidity-regulated mode. -/
theorem regulate_humidity {s : State} {m : Mode} (mode : s.climate.mode = some m) (heats : m.heats = true)
    (regulated : m.humidityRegulated = true) :
    let zero := s.climate.door = some .opened ∨ s.climate.venting = true ∨ s.runState = some .paused
    let e := s.climate.humError
    let i := s.humIEntering
    let raw := rawHumDemand e i
    (zero → s.humDemand = 0 ∧ s.humIAfter = i)
      ∧ (¬zero → s.degradedNow = true →
          s.humDemand = (s.climate.humidityTarget.getD 0 * 20 + 99) / 100 ∧ s.humIAfter = 0)
      ∧ (¬zero → ¬s.degradedNow = true →
          (s.humDemand : Int) = max 0 (min 20 raw)
            ∧ s.humIAfter =
              (if s.runState = some .running ∧ s.steam.boiler = .steaming ∧ ¬(20 < raw ∧ 0 < e) ∧ ¬(raw < 0 ∧ e < 0)
                then max 0 (min 5120 (i + 8 * e)) else i)) := by
  intro zero e i raw
  have regulates : s.climate.regulatesHumidity = true := by simp only [Climate.regulatesHumidity, mode, regulated]
  have computed (on : ¬zero) : s.regulation = .updated ∨ s.regulation = .held := by
    rw [regulation_computed mode heats on]
    split
    · exact .inl rfl
    · exact .inr rfl
  refine ⟨fun off => ?zero, fun on degraded => ?degraded, fun on sound => ?sound⟩
  case zero =>
    have now := regulation_zero mode heats off
    exact ⟨by rw [State.humDemand, now], humIAfter_rests (.inl (by simp [now]))⟩
  case degraded =>
    refine ⟨by rw [humDemand_computed (computed on), State.humidityDuty, if_pos degraded, degradedDuty], ?_⟩
    rw [humIAfter_rests (.inr (.inr degraded)), State.humIEntering, degraded, Bool.true_or, if_pos rfl]
  case sound =>
    have plain : s.degradedNow = false := by simpa using sound
    refine ⟨by rw [humDemand_computed (computed on), State.humidityDuty, if_neg sound, demandOf_cast], ?_⟩
    have moves : s.humIntegrates = true ↔ s.runState = some .running ∧ s.steam.boiler = .steaming
        ∧ ¬(20 < raw ∧ 0 < e) ∧ ¬(raw < 0 ∧ e < 0) := by
      have updated : s.regulation = .updated ↔ s.runState = some .running := by
        rw [regulation_computed mode heats on]
        split <;> simp_all
      simp only [State.humIntegrates, regulates, plain, Bool.and_eq_true, Bool.not_eq_true', decide_eq_true_eq, updated,
        saturated_false_iff, Bool.not_false, and_true, raw, e, i]
      tauto
    rw [State.humIAfter]
    by_cases go : s.humIntegrates = true
    · rw [if_pos go, if_pos (moves.mp go)]
      rfl
    · rw [if_neg go, if_neg (fun h => go (moves.mpr h))]

/-! ## The fan and the lamp (R76, R78) -/

/-- The outputs are on past CONFIG_FAULT while mains is present. -/
theorem outputsOn_iff (s : State) : s.outputsOn = true ↔ ¬(s.startup.stage = .configFault ∨ s.mainsOut = true) := by
  simp only [State.outputsOn, Bool.and_eq_true, decide_eq_true_eq, Bool.not_eq_true', not_or, Bool.not_eq_true, ne_eq]

/-- The fan stands still without outputs and at the open door. -/
theorem convectionFan_stands {s : State}
    (stands : (s.startup.stage = .configFault ∨ s.mainsOut = true) ∨ s.climate.door = some .opened) : s.convectionFan = 0 := by
  unfold State.convectionFan
  obtain off | door := stands
  · have dark : s.outputsOn = false := by simpa using fun on => (outputsOn_iff s).mp on off
    rw [dark, Bool.not_false, if_pos rfl]
  · have opened : s.doorOpen = true := by simp only [State.doorOpen, door, decide_true]
    rw [opened, if_pos rfl, ite_self]

/-- Else venting and the run state decide it, and then the mode. -/
theorem convectionFan_turns {s : State}
    (turns : ¬((s.startup.stage = .configFault ∨ s.mainsOut = true) ∨ s.climate.door = some .opened)) :
    s.convectionFan
      = if s.climate.venting then 2
        else if s.hasActive = false ∨ s.runState = some .paused then 0
        else (s.climate.mode.map Mode.fanSpeed).getD 0 := by
  obtain ⟨on, shut⟩ := not_or.mp turns
  have closed : s.doorOpen = false := by simp only [State.doorOpen, shut, decide_false]
  have idle : (s.hasActive = false ∨ s.runState = some .paused) ↔ (!s.hasActive) = true ∨ s.suspended = true := by
    rw [suspended_iff, Bool.not_eq_true']
  rw [State.convectionFan, (outputsOn_iff s).mpr on, closed]
  by_cases vents : s.climate.venting = true
  · rw [if_pos vents, if_pos vents]
    rfl
  · rw [if_neg vents, if_neg vents]
    by_cases inactive : (!s.hasActive) = true
    · rw [if_pos inactive, if_pos (idle.mpr (.inl inactive))]
      rfl
    · rw [if_neg inactive]
      by_cases paused : s.suspended = true
      · rw [if_pos paused, if_pos (idle.mpr (.inr paused))]
        rfl
      · rw [if_neg paused, if_neg (fun h => (idle.mp h).elim inactive paused)]
        cases s.climate.mode <;> rfl

/-- Settles O30: each regulator by the situation of R55, then the fan and the lamp. -/
theorem climateRegulators : Obligations.ClimateRegulators := by
  refine ⟨fun s m mode heats => ?heating, fun s cold => ?cold, heats_eq_false_iff, fun s => ?outputs⟩
  case heating =>
    intro t zero running steaming e raw degraded eh ih rawh
    have error : s.climate.tempError = e := by
      simp only [Climate.tempError, e]
      cases s.climate.setpoint <;> cases s.climate.lastCavity <;> rfl
    have humError : s.climate.humError = eh := by
      simp only [Climate.humError, eh]
      cases s.climate.humidityTarget <;> cases s.climate.lastHumidity <;> rfl
    have now : s.degradedNow = true ↔ degraded := by
      simp only [State.degradedNow, Climate.regulatesHumidity, mode, Bool.and_eq_true]
      rfl
    have entering : s.humIEntering = ih := by
      have branch : (s.degradedNow || s.climate.degraded) = true ↔ degraded ∨ s.climate.degraded = true := by
        rw [Bool.or_eq_true, now]
      by_cases off : degraded ∨ s.climate.degraded = true
      · rw [State.humIEntering, if_pos (branch.mpr off), show ih = 0 from if_pos off]
      · rw [State.humIEntering, if_neg (fun h => off (branch.mp h)), show ih = s.climate.humI from if_neg off]
    have temperature := regulate_temperature mode heats
    rw [error] at temperature
    have handed : t.climate.lastBoilerDemand = if m = .steam then s.tempDemand
        else if m.humidityRegulated then s.humDemand else 0 := by
      show s.handedDemand = _
      simp only [State.handedDemand, mode, service_of_heats heats, Bool.false_eq_true, if_false]
    refine ⟨temperature.1, temperature.2, fun steam => ?_, fun dry => ?_, fun regulated => ?_, now,
      (regulate_does s).only⟩
    · rw [handed, if_pos steam]
      rfl
    · have neither : m ≠ .steam ∧ m.humidityRegulated = false := by
        revert dry
        cases m <;> decide
      rw [handed, if_neg neither.1, neither.2]
      rfl
    · have humidity := regulate_humidity mode heats regulated
      rw [humError, entering] at humidity
      simp only [now] at humidity
      have notSteam : m ≠ .steam := by
        rintro rfl
        cases regulated
      rw [handed, if_neg notSteam, if_pos regulated]
      exact humidity
  case cold =>
    intro t service
    have now := regulation_unused cold
    have unregulated : s.climate.regulatesHumidity = false := by
      unfold Climate.regulatesHumidity
      cases mode : s.climate.mode with
      | none => rfl
      | some m =>
        obtain rfl | rfl | rfl | rfl | rfl := (heats_eq_false_iff m).mp (cold m mode) <;> rfl
    have sound : s.degradedNow = false := by rw [State.degradedNow, unregulated, Bool.and_false]
    refine ⟨⟨tempDemand_none (.inr (.inl now)), tempIAfter_rests (.inl (by simp [now])), sound⟩, ?_, fun idle => ?_, fun works => ?_,
      (regulate_does s).only⟩
    · show s.humIAfter = _
      rw [humIAfter_rests (.inl (by simp [now])), State.humIEntering, sound, Bool.false_or]
    · show s.handedDemand = 0
      cases mode : s.climate.mode with
      | none => rw [State.handedDemand, mode]
      | some m =>
        have wait : m = .wait := by
          by_contra other
          exact idle ⟨m, mode, other⟩
        rw [State.handedDemand, mode, wait]
        rfl
    · obtain ⟨m, mode, other⟩ := works
      show s.handedDemand = _
      rw [State.handedDemand, mode]
      exact if_pos ((service_iff (cold m mode)).mpr other)
  case outputs =>
    intro off
    constructor
    · by_cases stands : off ∨ s.climate.door = some .opened
      · rw [convectionFan_stands stands, if_pos stands]
      · rw [convectionFan_turns stands, if_neg stands]
        cases s.climate.mode with
        | none => rfl
        | some m => cases m <;> rfl
    rw [State.lampOn, Bool.and_eq_true, Bool.and_eq_true, outputsOn_iff, Option.isSome_iff_ne_none, Bool.or_eq_true,
      State.doorOpen, decide_eq_true_eq, and_assoc]

end Sys2Proof.Machine
end

section
/-! PROOFS. Samples: the readings, the runs and records of the sensors, and the sequencer's tests (R56 to R58, R77, R82, R127, R129,
R165 to R167). -/

namespace Sys2Proof.Machine

/-! ## A condition of a sample (R166, R167) -/

/-- The record of a condition after a sample: one that holds arises, one that does not goes, an invalid sample leaves it. -/
theorem condition_get_same (k : FaultKind) (valid high : Bool) (s : State) :
    (s.condition k (if valid then some high else none)).faults.get k
      = if valid then if high then (s.faults.get k).arise else (s.faults.get k).goes k else s.faults.get k := by
  cases valid
  · rfl
  · cases high
    · exact condGone_get_same k s
    · exact raise_get_same k s

/-- The other records at a condition. -/
theorem condition_get_ne {k j : FaultKind} (c : Option Bool) (s : State) (other : j ≠ k) :
    (s.condition k c).faults.get j = s.faults.get j := by
  unfold State.condition
  split
  · exact raise_get_ne s other
  · exact condGone_get_ne s other
  · rfl

/-- A condition leaves the runs of the sensors. -/
theorem condition_runs {k : FaultKind} (link : k ≠ .link) (mains : k ≠ .mains) (c : Option Bool) (s : State) (j : SensorKind) :
    (s.condition k c).faults.run j = s.faults.run j := by
  have runs := (condition_does link mains c s).only .runs (by simp)
  simp only [Same, Prod.mk.injEq] at runs
  obtain ⟨cavity, humidity, boiler⟩ := runs
  cases j <;> assumption

/-! ## A sensor at a sample (R165) -/

/-- The sensor's state with its runs kept. -/
def State.sensorRun (k : SensorKind) (smp : Sample) (s : State) : State :=
  s.mapFaults (fun f => f.setRun k ((s.faults.run k).after (sensorValid k smp)))

/-- Keeping the runs leaves the records. -/
theorem sensorRun_get (k : SensorKind) (smp : Sample) (j : FaultKind) (s : State) :
    (s.sensorRun k smp).faults.get j = s.faults.get j := by
  cases k <;> cases j <;> rfl

/-- The run that is kept, and the others. -/
theorem sensorRun_run (k j : SensorKind) (smp : Sample) (s : State) :
    (s.sensorRun k smp).faults.run j = if j = k then (s.faults.run k).after (sensorValid k smp) else s.faults.run j := by
  cases k <;> cases j <;> rfl

/-- A sensor's sample is its run and then a condition of its record. -/
theorem sensorSample_eq (k : SensorKind) (smp : Sample) (s : State) :
    s.sensorSample k smp
      = (s.sensorRun k smp).condition (sensorFault k)
          (if (s.faults.run k).raises (sensorValid k smp) then some true
            else if (s.faults.run k).ends (sensorValid k smp) then some false else none) := by
  unfold State.sensorSample
  dsimp only
  split
  · rfl
  · split
    · rfl
    · rfl

/-- The runs after a sensor's sample. -/
theorem sensorSample_run (k j : SensorKind) (smp : Sample) (s : State) :
    (s.sensorSample k smp).faults.run j = if j = k then (s.faults.run k).after (sensorValid k smp) else s.faults.run j := by
  obtain ⟨link, mains⟩ := sensorFault_ne k
  rw [sensorSample_eq, condition_runs link mains, sensorRun_run]

/-- The records other than the sensor's own. -/
theorem sensorSample_get_ne {k : SensorKind} {j : FaultKind} (other : j ≠ sensorFault k) (smp : Sample) (s : State) :
    (s.sensorSample k smp).faults.get j = s.faults.get j := by
  rw [sensorSample_eq, condition_get_ne _ _ other, sensorRun_get]

/-- The third bad sample in a row raises the sensor's fault. -/
theorem sensorSample_raises {k : SensorKind} {smp : Sample} {s : State}
    (raises : (s.faults.run k).raises (sensorValid k smp) = true) :
    (s.sensorSample k smp).faults.get (sensorFault k) = (s.faults.get (sensorFault k)).arise := by
  rw [sensorSample_eq, if_pos raises]
  exact (raise_get_same _ _).trans (congrArg FaultRecord.arise (sensorRun_get k smp _ s))

/-- The third good sample in a row ends it. -/
theorem sensorSample_ends {k : SensorKind} {smp : Sample} {s : State}
    (ends : (s.faults.run k).ends (sensorValid k smp) = true) :
    (s.sensorSample k smp).faults.get (sensorFault k) = (s.faults.get (sensorFault k)).goes (sensorFault k) := by
  have calm : (s.faults.run k).raises (sensorValid k smp) = false := by
    simp only [SampleRun.ends, Bool.and_eq_true] at ends
    simp only [SampleRun.raises, ends.1, Bool.not_true, Bool.false_and]
  rw [sensorSample_eq, calm, if_neg Bool.false_ne_true, if_pos ends]
  exact (condGone_get_same _ _).trans (congrArg (FaultRecord.goes (sensorFault k)) (sensorRun_get k smp _ s))

/-! ## The fault set at a sample -/

/-- The state once the sensors have been sampled. -/
def State.sensed (smp : Sample) (s : State) : State :=
  ((s.sensorSample .cavity smp).sensorSample .humidity smp).sensorSample .boiler smp

/-- Each sensor keeps its own run. -/
theorem sensed_run (k : SensorKind) (smp : Sample) (s : State) :
    (s.sensed smp).faults.run k = (s.faults.run k).after (sensorValid k smp) := by
  cases k <;> simp [State.sensed, sensorSample_run]

/-- The records of the other kinds stand. -/
theorem sensed_get_ne {j : FaultKind} (other : ∀ k, j ≠ sensorFault k) (smp : Sample) (s : State) :
    (s.sensed smp).faults.get j = s.faults.get j := by
  rw [State.sensed, sensorSample_get_ne (other .boiler), sensorSample_get_ne (other .humidity), sensorSample_get_ne (other .cavity)]

/-- The record of a sensor is the one its own sample leaves. -/
theorem sensed_get (k : SensorKind) (smp : Sample) (s : State) :
    ∃ x : State, x.faults.run k = s.faults.run k ∧ x.faults.get (sensorFault k) = s.faults.get (sensorFault k)
      ∧ (s.sensed smp).faults.get (sensorFault k) = (x.sensorSample k smp).faults.get (sensorFault k) := by
  cases k
  case cavity =>
    refine ⟨s, rfl, rfl, ?_⟩
    rw [State.sensed, sensorSample_get_ne (by decide), sensorSample_get_ne (by decide)]
  case humidity =>
    refine ⟨s.sensorSample .cavity smp, ?_, ?_, ?_⟩
    · rw [sensorSample_run, if_neg (by decide)]
    · rw [sensorSample_get_ne (by decide)]
    · rw [State.sensed, sensorSample_get_ne (by decide)]
  case boiler =>
    refine ⟨(s.sensorSample .cavity smp).sensorSample .humidity smp, ?_, ?_, rfl⟩
    · rw [sensorSample_run, if_neg (by decide), sensorSample_run, if_neg (by decide)]
    · rw [sensorSample_get_ne (by decide), sensorSample_get_ne (by decide)]

/-- The fault set at a sample: the sensors, then the three conditions. -/
theorem sampleFaults_eq (before : CoreStatus) (smp : Sample) (s : State) :
    s.sampleFaults before smp
      = (((s.sensed smp).condition .coreProbeShort
          (if !decide (s.climate.coreStatus = before) then some (decide (s.climate.coreStatus = .shorted)) else none)).condition
          .cavityOverheat (if validCavity smp.cavity then some (decide (2800 < smp.cavity)) else none)).condition .boilerDry
          (if validBoiler smp.boiler then some (decide (1400 < smp.boiler)) else none) := by
  unfold State.sampleFaults State.sensed overCondition
  by_cases same : s.climate.coreStatus = before <;> simp only [same, if_true, if_false, decide_true, decide_false, Bool.not_true,
    Bool.not_false, Bool.false_eq_true]

/-- The runs after a sample. -/
theorem sampleFaults_run (before : CoreStatus) (smp : Sample) (k : SensorKind) (s : State) :
    (s.sampleFaults before smp).faults.run k = (s.faults.run k).after (sensorValid k smp) := by
  rw [sampleFaults_eq, condition_runs (by decide) (by decide), condition_runs (by decide) (by decide),
    condition_runs (by decide) (by decide), sensed_run]

/-- The record of a sensor after a sample. -/
theorem sampleFaults_sensor (before : CoreStatus) (smp : Sample) (k : SensorKind) (s : State) :
    (s.sampleFaults before smp).faults.get (sensorFault k) = (s.sensed smp).faults.get (sensorFault k) := by
  have others : sensorFault k ≠ .boilerDry ∧ sensorFault k ≠ .cavityOverheat ∧ sensorFault k ≠ .coreProbeShort := by
    cases k <;> decide
  obtain ⟨dry, hot, short⟩ := others
  rw [sampleFaults_eq, condition_get_ne _ _ dry, condition_get_ne _ _ hot, condition_get_ne _ _ short]

/-- COREPROBE_SHORT after a sample: decided where the status has changed (R166). -/
theorem sampleFaults_coreProbeShort (before : CoreStatus) (smp : Sample) (s : State) :
    (s.sampleFaults before smp).faults.coreProbeShort
      = if s.climate.coreStatus = before then s.faults.coreProbeShort
        else if s.climate.coreStatus = .shorted then s.faults.coreProbeShort.arise
        else s.faults.coreProbeShort.goes .coreProbeShort := by
  have kept : (s.sensed smp).faults.get .coreProbeShort = s.faults.coreProbeShort :=
    sensed_get_ne (fun k => by cases k <;> decide) smp s
  show (s.sampleFaults before smp).faults.get .coreProbeShort = _
  rw [sampleFaults_eq, condition_get_ne _ _ (by decide), condition_get_ne _ _ (by decide), condition_get_same, kept]
  by_cases same : s.climate.coreStatus = before
  · simp only [same, decide_true, Bool.not_true, Bool.false_eq_true, if_false, if_true]
  · simp only [same, decide_false, Bool.not_false, if_false, if_true, decide_eq_true_eq]

/-- CAVITY_OVERHEAT after a sample (R167). -/
theorem sampleFaults_cavityOverheat (before : CoreStatus) (smp : Sample) (s : State) :
    (s.sampleFaults before smp).faults.cavityOverheat
      = if validCavity smp.cavity then
          if decide (2800 < smp.cavity) then s.faults.cavityOverheat.arise else s.faults.cavityOverheat.goes .cavityOverheat
        else s.faults.cavityOverheat := by
  have kept : (s.sensed smp).faults.get .cavityOverheat = s.faults.cavityOverheat :=
    sensed_get_ne (fun k => by cases k <;> decide) smp s
  show (s.sampleFaults before smp).faults.get .cavityOverheat = _
  rw [sampleFaults_eq, condition_get_ne _ _ (by decide), condition_get_same, condition_get_ne _ _ (by decide), kept]

/-- BOILER_DRY after a sample (R167). -/
theorem sampleFaults_boilerDry (before : CoreStatus) (smp : Sample) (s : State) :
    (s.sampleFaults before smp).faults.boilerDry
      = if validBoiler smp.boiler then
          if decide (1400 < smp.boiler) then s.faults.boilerDry.arise else s.faults.boilerDry.goes .boilerDry
        else s.faults.boilerDry := by
  have kept : (s.sensed smp).faults.get .boilerDry = s.faults.boilerDry :=
    sensed_get_ne (fun k => by cases k <;> decide) smp s
  show (s.sampleFaults before smp).faults.get .boilerDry = _
  rw [sampleFaults_eq, condition_get_same, condition_get_ne _ _ (by decide), condition_get_ne _ _ (by decide), kept]

/-! ## The whole sample (R56, R77, R82) -/

/-- The readings of a sample, before the fault set acts on them. -/
def State.readings (smp : Sample) (s : State) : State :=
  ((s.setInputs smp).mapClimate (Climate.sample smp)).mapSteam (Steam.sample smp.boiler)

/-- A sample: the readings, the fault set, the cooling fan. -/
theorem sampleAll_eq (smp : Sample) (s : State) :
    s.sampleAll smp = ((s.readings smp).sampleFaults s.climate.coreStatus smp).coolAtSample := rfl

/-- The record of a sensor whose third bad sample this is. -/
theorem sampleAll_raises {k : SensorKind} {smp : Sample} {s : State} (raises : (s.faults.run k).raises (sensorValid k smp) = true) :
    (s.sampleAll smp).faults.get (sensorFault k) = (s.faults.get (sensorFault k)).arise := by
  obtain ⟨x, run, record, sampled⟩ := sensed_get k smp (s.readings smp)
  have third : (x.faults.run k).raises (sensorValid k smp) = true := by
    rw [run]
    exact raises
  show ((s.readings smp).sampleFaults s.climate.coreStatus smp).faults.get (sensorFault k) = _
  rw [sampleFaults_sensor, sampled, sensorSample_raises third, record]
  rfl

/-- The record of a sensor whose third good sample this is. -/
theorem sampleAll_ends {k : SensorKind} {smp : Sample} {s : State} (ends : (s.faults.run k).ends (sensorValid k smp) = true) :
    (s.sampleAll smp).faults.get (sensorFault k) = (s.faults.get (sensorFault k)).goes (sensorFault k) := by
  obtain ⟨x, run, record, sampled⟩ := sensed_get k smp (s.readings smp)
  have third : (x.faults.run k).ends (sensorValid k smp) = true := by
    rw [run]
    exact ends
  show ((s.readings smp).sampleFaults s.climate.coreStatus smp).faults.get (sensorFault k) = _
  rw [sampleFaults_sensor, sampled, sensorSample_ends third, record]
  rfl

/-- The runs after a sample. -/
theorem sampleAll_run (k : SensorKind) (smp : Sample) (s : State) :
    (s.sampleAll smp).faults.run k = (s.faults.run k).after (sensorValid k smp) :=
  sampleFaults_run s.climate.coreStatus smp k (s.readings smp)

/-- What a boundary may do after its sample: nothing to the sensors' records and runs. -/
theorem boundaryCrossing_afterSample {s : State} (smp : Sample) (power : s.mainsOut = false) :
    ∃ w : State, w.faults = s.faults ∧ Only ([.frame, .gates, .demands] ++ runAspects ++ fireAspects) (w.sampleAll smp)
      (s.boundaryCrossing smp nominalFrameMs) := by
  have ended := (advanceLfsr_does s).seq (endFrame_does s.advanceLfsr)
  have closed : s.advanceLfsr.closeFrame nominalFrameMs = s.advanceLfsr.endFrame := closeFrame_nominal _
  have powered : s.advanceLfsr.endFrame.mainsOut = false := by
    rw [State.mainsOut, State.faultActive, ended.only.faults]
    exact power
  have counted := ended.seq (countCrossing_does s.advanceLfsr.endFrame)
  refine ⟨s.advanceLfsr.endFrame.countCrossing, counted.only.faults, ?_⟩
  unfold State.boundaryCrossing
  dsimp only
  rw [closed, powered, if_neg Bool.false_ne_true]
  unfold State.boundaryWork
  have still : s.advanceLfsr.endFrame.countCrossing.load.running = false := by
    have frame := (countCrossing_does s.advanceLfsr.endFrame).same .frame (by decide)
    exact (Prod.mk.inj frame).1.trans (endFrame_stopped _)
  have sampled := (sampleAll_does smp s.advanceLfsr.endFrame.countCrossing).only .frame (by decide)
  have stopped : (s.advanceLfsr.endFrame.countCrossing.sampleAll smp).load.running = false := (Prod.mk.inj sampled).1.trans still
  generalize s.advanceLfsr.endFrame.countCrossing.sampleAll smp = a at stopped
  have b := ((((sampleTests_does true a).seq (runSettle_does _)).seq (shareBoundary_does _)).seq (regulate_does _)).seq
    ((boilerBoundary_does _).seq (runSettle_does _))
  have rest := b.same .frame (by decide)
  exact ((b.seq (beginSwitch_does ((Prod.mk.inj rest).1.trans stopped))).seq (fire_does _ _)).only.mono (by decide)

/-- Wherever the next sample falls, it leaves a sensor's record and run as the sample itself leaves them. -/
theorem nextSample_sensor {s : State} (k : SensorKind) (smp : Sample) (due : s.timerSamples = true ∨ s.boundaryDue = true) :
    ∃ w : State, w.faults = s.faults
      ∧ (s.reported (s.nextSample smp)).faults.get (sensorFault k) = (w.sampleAll smp).faults.get (sensorFault k)
      ∧ (s.reported (s.nextSample smp)).faults.run k = (w.sampleAll smp).faults.run k := by
  have level {as : List Aspect} {x y : State} (only : Only as x y) (record : .fault (sensorFault k) ∉ as) (runs : .runs ∉ as) :
      y.faults.get (sensorFault k) = x.faults.get (sensorFault k) ∧ y.faults.run k = x.faults.run k := by
    have each := only .runs runs
    simp only [Same, Prod.mk.injEq] at each
    obtain ⟨cavity, humidity, boiler⟩ := each
    exact ⟨only (.fault (sensorFault k)) record, by cases k <;> assumption⟩
  have told := (reported_does s (s.nextSample smp)).only.faults
  rw [told, State.nextSample]
  by_cases timer : s.timerSamples = true
  · rw [if_pos timer]
    refine ⟨s, rfl, ?_⟩
    exact level ((sampleTests_does false _).seq (runSettle_does _)).only (by cases k <;> decide) (by decide)
  · have boundary : s.boundaryDue = true := due.resolve_left timer
    have power : s.mainsOut = false := by
      simp only [State.boundaryDue, State.crossingRuns, Bool.and_eq_true, Bool.not_eq_true'] at boundary
      exact boundary.1.2
    rw [if_neg timer, if_pos boundary]
    obtain ⟨w, faults, only⟩ := boundaryCrossing_afterSample smp power
    exact ⟨w, faults, level only (by cases k <;> decide) (by decide)⟩

/-- A humidity sample is valid where there is one of at most 100. -/
theorem validHumidity_iff (h : Option Nat) : validHumidity h = true ↔ ∃ v, h = some v ∧ v ≤ 100 := by
  cases h with
  | none => simp [validHumidity]
  | some v => simp [validHumidity]

/-- A sensor's sample is valid by its range. -/
theorem validCavity_iff (t : Int) : validCavity t = true ↔ -200 ≤ t ∧ t ≤ 3200 := decide_eq_true_iff

/-- The boiler sensor's range. -/
theorem validBoiler_iff (t : Int) : validBoiler t = true ↔ -200 ≤ t ∧ t ≤ 2500 := decide_eq_true_iff

/-- The readings and the core probe after a sample. -/
theorem sampleAll_readings (smp : Sample) (s : State) :
    let v := s.sampleAll smp
    let c := s.climate.sample smp
    v.inputs = smp ∧ v.steam.boilerReading = some smp.boiler
      ∧ v.steam.lastBoiler = (if validBoiler smp.boiler then some smp.boiler else s.steam.lastBoiler)
      ∧ v.climate.cavityReading = c.cavityReading ∧ v.climate.lastCavity = c.lastCavity
      ∧ v.climate.humidityReading = c.humidityReading ∧ v.climate.lastHumidity = c.lastHumidity
      ∧ v.climate.coreStatus = c.coreStatus ∧ v.climate.coreReading = c.coreReading ∧ v.climate.coreSeen = c.coreSeen := by
  intro v c
  have later := ((sampleFaults_does s.climate.coreStatus smp (s.readings smp)).seq (coolAtSample_does _)).only
  have inputs := later .inputs (by decide)
  have readings := later .readings (by decide)
  have boiler := later .boilerReadings (by decide)
  simp only [Same, Prod.mk.injEq] at inputs readings boiler
  obtain ⟨cavity, lastCavity, humidity, lastHumidity, status, reading, seen⟩ := readings
  exact ⟨inputs, boiler.1, boiler.2, cavity, lastCavity, humidity, lastHumidity, status, reading, seen⟩

/-- The cooling fan after a sample (R77). -/
theorem sampleAll_coolingFan (smp : Sample) (s : State) :
    let v := s.sampleAll smp
    v.climate.coolingFan = true
      ↔ v.mainsOut = false ∧ (v.hasActive = true ∨ (∀ c, v.climate.lastCavity = some c → 700 < c) ∨ v.faults.cavitySensor.active = true) := by
  intro v
  rw [show v = ((s.readings smp).sampleFaults s.climate.coreStatus smp).coolAtSample from sampleAll_eq smp s]
  generalize (s.readings smp).sampleFaults s.climate.coreStatus smp = x
  have hot : x.climate.hotOrUnknown = true ↔ ∀ c, x.climate.lastCavity = some c → 700 < c := by
    unfold Climate.hotOrUnknown
    cases x.climate.lastCavity with
    | none => simp
    | some t => simp
  show (!x.mainsOut && (x.hasActive || x.climate.hotOrUnknown || x.faultActive .cavitySensor)) = true ↔ x.mainsOut = false ∧ _
  rw [Bool.and_eq_true, Bool.not_eq_true', Bool.or_eq_true, Bool.or_eq_true, hot, or_assoc]
  exact Iff.rfl

/-- The core probe by the statement's words: its class, its status after two samples that agree, its reading (R58). -/
theorem coreAfter_eq (c : Climate) (input : CoreInput) :
    (c.coreReadingAfter input = if c.coreAfter (coreClass input) = .present then ((coreTenths input).orElse fun _ => c.coreReading) else none)
      ∧ c.coreAfter (coreClass input) = if c.coreSeen = some (coreClass input) then coreClass input else c.coreStatus := by
  refine ⟨?_, rfl⟩
  unfold Climate.coreReadingAfter
  cases coreTenths input <;> rfl

/-- What SAMPLE_TICK answers while no frame runs. -/
theorem sampleTick_timer {s : State} (timer : s.timerSamples = true) (smp : Sample) :
    exec (.sampleTick smp) s = .next (s.reported ((s.sampleAll smp).sampleTests false).runSettle) := by
  show s.report_ (if s.timerSamples then s.timerSample smp else _) = _
  rw [if_pos timer]
  rfl

/-- The runs after a valid or an invalid sample (R165). -/
theorem sampleRun_after (valid : Bool) (r : SampleRun) :
    r.after valid = if valid then ⟨0, min 3 (r.good + 1)⟩ else ⟨min 3 (r.bad + 1), 0⟩ := rfl

/-- The events of a sensor's record are the samples that bring them about (R165, log 2). -/
theorem sensorEvents (k : SensorKind) (smp : Sample) (s : State) :
    let raises := sensorValid k smp = false ∧ (s.faults.run k).bad = 2 ∧ (s.faults.get (sensorFault k)).active = false
    let ends := sensorValid k smp = true ∧ (s.faults.run k).good = 2 ∧ (s.faults.get (sensorFault k)).active = true
    (raises → exec (.sensorFaultRaised k smp) s = s.report_ (s.nextSample smp))
      ∧ (¬raises → exec (.sensorFaultRaised k smp) s = .next s)
      ∧ (ends → exec (.sensorFaultEnded k smp) s = s.report_ (s.nextSample smp))
      ∧ (¬ends → exec (.sensorFaultEnded k smp) s = .next s) := by
  intro raises ends
  have raised : ((s.faults.run k).raises (sensorValid k smp) && !s.faultActive (sensorFault k)) = true ↔ raises := by
    simp only [SampleRun.raises, State.faultActive, Bool.and_eq_true, Bool.not_eq_true', decide_eq_true_eq, and_assoc, raises]
  have ended : ((s.faults.run k).ends (sensorValid k smp) && s.faultActive (sensorFault k)) = true ↔ ends := by
    simp only [SampleRun.ends, State.faultActive, Bool.and_eq_true, decide_eq_true_eq, and_assoc, ends]
  refine ⟨fun yes => ?_, fun no => report_of_not (fun h => no (raised.mp h)), fun yes => ?_,
    fun no => report_of_not (fun h => no (ended.mp h))⟩
  · exact congrArg s.report_ (if_pos (raised.mpr yes))
  · exact congrArg s.report_ (if_pos (ended.mpr yes))

/-- The next sample is that of SAMPLE_TICK while no frame runs, and of a boundary else (log 2). -/
theorem nextSample_command (smp : Sample) (s : State) :
    (s.timerSamples = true → s.report_ (s.nextSample smp) = exec (.sampleTick smp) s)
      ∧ (s.timerSamples = false → s.report_ (s.nextSample smp) = exec (.frameBoundary smp 400) s) := by
  constructor
  · intro timer
    rw [sampleTick_timer timer, State.nextSample, if_pos timer]
    rfl
  · intro frame
    show _ = s.report_ (if s.boundaryDue then s.boundaryCrossing smp nominalFrameMs else s)
    rw [State.nextSample, frame, if_neg Bool.false_ne_true]

/-- Settles O32: the sample tick by the stages of a sample, and the two events of a sensor as the sample they name. -/
theorem samplesAndSensorFaults : Obligations.SamplesAndSensorFaults := by
  refine ⟨fun smp s => ⟨fun fault => ?stopped, fun stage frame => ?frame, fun timer => ?timer⟩, fun k smp s => ?sensors⟩
  case stopped =>
    have idle : s.timerSamples = false := by simp [State.timerSamples, fault]
    show s.report_ (if s.timerSamples then s.timerSample smp else if s.startup.stage = .configFault then s else s.setInputs smp) = _
    rw [idle, if_neg Bool.false_ne_true, if_pos fault, report_same]
  case frame =>
    show s.report_ (if s.timerSamples then s.timerSample smp else if s.startup.stage = .configFault then s else s.setInputs smp) = _
    rw [frame, if_neg Bool.false_ne_true, if_neg stage]
    rfl
  case timer =>
    intro probe cavityOk boilerOk humidityOk bounded
    have class_ : coreClass smp.core = probe := by
      simp only [probe]
      cases smp.core <;> rfl
    have cavityIff := validCavity_iff smp.cavity
    have boilerIff := validBoiler_iff smp.boiler
    have humidityIff := validHumidity_iff smp.humidity
    have valid (k : SensorKind) : ((s.sampleAll smp).faults.run k) = (s.faults.run k).after (sensorValid k smp) :=
      sampleAll_run k smp s
    obtain ⟨inputs, boilerReading, lastBoiler, cavity, lastCavity, humidity, lastHumidity, status, reading, seen⟩ :=
      sampleAll_readings smp s
    have coreStatus : (s.sampleAll smp).climate.coreStatus = if s.climate.coreSeen = some probe then probe else s.climate.coreStatus := by
      rw [status, ← class_]
      rfl
    have coreReading : (s.sampleAll smp).climate.coreReading = s.climate.coreReadingAfter smp.core := reading
    have present : (s.sampleAll smp).climate.coreStatus = s.climate.coreAfter (coreClass smp.core) := status
    refine ⟨s.sampleAll smp, sampleTick_timer timer smp, inputs, ⟨cavity, humidity, boilerReading⟩, ?_, ?_, fun ok => ?_, fun bad => ?_,
      ?_, coreStatus, fun on => ?_, fun off => ?_, ⟨?_, ?_, fun ok => ?_, fun bad => ?_⟩, ?_, ?_, ?_, sampleAll_coolingFan smp s,
      (sampleAll_does smp s).only⟩
    · rw [lastCavity]
      exact if_congr cavityIff rfl rfl
    · rw [lastBoiler]
      exact if_congr boilerIff rfl rfl
    · rw [lastHumidity]
      exact if_pos (humidityIff.mpr ok)
    · rw [lastHumidity]
      exact if_neg (fun h => bad (humidityIff.mp h))
    · rw [seen, ← class_]
      rfl
    · rw [present] at on
      rw [coreReading, (coreAfter_eq _ _).1, if_pos on]
      cases smp.core <;> rfl
    · rw [present] at off
      rw [coreReading, (coreAfter_eq _ _).1, if_neg off]
    · exact (valid .cavity).trans (if_congr cavityIff rfl rfl)
    · exact (valid .boiler).trans (if_congr boilerIff rfl rfl)
    · exact (valid .humidity).trans (if_pos (humidityIff.mpr ok))
    · exact (valid .humidity).trans (if_neg (fun h => bad (humidityIff.mp h)))
    · refine (sampleFaults_cavityOverheat s.climate.coreStatus smp (s.readings smp)).trans ?_
      exact if_congr cavityIff (if_congr decide_eq_true_iff rfl rfl) rfl
    · refine (sampleFaults_boilerDry s.climate.coreStatus smp (s.readings smp)).trans ?_
      exact if_congr boilerIff (if_congr decide_eq_true_iff rfl rfl) rfl
    · rw [status]
      exact sampleFaults_coreProbeShort s.climate.coreStatus smp (s.readings smp)
  case sensors =>
    intro valid kind r raises ends
    have kindEq : sensorFault k = kind := by
      show sensorFault k = _
      cases k <;> rfl
    have validIff : sensorValid k smp = true ↔ valid := by
      cases k
      · exact validCavity_iff smp.cavity
      · exact validHumidity_iff smp.humidity
      · exact validBoiler_iff smp.boiler
    have invalidIff : sensorValid k smp = false ↔ ¬valid := by rw [← validIff, Bool.not_eq_true]
    obtain ⟨raisesYes, raisesNo, endsYes, endsNo⟩ := sensorEvents k smp s
    obtain ⟨timer, frame⟩ := nextSample_command smp s
    rw [kindEq, invalidIff] at raisesYes raisesNo
    rw [kindEq, validIff] at endsYes endsNo
    have only : Only boundaryAspects s (s.reported (s.nextSample smp)) :=
      ((nextSample_does smp s).seq (reported_does s _)).only.mono (by decide)
    refine ⟨fun yes => ⟨fun t => (raisesYes yes).trans (timer t), fun f => (raisesYes yes).trans (frame f), fun due => ?_⟩, raisesNo,
      fun yes => ⟨fun t => (endsYes yes).trans (timer t), fun f => (endsYes yes).trans (frame f), fun due unlatched => ?_⟩, endsNo⟩
    · obtain ⟨invalid, two, inactive⟩ := yes
      obtain ⟨w, faults, record, run⟩ := nextSample_sensor k smp due
      have bad : sensorValid k smp = false := invalidIff.mpr invalid
      refine ⟨s.reported (s.nextSample smp), raisesYes ⟨invalid, two, inactive⟩, ?_, ?_, only⟩
      · have third : (w.faults.run k).raises (sensorValid k smp) = true := by
          rw [faults, SampleRun.raises, bad, two]
          rfl
        rw [← kindEq, record, sampleAll_raises third, faults, kindEq, arise_of_inactive inactive]
      · rw [run, sampleAll_run, faults, bad, sampleRun_after, two]
        rfl
    · obtain ⟨ok, two, active⟩ := yes
      obtain ⟨w, faults, record, run⟩ := nextSample_sensor k smp due
      have good : sensorValid k smp = true := validIff.mpr ok
      refine ⟨s.reported (s.nextSample smp), endsYes ⟨ok, two, active⟩, ?_, ?_, only⟩
      · have third : (w.faults.run k).ends (sensorValid k smp) = true := by
          rw [faults, SampleRun.ends, good, two]
          rfl
        have leaves : kind ≠ .duplicateStation ∧ kind.latching = false := by
          rw [← kindEq]
          cases k <;> decide
        rw [← kindEq, record, sampleAll_ends third, faults, kindEq, goes_of_inForce active unlatched leaves.1, leaves.2,
          if_neg Bool.false_ne_true]
        show ({ r with active := false } : FaultRecord) = ⟨false, false, r.count⟩
        rw [show r.latched = false from unlatched]
      · rw [run, sampleAll_run, faults, good, sampleRun_after, two]
        rfl

/-! ## The sequencer's tests (R127, R129) -/

/-- A program is RUNNING by its run state. -/
theorem isRunning_iff (s : State) : s.isRunning = true ↔ s.runState = some .running := decide_eq_true_iff

/-- The band is reached by a valid cavity temperature of at least its lower end (R127). -/
theorem bandReached_iff (r : StepRecord) (s : State) :
    s.bandReached r = true
      ↔ ∃ c sp, s.climate.lastCavity = some c ∧ r.setpoint = some sp ∧ 10 * ((sp : Int) - r.band.getD 5) ≤ c := by
  unfold State.bandReached StepRecord.bandOr5
  cases s.climate.lastCavity with
  | none => simp
  | some c =>
    cases r.setpoint with
    | none => simp
    | some sp => simp

/-- In PREHEAT a boundary's sample alone is a test. -/
theorem sampleTests_preheat {s : State} {r : StepRecord} (step : s.activeStep = some r) (phase : s.phase = some .preheat) :
    s.sampleTests false = s
      ∧ s.sampleTests true = if s.runState = some .running ∧ s.bandReached r = true then s.toCount r else s := by
  constructor
  · rw [State.sampleTests, phase]
    rfl
  · rw [State.sampleTests, phase]
    show s.preheatTest = _
    rw [State.preheatTest, step]
    exact if_congr (by rw [Bool.and_eq_true, isRunning_iff]) rfl rfl

/-- In COUNT the core test is the test of any sample. -/
theorem sampleTests_count {s : State} {r : StepRecord} (step : s.activeStep = some r) (phase : s.phase = some .count) (b : Bool) :
    s.sampleTests b
      = if s.seq.workKind ≠ some .core then s
        else if s.seq.probeHold then if s.climate.coreStatus = .present then s.clearProbe else s
        else if s.climate.coreStatus ≠ .present then s.mapSeq (Sequencer.loseProbe r)
        else if s.isRunning && s.coreReached r then s.endCount
        else s := by
  rw [State.sampleTests, phase]
  show s.coreTest = _
  rw [State.coreTest, step]

/-- The core test of a step whose probe is in use. -/
theorem sampleTests_present {s : State} {r : StepRecord} (step : s.activeStep = some r) (phase : s.phase = some .count)
    (core : s.seq.workKind = some .core) (held : s.seq.probeHold = false) (present : s.climate.coreStatus = .present) (b : Bool) :
    s.sampleTests b = if s.runState = some .running ∧ s.coreReached r = true then s.endCount else s := by
  rw [sampleTests_count step phase, if_neg (not_not_intro core), held, if_neg Bool.false_ne_true, if_neg (not_not_intro present)]
  exact if_congr (by rw [Bool.and_eq_true, isRunning_iff]) rfl rfl

/-- A probe that is lost converts the step by its fallback, or holds it (R129). -/
theorem loseProbe_cases (r : StepRecord) (q : Sequencer) :
    (∀ d, r.fallback = some d → q.loseProbe r = { q with workKind := some .timed, workDuration := some d, elapsed := 0 })
      ∧ (r.fallback = none → q.loseProbe r = { q with probeHold := true }) := by
  constructor
  · intro d fallback
    rw [Sequencer.loseProbe, fallback]
  · intro fallback
    rw [Sequencer.loseProbe, fallback]

/-- Settles O33: the tests by phase, and in COUNT by the hold and the status of the probe. -/
theorem sampleTests : Obligations.SampleTests := by
  intro s r step running
  refine ⟨fun phase => ?preheat, fun phase other b => ?other, fun phase core b => ?core, fun preheat count b => ?rest⟩
  case preheat =>
    obtain ⟨within, atBoundary⟩ := sampleTests_preheat step phase
    refine ⟨within, fun c sp run cavity setpoint reached => ?_, fun stays => ?_⟩
    · rw [atBoundary, if_pos ⟨run, (bandReached_iff r s).mpr ⟨c, sp, cavity, setpoint, reached⟩⟩]
    · rw [atBoundary, if_neg]
      rintro ⟨run, reached⟩
      obtain ⟨c, sp, cavity, setpoint, above⟩ := (bandReached_iff r s).mp reached
      obtain stopped | unknown | ⟨c', sp', cavity', setpoint', below⟩ := stays
      · exact stopped run
      · rw [unknown] at cavity
        cases cavity
      · rw [cavity] at cavity'
        rw [setpoint] at setpoint'
        cases cavity'
        cases setpoint'
        omega
  case other => rw [sampleTests_count step phase, if_pos other]
  case core =>
    have begins := sampleTests_count step phase b
    rw [if_neg (not_not_intro core)] at begins
    refine ⟨fun held present => ?_, fun held lost => ?_, fun free lost => ?_, fun free present c target reading wanted => ?_⟩
    · rw [begins, if_pos held, if_pos present]
      rfl
    · rw [begins, if_pos held, if_neg lost]
    · rw [free, if_neg Bool.false_ne_true, if_pos lost] at begins
      obtain ⟨converts, holds⟩ := loseProbe_cases r s.seq
      refine ⟨fun d fallback => ?_, fun fallback => ?_⟩
      · rw [begins, State.mapSeq, converts d fallback]
      · rw [begins, State.mapSeq, holds fallback]
    · have test := sampleTests_present step phase core free present b
      have reached : s.coreReached r = true ↔ 10 * (target : Int) ≤ c := by
        simp only [State.coreReached, reading, wanted, present, decide_true, Bool.true_and, decide_eq_true_eq]
      refine ⟨fun run above => ?_, fun stays => ?_⟩
      · rw [test, if_pos ⟨run, reached.mpr above⟩]
      · rw [test, if_neg]
        rintro ⟨run, yes⟩
        have above := reached.mp yes
        obtain stopped | below := stays
        · exact stopped run
        · omega
  case rest =>
    unfold State.sampleTests
    split
    · rename_i phase
      exact absurd phase preheat
    · rename_i phase
      exact absurd phase count
    · rfl

end Sys2Proof.Machine
end

section
/-! PROOFS. The end of a program, and the boiler as the requests NONE and DRAIN leave it (R84, R87, R94, R142, R143). -/

namespace Sys2Proof.Machine

/-! ## What only calms the boiler (R87, R95, R96) -/

/-- The boiler stays in its state or goes to OFF or EMPTY, soak heating does not begin, and a stroke stays or ends. -/
structure Steam.Calmer (w v : Steam) : Prop where
  boiler : v.boiler = w.boiler ∨ v.boiler = .off ∨ v.boiler = .empty
  soak : v.soakHeating = true → w.soakHeating = true
  stroke : v.stroke = w.stroke ∨ v.stroke = .idle

namespace Steam.Calmer

/-- What leaves these three fields calms. -/
theorem of_fields {w v : Steam} (boiler : v.boiler = w.boiler) (soak : v.soakHeating = w.soakHeating)
    (stroke : v.stroke = w.stroke) : w.Calmer v :=
  ⟨.inl boiler, fun h => by rwa [soak] at h, .inl stroke⟩

/-- Calming follows on calming. -/
theorem trans {w v u : Steam} (h : w.Calmer v) (k : v.Calmer u) : w.Calmer u := by
  refine ⟨?_, fun s => h.soak (k.soak s), ?_⟩
  · obtain same | calm := k.boiler
    · rw [same]
      exact h.boiler
    · exact .inr calm
  · obtain same | idle := k.stroke
    · rw [same]
      exact h.stroke
    · exact .inr idle

/-- What agrees in these fields is calmed too. -/
theorem of_start {w v u : Steam} (h : v.Calmer u) (boiler : v.boiler = w.boiler) (soak : v.soakHeating = w.soakHeating)
    (stroke : v.stroke = w.stroke) : w.Calmer u :=
  (of_fields boiler soak stroke).trans h

/-- A boiler that does not work does not begin to. -/
theorem notWorking {w v : Steam} (h : w.Calmer v) (calm : w.boiler.working = false) : v.boiler.working = false := by
  obtain same | off | empty := h.boiler
  · rw [same]
    exact calm
  · rw [off]
    rfl
  · rw [empty]
    rfl

/-- A boiler that does not fill does not begin to. -/
theorem notFilling {w v : Steam} (h : w.Calmer v) (calm : w.boiler ≠ .filling) : v.boiler ≠ .filling := by
  obtain same | off | empty := h.boiler
  · rw [same]
    exact calm
  · rw [off]
    decide
  · rw [empty]
    decide

/-- Soak heating that is off stays off. -/
theorem notSoaking {w v : Steam} (h : w.Calmer v) (calm : w.soakHeating = false) : v.soakHeating = false :=
  Bool.eq_false_iff.mpr fun on => Bool.eq_false_iff.mp calm (h.soak on)

/-- No stroke begins. -/
theorem notRunning {w v : Steam} (h : w.Calmer v) (calm : ∀ c, w.stroke ≠ .running c) (c : Nat) : v.stroke ≠ .running c := by
  obtain same | idle := h.stroke
  · rw [same]
    exact calm c
  · rw [idle]
    exact Stroke.noConfusion

end Steam.Calmer

/-- OFF and EMPTY are the states of a boiler at rest. -/
theorem setBoiler_calmer {b : BoilerState} (rest : b = .off ∨ b = .empty) (s : State) : s.steam.Calmer (s.setBoiler b).steam := by
  rw [setBoiler_steam]
  exact ⟨.inr rest, id, .inl rfl⟩

/-- The still state is one of them. -/
theorem stillState_rest (s : State) : s.stillState = .off ∨ s.stillState = .empty := by
  unfold State.stillState
  split
  · exact .inl rfl
  · exact .inr rfl

/-- The end of soak heating calms. -/
theorem endSoak_calmer (s : State) : s.steam.Calmer s.endSoak.steam := by
  rw [endSoak_steam]
  exact ⟨.inl rfl, fun h => absurd h Bool.false_ne_true, .inl rfl⟩

/-- A fill stopped calms. -/
theorem stopFill_calmer (s : State) : s.steam.Calmer s.stopFill.steam := by
  rw [stopFill_steam]
  split
  · exact ⟨.inr (stillState_rest s), id, .inr rfl⟩
  · exact .of_fields rfl rfl rfl

/-- A drain that starts calms. -/
theorem beginDrain_calmer (serves : Bool) (s : State) : s.steam.Calmer (s.beginDrain serves).steam := by
  unfold State.beginDrain
  dsimp only
  refine (endSoak_calmer s).trans ?_
  split
  · exact (setBoiler_calmer (.inl rfl) s.endSoak).trans (.of_fields rfl rfl rfl)
  · exact .of_fields rfl rfl rfl

/-- Leaving a request for NONE or DRAIN calms. -/
theorem leaveRequest_calmer {req : BoilerRequest} (rest : req = .none ∨ req = .drain) (s : State) :
    s.steam.Calmer (s.leaveRequest req).steam := by
  rw [leaveRequest_steam]
  have other : decide (req = .soak) = false := by obtain rfl | rfl := rest <;> rfl
  rw [other, Bool.and_false]
  split
  · exact ⟨.inr (stillState_rest s), fun h => absurd h Bool.false_ne_true, .inr rfl⟩
  · refine ⟨?_, fun h => absurd h Bool.false_ne_true, .inl rfl⟩
    dsimp only
    split
    · exact .inr (.inl rfl)
    · exact .inl rfl

/-- NONE and DRAIN are served by calming. -/
theorem serve_calmer {s : State} (rest : s.steam.request = .none ∨ s.steam.request = .drain) : s.steam.Calmer s.serve.steam := by
  obtain none | drain := rest
  · rw [serve_noRequest s none]
    exact .of_fields rfl rfl rfl
  · unfold State.serve
    rw [drain]
    split
    · exact .of_fields rfl rfl rfl
    · exact beginDrain_calmer true s

/-- A drain given up leaves soak heating and the stroke too. -/
theorem dropDrain_calmer (w : Steam) : w.Calmer w.dropDrain := by
  unfold Steam.dropDrain
  split <;> exact .of_fields rfl rfl rfl

/-- An owed drain cleared leaves the boiler. -/
theorem clearOwed_calmer (req : BoilerRequest) (w : Steam) : w.Calmer (w.clearOwed req) := by
  rw [clearOwed_eq]
  split <;> exact .of_fields rfl rfl rfl

/-- A request is taken: the drain of the one before is given up, and the program has used the boiler (R84, R91, R94). -/
def State.requestTaken (req : BoilerRequest) (s : State) : State :=
  s.mapSteam (fun w =>
    { w.dropDrain with request := req, used := w.used || (decide (req ≠ .none) && s.hasActive), rinsePass :=
        if req = .rinse then 0 else w.rinsePass })

/-- The request before is left, an owed drain cleared, and the drain DRAINING taken for a DRAIN (R85, R94, R159). -/
def State.requestPlaced (req : BoilerRequest) (s : State) : State :=
  (((s.requestTaken req).leaveRequest req).mapSteam (Steam.clearOwed req)).mapSteam
    (fun w => { w with drainServes := decide (w.boiler = .draining) && decide (req = .drain) })

/-- Another request than the one in force is placed and then served. -/
theorem handRequest_other {req : BoilerRequest} {s : State} (other : req ≠ s.steam.request) :
    s.handRequest req = (s.requestPlaced req).serve := if_neg other

/-- The request in force is no event. -/
theorem handRequest_same {req : BoilerRequest} {s : State} (same : req = s.steam.request) : s.handRequest req = s := if_pos same

/-- The placed request. -/
theorem requestPlaced_request (req : BoilerRequest) (s : State) : (s.requestPlaced req).steam.request = req := by
  have cleared : ((((s.requestTaken req).leaveRequest req).steam).clearOwed req).request
      = ((s.requestTaken req).leaveRequest req).steam.request := clearOwed_request req _
  have left : ((s.requestTaken req).leaveRequest req).steam.request = req := by
    rw [leaveRequest_steam]
    split <;> rfl
  exact cleared.trans left

/-- Placing NONE or DRAIN calms. -/
theorem requestPlaced_calmer {req : BoilerRequest} (rest : req = .none ∨ req = .drain) (s : State) :
    s.steam.Calmer (s.requestPlaced req).steam := by
  have dropped : s.steam.Calmer (s.requestTaken req).steam := (dropDrain_calmer s.steam).trans (.of_fields rfl rfl rfl)
  have cleared : ((s.requestTaken req).leaveRequest req).steam.Calmer (s.requestPlaced req).steam :=
    (clearOwed_calmer req _).trans (.of_fields rfl rfl rfl)
  exact (dropped.trans (leaveRequest_calmer rest _)).trans cleared

/-- NONE and DRAIN handed calm. -/
theorem handRequest_calmer {req : BoilerRequest} (rest : req = .none ∨ req = .drain) (s : State) :
    s.steam.Calmer (s.handRequest req).steam := by
  by_cases same : req = s.steam.request
  · rw [handRequest_same same]
    exact .of_fields rfl rfl rfl
  · rw [handRequest_other same]
    exact (requestPlaced_calmer rest s).trans (serve_calmer (by rwa [requestPlaced_request]))

/-- An owed drain that starts calms. -/
theorem oweDrain_calmer (why : OwedDrain) (s : State) : s.steam.Calmer (s.oweDrain why).steam := by
  have started := beginDrain_calmer false (s.mapSteam (fun w => { w with owed := some why }))
  exact started.of_start rfl rfl rfl

/-- Once NONE has been handed, the end of a program calms. -/
theorem releaseBoiler_afterNone (s : State) : (s.handRequest .none).steam.Calmer s.releaseBoiler.steam := by
  unfold State.releaseBoiler
  dsimp only
  generalize s.handRequest .none = t
  split
  · split
    · exact .of_fields rfl rfl rfl
    · have owed := oweDrain_calmer .endOfProgram (t.mapSteam (fun w => { w with used := false }))
      exact owed.of_start rfl rfl rfl
  · exact .of_fields rfl rfl rfl

/-- The end of a program releases the boiler by calming it. -/
theorem releaseBoiler_calmer (s : State) : s.steam.Calmer s.releaseBoiler.steam :=
  (handRequest_calmer (.inl rfl) s).trans (releaseBoiler_afterNone s)

/-! ## The boiler released (R87, R94) -/

/-- NONE is handed with the program's end, and the boiler is no longer used. -/
theorem releaseBoiler_request (s : State) : s.releaseBoiler.steam.request = .none ∧ s.releaseBoiler.steam.used = false := by
  have drain (b : Bool) (x : State) : (x.beginDrain b).steam.request = x.steam.request ∧ (x.beginDrain b).steam.used = x.steam.used := by
    refine ⟨?_, (beginDrain_fields b x).2.2.2.1⟩
    unfold State.beginDrain
    dsimp only
    split
    · exact (setBoiler_request _ _).trans (endSoak_request x)
    · exact endSoak_request x
  have none_ : (s.handRequest .none).steam.request = .none := handRequest_request .none s
  unfold State.releaseBoiler
  dsimp only
  split
  · split
    · exact ⟨none_, rfl⟩
    · obtain ⟨request, used⟩ := drain false
        (((s.handRequest .none).mapSteam (fun w => { w with used := false })).mapSteam (fun w => { w with owed := some .endOfProgram }))
      exact ⟨request.trans none_, used⟩
  · exact ⟨none_, rfl⟩

/-- A used boiler owes a drain at the program's end, unless it is EMPTY or owes one already. -/
theorem releaseBoiler_owed (s : State) :
    (s.steam.used = true → s.releaseBoiler.steam.boiler ≠ .empty → s.releaseBoiler.steam.owed = some (s.steam.owed.getD .endOfProgram))
      ∧ (s.steam.used = false → s.releaseBoiler.steam.owed = s.steam.owed) := by
  obtain ⟨-, -, owed, used⟩ := handNone_keeps s
  have begun (x : State) : (x.beginDrain false).steam.owed = x.steam.owed ∧ (x.steam.boiler = .empty → (x.beginDrain false).steam.boiler = .empty) := by
    obtain ⟨-, -, owes, -, -, boiler⟩ := beginDrain_fields false x
    refine ⟨owes, fun empty => ?_⟩
    rw [boiler, empty]
    rfl
  unfold State.releaseBoiler
  dsimp only
  split
  · rename_i owes
    simp only [Bool.and_eq_true, decide_eq_true_eq, Option.isNone_iff_eq_none] at owes
    obtain ⟨⟨isUsed, filled⟩, free⟩ := owes
    rw [used] at isUsed
    rw [owed] at free
    have owing : ∀ x : State, x.steam.owed = some .endOfProgram →
        (s.steam.used = true → x.steam.boiler ≠ .empty → x.steam.owed = some (s.steam.owed.getD .endOfProgram))
          ∧ (s.steam.used = false → x.steam.owed = s.steam.owed) := by
      intro x owing
      rw [free, owing]
      exact ⟨fun _ _ => rfl, fun h => absurd (isUsed.symm.trans h) (by decide)⟩
    split
    · exact owing _ rfl
    · exact owing _ (begun _).1
  · rename_i owes
    simp only [Bool.and_eq_true, decide_eq_true_eq, Option.isNone_iff_eq_none, used, owed] at owes
    refine ⟨fun isUsed filled => ?_, fun _ => owed⟩
    show (s.handRequest .none).steam.owed = _
    rw [owed]
    cases owes_ : s.steam.owed with
    | none => exact absurd ⟨⟨isUsed, filled⟩, owes_⟩ owes
    | some _ => rfl

/-- Releasing the boiler leaves the account and its writes. -/
theorem releaseBoiler_account (s : State) : s.releaseBoiler.scale = s.scale ∧ s.releaseBoiler.retained = s.retained := by
  obtain ⟨scale, retained, -⟩ := handNone_keeps s
  have owe (x : State) : (x.oweDrain .endOfProgram).scale = x.scale ∧ (x.oweDrain .endOfProgram).retained = x.retained := by
    obtain ⟨kept, same, -⟩ := beginDrain_fields false (x.mapSteam (fun w => { w with owed := some .endOfProgram }))
    exact ⟨kept, same⟩
  unfold State.releaseBoiler
  dsimp only
  generalize s.handRequest .none = t at scale retained
  split
  · split
    · exact ⟨scale, retained⟩
    · obtain ⟨kept, same⟩ := owe (t.mapSteam (fun w => { w with used := false }))
      exact ⟨kept.trans scale, same.trans retained⟩
  · exact ⟨scale, retained⟩

/-! ## The end of a program (R142) -/

/-- The program's end as far as its slot, its climate record and its boiler. -/
def State.programClosed (at_ : Position) (p : Program) (o : ProgramOutcome) (s : State) : State :=
  ((s.mapStore (Store.finish at_.slot p o)).recordNone).releaseBoiler

/-- The rest of the end but for the ceiling. -/
def State.programCleared (s : State) : State :=
  ((((s.mapSeq Sequencer.idle).mapSteam (fun w => { w with handed := none })).mapScale
    (fun a => { a with drainOnStop := false })).requestWrite).withdrawAll

/-- The end of the active program. -/
theorem endProgram_eq {s : State} {at_ : Position} {p : Program} (run : s.activeRun = some (at_, p)) (o : ProgramOutcome) :
    s.endProgram o = (s.programClosed at_ p o).programCleared.updateCeiling := by
  unfold State.endProgram
  rw [run]
  rfl

/-- Without one there is no end. -/
theorem endProgram_none {s : State} (idle : s.activeRun = none) (o : ProgramOutcome) : s.endProgram o = s := by
  unfold State.endProgram
  rw [idle]

/-- A slot side of an end leaves all but the slots. -/
theorem finish_only (ix : SlotIx) (p : Program) (o : ProgramOutcome) (s : State) :
    Only [.slots] s (s.mapStore (Store.finish ix p o)) := by
  intro a h
  cases a
  case slots => exact absurd (by decide) h
  case staging => cases ix <;> rfl
  all_goals rfl

/-- What the first part may change. -/
theorem programClosed_only (at_ : Position) (p : Program) (o : ProgramOutcome) (s : State) :
    Only ([.slots, .record, .ventTimer, .flap] ++ waterAspects) s (s.programClosed at_ p o) :=
  ((finish_only at_.slot p o s).mono (by decide)).trans
    ((((recordNone_does _).seq (releaseBoiler_does _)).only).mono (by decide))

/-- The sequencer set idle leaves all else. -/
theorem idle_only (s : State) : Only [.program] s (s.mapSeq Sequencer.idle) := by
  intro a h
  cases a
  case program => exact absurd (by decide) h
  all_goals rfl

/-- What the second part may change. -/
theorem programCleared_only (s : State) : Only [.program, .boiler, .scaleFlags, .writes, .withdrawn] s s.programCleared :=
  ((idle_only s).mono (by decide)).trans
    (((((clearHanded_does _).seq (clearDrainOnStop_does _)).seq (requestWrite_does _)).seq (withdraw_does _ _)).only.mono (by decide))

/-- What the end of a program may change: neither the cooling fan nor what a sample has read. -/
theorem endProgram_only (o : ProgramOutcome) (s : State) :
    Only ([.slots, .record, .ventTimer, .flap, .program, .ceiling, .sharing, .queue] ++ waterAspects) s (s.endProgram o) := by
  cases run : s.activeRun with
  | none =>
    rw [endProgram_none run]
    exact (Does.refl (as := []) (bs := []) s).only.mono (by decide)
  | some ap =>
    obtain ⟨at_, p⟩ := ap
    rw [endProgram_eq run]
    exact (((programClosed_only at_ p o s).mono (by decide)).trans ((programCleared_only _).mono (by decide))).trans
      ((updateCeiling_only _).mono (by decide))

/-- The store after the end. -/
theorem endProgram_store {s : State} {at_ : Position} {p : Program} (run : s.activeRun = some (at_, p)) (o : ProgramOutcome) :
    (s.endProgram o).store = s.store.finish at_.slot p o := by
  have first : (s.programClosed at_ p o).store = (s.mapStore (Store.finish at_.slot p o)).store :=
    ((recordNone_does _).seq (releaseBoiler_does _)).only.store
  rw [endProgram_eq run, updateCeiling_store]
  exact (programCleared_only _).store.trans first

/-- The sequencer after the end. -/
theorem endProgram_seq {s : State} {at_ : Position} {p : Program} (run : s.activeRun = some (at_, p)) (o : ProgramOutcome) :
    (s.endProgram o).seq = s.seq.idle := by
  have first : (s.programClosed at_ p o).seq = s.seq := (programClosed_only at_ p o s).seq
  rw [endProgram_eq run, updateCeiling_seq]
  show (s.programClosed at_ p o).seq.idle = _
  rw [first]

/-- Ending a program calms the boiler. -/
theorem endProgram_calmer (o : ProgramOutcome) (s : State) : s.steam.Calmer (s.endProgram o).steam := by
  cases run : s.activeRun with
  | none =>
    rw [endProgram_none run]
    exact .of_fields rfl rfl rfl
  | some ap =>
    obtain ⟨at_, p⟩ := ap
    rw [endProgram_eq run, updateCeiling_steam]
    have record : ((s.mapStore (Store.finish at_.slot p o)).recordNone).steam = s.steam := (recordNone_does _).only.steam
    have released := releaseBoiler_calmer ((s.mapStore (Store.finish at_.slot p o)).recordNone)
    rw [record] at released
    exact released.trans (.of_fields rfl rfl rfl)

/-- The climate record after the end (R54, R70, R74). -/
theorem recordNone_climate (s : State) :
    s.recordNone.climate.mode = none ∧ s.recordNone.climate.setpoint = none ∧ s.recordNone.climate.humidityTarget = none
      ∧ s.recordNone.climate.venting = false ∧ s.recordNone.climate.ventTimer = none ∧ s.recordNone.climate.flapCommand = .opened := by
  have drive (x : State) : x.driveFlap.climate.mode = x.climate.mode ∧ x.driveFlap.climate.setpoint = x.climate.setpoint
      ∧ x.driveFlap.climate.humidityTarget = x.climate.humidityTarget ∧ x.driveFlap.climate.venting = x.climate.venting
      ∧ x.driveFlap.climate.ventTimer = x.climate.ventTimer ∧ x.driveFlap.climate.flapCommand = x.climate.flapCommand := by
    unfold State.driveFlap
    split <;> exact ⟨rfl, rfl, rfl, rfl, rfl, rfl⟩
  unfold State.recordNone State.flapAtRecord
  split
  · exact ⟨rfl, rfl, rfl, rfl, rfl, rfl⟩
  · exact drive _

/-- The account's contents by its fields. -/
theorem requestWrite_retained (s : State) :
    s.requestWrite.retained = s.retained.request ⟨s.scale.hardness, s.scale.load, s.scale.rinseOwed, s.scale.soakCount⟩ := rfl

/-- The account before the rest of the end. -/
theorem programClosed_account (at_ : Position) (p : Program) (o : ProgramOutcome) (s : State) :
    (s.programClosed at_ p o).scale = s.scale ∧ (s.programClosed at_ p o).retained = s.retained := by
  have record := recordNone_does (s.mapStore (Store.finish at_.slot p o))
  obtain ⟨scale, retained⟩ := releaseBoiler_account (s.mapStore (Store.finish at_.slot p o)).recordNone
  exact ⟨scale.trans record.only.scale, retained.trans record.only.retained⟩

/-- The account after the end: drain-on-stop clear, and a write of it requested. -/
theorem programCleared_account (s : State) :
    s.programCleared.scale = { s.scale with drainOnStop := false }
      ∧ s.programCleared.retained
        = s.retained.request ⟨s.scale.hardness, s.scale.load, s.scale.rinseOwed, s.scale.soakCount⟩ := ⟨rfl, rfl⟩

/-- The loads after the end: all withdrawn in a frame, the ceiling 0. -/
theorem programCleared_load (s : State) :
    (s.load.running = true → ∀ i, s.programCleared.load.withdrawn.get i = true) ∧ s.programCleared.ceilingNow = 0 := by
  constructor
  · intro running i
    have runs : (((((s.mapSeq Sequencer.idle).mapSteam (fun w => { w with handed := none })).mapScale
        (fun a => { a with drainOnStop := false })).requestWrite)).load.running = true := running
    exact withdraw_withdrawn _ _ runs i rfl
  · have noRun : s.programCleared.seq.run = none := rfl
    have noStep : s.programCleared.activeStep = none := by rw [State.activeStep, State.activeRun, noRun]
    exact ceilingNow_of_noStep noStep

/-- Settles O47: the end of a program by its parts. -/
theorem programEnds : Obligations.ProgramEnds := by
  intro o s
  refine ⟨fun idle => endProgram_none idle o, fun at_ p run => ?_⟩
  intro t
  have form : t = (s.programClosed at_ p o).programCleared.updateCeiling := endProgram_eq run o
  let x := (s.mapStore (Store.finish at_.slot p o)).recordNone
  have closed : s.programClosed at_ p o = x.releaseBoiler := rfl
  have record : x.steam = s.steam := (recordNone_does _).only.steam
  have steam : t.steam = { x.releaseBoiler.steam with handed := none } := by
    rw [form, updateCeiling_steam]
    rfl
  obtain ⟨request, used⟩ := releaseBoiler_request x
  obtain ⟨owes, stands⟩ := releaseBoiler_owed x
  rw [record] at owes stands
  have seq : t.seq = s.seq.idle := endProgram_seq run o
  have first := programClosed_only at_ p o s
  refine ⟨?store, seq, ?climate, ?request, fun requested => ?boiler, fun isUsed filled => ?owed, fun unused => ?unowed, ?scale,
    ?retained, fun running i => ?withdrawn, ?ceiling, (endProgram_does o s).only⟩
  case store =>
    rw [show t.store = _ from endProgram_store run o]
    cases at_.slot <;> rfl
  case climate =>
    have same : t.climate = x.climate := by
      rw [form, updateCeiling_climate]
      exact (programCleared_only _).climate.trans (releaseBoiler_does x).only.climate
    rw [same]
    exact recordNone_climate _
  case request =>
    rw [steam]
    exact ⟨request, used, rfl⟩
  case boiler =>
    have none_ : x.steam.request ≠ .none := by rwa [record]
    obtain ⟨filling, working, soak, -⟩ := handNone_changes x none_
    have later := releaseBoiler_afterNone x
    obtain ⟨heating, ready, steaming⟩ := not_working (later.notWorking working)
    rw [steam]
    exact ⟨later.notFilling filling, heating, ready, steaming, later.notSoaking soak⟩
  case owed =>
    rw [steam] at filled ⊢
    exact owes isUsed filled
  case unowed =>
    rw [steam]
    exact stands unused
  case scale =>
    rw [form, updateCeiling_scale, (programCleared_account _).1, (programClosed_account at_ p o s).1]
  case retained =>
    obtain ⟨scale, retained⟩ := programClosed_account at_ p o s
    rw [form, updateCeiling_retained, (programCleared_account _).2, retained, scale]
  case withdrawn =>
    have frame := first .frame (by decide)
    have runs : (s.programClosed at_ p o).load.running = true := (Prod.mk.inj frame).1.trans running
    rw [form, updateCeiling_load]
    exact (programCleared_load _).1 runs i
  case ceiling =>
    rw [form, updateCeiling_load]
    exact (programCleared_load (s.programClosed at_ p o)).2

end Sys2Proof.Machine
end

section
/-! PROOFS. What a fault that becomes active does (R35, R49, R96, R160, R171), and the loss and return of mains (R168, R198). -/

namespace Sys2Proof.Machine

/-! ## The effect of a kind on a program (R160, R171) -/

/-- The kinds that abort a RECIPE program. -/
theorem onRecipe_abort_iff (k : FaultKind) :
    k.onRecipe = .abort ↔ (k = .cavityOverheat ∨ k = .drainTimeout ∨ k = .mains) ∨ k = .cavitySensor := by
  cases k <;> decide

/-- The kinds that abort it in a humid step. -/
theorem onRecipe_humid_iff (k : FaultKind) : k.onRecipe = .abortIfHumid ↔ k = .boilerSensor ∨ k = .boilerDry := by
  cases k <;> decide

/-- The kinds that abort a SERVICE program. -/
theorem onService_abort_iff (k : FaultKind) : k.onService = .abort ↔ k = .cavityOverheat ∨ k = .drainTimeout ∨ k = .mains := by
  cases k <;> decide

/-- The kinds that force its drain. -/
theorem onService_boiler_iff (k : FaultKind) : k.onService = .boilerFault ↔ k = .boilerSensor ∨ k = .boilerDry := by
  cases k <;> decide

/-- A RECIPE program sees no other effect than these. -/
theorem onRecipe_cases (k : FaultKind) : k.onRecipe = .abort ∨ k.onRecipe = .abortIfHumid ∨ k.onRecipe = .nothing := by
  cases k <;> decide

/-- A SERVICE program sees no other effect than these. -/
theorem onService_cases (k : FaultKind) : k.onService = .abort ∨ k.onService = .boilerFault ∨ k.onService = .nothing := by
  cases k <;> decide

/-- The program of a run is the active program. -/
theorem activeProgram_of_run {s : State} {at_ : Position} {p : Program} (run : s.activeRun = some (at_, p)) :
    s.activeProgram = some p := by
  rw [State.activeProgram, run]
  rfl

/-- A RECIPE program at a fault. -/
theorem programFault_recipe {s : State} {at_ : Position} {p : Program} (run : s.activeRun = some (at_, p)) (recipe : p.kind = .recipe)
    (k : FaultKind) :
    s.programFault k
      = if ((k = .cavityOverheat ∨ k = .drainTimeout ∨ k = .mains) ∨ k = .cavitySensor)
          ∨ ((k = .boilerSensor ∨ k = .boilerDry) ∧ s.stepHumid = true) then s.endAborted .fault else s := by
  simp only [← onRecipe_abort_iff, ← onRecipe_humid_iff]
  unfold State.programFault
  rw [activeProgram_of_run run]
  dsimp only
  rw [show k.onProgram p.kind = k.onRecipe by rw [recipe]; rfl]
  obtain abort | humid | nothing := onRecipe_cases k
  · simp only [abort, true_or, if_true]
  · simp only [humid, reduceCtorEq, true_and, false_or]
  · simp only [nothing, reduceCtorEq, false_and, or_self, if_false]

/-- A SERVICE program at a fault. -/
theorem programFault_service {s : State} {at_ : Position} {p : Program} (run : s.activeRun = some (at_, p))
    (service : p.kind = .service) (k : FaultKind) :
    s.programFault k
      = if (k = .cavityOverheat ∨ k = .drainTimeout ∨ k = .mains)
          ∨ ((k = .boilerSensor ∨ k = .boilerDry) ∧ s.seq.stopFlag = false ∧ s.scale.drainOnStop = false) then s.endAborted .fault
        else if (k = .boilerSensor ∨ k = .boilerDry) ∧ s.seq.stopFlag = false ∧ s.scale.drainOnStop = true then
          s.forcedDrain .fault
        else s := by
  simp only [← onService_abort_iff, ← onService_boiler_iff]
  unfold State.programFault
  rw [activeProgram_of_run run]
  dsimp only
  rw [show k.onProgram p.kind = k.onService by rw [service]; rfl]
  obtain abort | boiler | nothing := onService_cases k
  · simp only [abort, true_or, if_true]
  · simp only [boiler, State.serviceBoilerFault, reduceCtorEq, true_and, false_or]
    cases s.seq.stopFlag <;> cases s.scale.drainOnStop <;> rfl
  · simp only [nothing, reduceCtorEq, false_and, or_self, if_false]

/-! ## A forced drain (R159) -/

/-- The sequencer at a forced drain. -/
theorem forcedDrain_seq (c : AbortCause) (s : State) :
    (s.forcedDrain c).seq
      = { s.seq with
          run := s.seq.run.map (fun at_ => { at_ with phase := .count }), prompt := none, promptTimer := none, stopFlag := true
          forcedCause := some c, pauseFlag := false, interruption := none } := by
  rw [State.forcedDrain, handRequest_seq]
  rfl

/-- A forced drain hands DRAIN to the steam generator as it stands. -/
theorem forcedDrain_calmer (c : AbortCause) (s : State) : s.steam.Calmer (s.forcedDrain c).steam := by
  have handed := handRequest_calmer (.inr rfl)
    ((s.mapSeq (fun q =>
      { q.dropPrompt with stopFlag := true, forcedCause := some c, pauseFlag := false, interruption := none })).setPhase .count)
  exact handed

/-- What a forced drain may change. -/
theorem forcedDrain_only (c : AbortCause) (s : State) : Only ([.program] ++ waterAspects) s (s.forcedDrain c) := by
  have moved : Only [.program] s ((s.mapSeq (fun q =>
      { q.dropPrompt with stopFlag := true, forcedCause := some c, pauseFlag := false, interruption := none })).setPhase .count) := by
    intro a h
    cases a
    case program => exact absurd (by decide) h
    all_goals rfl
  exact (moved.mono (by decide)).trans ((handRequest_does _ _).only.mono (by decide))

/-- The program of a forced drain runs on in the COUNT of its step. -/
theorem forcedDrain_activeRun {s : State} {at_ : Position} {p : Program} (run : s.activeRun = some (at_, p)) (c : AbortCause) :
    (s.forcedDrain c).activeRun = some ({ at_ with phase := .count }, p) := by
  obtain ⟨position, active⟩ := activeRun_slot run
  refine activeRun_of ?_ ?_
  · rw [forcedDrain_seq, position]
    rfl
  · have store : (s.forcedDrain c).store = s.store := (forcedDrain_only c s).store
    rw [store]
    exact active

/-- A fault of the boiler calms it, whatever it does to the program. -/
theorem programFault_calmer (k : FaultKind) (s : State) : s.steam.Calmer (s.programFault k).steam := by
  cases run : s.activeRun with
  | none =>
    have none_ : s.activeProgram = none := by rw [State.activeProgram, run]; rfl
    unfold State.programFault
    rw [none_]
    exact .of_fields rfl rfl rfl
  | some ap =>
    obtain ⟨at_, p⟩ := ap
    cases kind : p.kind with
    | recipe =>
      rw [programFault_recipe run kind]
      split
      · exact endProgram_calmer _ s
      · exact .of_fields rfl rfl rfl
    | service =>
      rw [programFault_service run kind]
      split
      · exact endProgram_calmer _ s
      · split
        · exact forcedDrain_calmer _ s
        · exact .of_fields rfl rfl rfl

/-- A fault's effect on the program leaves the frame, the gates, the fan and the door. -/
theorem programFault_only (k : FaultKind) (s : State) :
    Only ([.slots, .record, .ventTimer, .flap, .program, .ceiling, .sharing, .queue] ++ waterAspects) s (s.programFault k) := by
  have still : Only ([.slots, .record, .ventTimer, .flap, .program, .ceiling, .sharing, .queue] ++ waterAspects) s s :=
    (Does.refl (as := []) (bs := []) s).only.mono (by decide)
  cases run : s.activeRun with
  | none =>
    have none_ : s.activeProgram = none := by rw [State.activeProgram, run]; rfl
    unfold State.programFault
    rw [none_]
    exact still
  | some ap =>
    obtain ⟨at_, p⟩ := ap
    cases kind : p.kind with
    | recipe =>
      rw [programFault_recipe run kind]
      split
      · exact endProgram_only _ s
      · exact still
    | service =>
      rw [programFault_service run kind]
      split
      · exact endProgram_only _ s
      · split
        · exact (forcedDrain_only _ s).mono (by decide)
        · exact still

/-! ## The boiler barred (R96) -/

/-- A boiler barred from heating does not work, and does not soak. -/
theorem barHeating_calm (s : State) : s.barHeating.steam.boiler.working = false ∧ s.barHeating.steam.soakHeating = false := by
  unfold State.barHeating
  dsimp only
  have soak : s.endSoak.steam.soakHeating = false := by rw [endSoak_steam]
  split
  · rw [setBoiler_steam]
    exact ⟨rfl, soak⟩
  · rename_i idle
    exact ⟨by simpa using idle, soak⟩

/-- A boiler barred from filling does not fill either. -/
theorem barFilling_calm (s : State) :
    s.barFilling.steam.boiler.working = false ∧ s.barFilling.steam.soakHeating = false ∧ s.barFilling.steam.boiler ≠ .filling := by
  obtain ⟨working, soak⟩ := barHeating_calm s
  have stopped := stopFill_calmer s.barHeating
  refine ⟨stopped.notWorking working, stopped.notSoaking soak, ?_⟩
  show s.barHeating.stopFill.steam.boiler ≠ .filling
  rw [stopFill_steam]
  split
  · obtain off | empty := stillState_rest s.barHeating
    · exact fun h => absurd (off.symm.trans h) (by decide)
    · exact fun h => absurd (empty.symm.trans h) (by decide)
  · assumption

/-! ## A record that becomes active -/

/-- The state in which the record has become active and its loads and its boiler are cut. -/
def State.faultCut (k : FaultKind) (s : State) : State := ((s.setFault k FaultRecord.arise).withdraw k.cuts).barBoiler k

/-- A record that becomes active: what it cuts, then the program, the ceiling and what MAINS applies at once. -/
theorem raise_inactive {k : FaultKind} {s : State} (inactive : (s.faults.get k).active = false) :
    s.raise k = ((s.faultCut k).programFault k).updateCeiling.mainsApply := by
  have quiet : s.faultActive k = false := inactive
  rw [State.raise, quiet, if_neg Bool.false_ne_true]
  rfl

/-- What the outage of mains may change before the program (R35, R52, R77, R96). -/
theorem outputsDown_only (s : State) :
    Only [.gates, .frame, .withdrawn, .evaporation, .millilitres, .scaleLoad, .writes, .ceiling, .sharing, .queue, .coolingFan,
      .doorPending, .boiler] s s.outputsDown := by
  have fan (t : State) : Only [.coolingFan, .doorPending] t
      (t.mapClimate (fun c => { c with coolingFan := false, doorPending := false })) := by
    intro a h
    cases a
    case coolingFan | doorPending => exact absurd (by decide) h
    all_goals rfl
  exact ((((gatesOff_does s).seq (endFrame_does _)).only.mono (by decide)).trans ((fan _).mono (by decide))).trans
    ((cutStroke_does _).only.mono (by decide))

/-- What the cut may change where mains is present. -/
theorem faultCut_only {k : FaultKind} (power : k ≠ .mains) (s : State) : Only [.fault k, .withdrawn, .boiler] s (s.faultCut k) :=
  ((setFault_does k (arise_move k) s).only.mono (by simp)).trans
    (((withdraw_does _ _).seq (barBoiler_does power _)).only.mono (by simp))

/-- What the cut of mains may change. -/
theorem mainsCut_only (s : State) :
    Only [.fault .mains, .gates, .frame, .withdrawn, .evaporation, .millilitres, .scaleLoad, .writes, .ceiling, .sharing, .queue,
      .coolingFan, .doorPending, .boiler] s (s.faultCut .mains) :=
  (((setFault_does .mains (arise_move .mains) s).only.mono (by decide)).trans ((withdraw_does _ _).only.mono (by decide))).trans
    ((outputsDown_only _).mono (by decide))

/-- The cut leaves the program, its step and what decides a forced drain. -/
theorem faultCut_program (k : FaultKind) (s : State) :
    (s.faultCut k).activeRun = s.activeRun ∧ (s.faultCut k).seq = s.seq ∧ (s.faultCut k).store = s.store
      ∧ (s.faultCut k).scale.drainOnStop = s.scale.drainOnStop := by
  have fields {as : List Aspect} (only : Only as s (s.faultCut k)) (program : .program ∉ as) (clock : .clock ∉ as)
      (slots : .slots ∉ as) (staging : .staging ∉ as) (flags : .scaleFlags ∉ as) :
      (s.faultCut k).activeRun = s.activeRun ∧ (s.faultCut k).seq = s.seq ∧ (s.faultCut k).store = s.store
        ∧ (s.faultCut k).scale.drainOnStop = s.scale.drainOnStop := by
    have seq : (s.faultCut k).seq = s.seq := only.seq (by simp [program, clock])
    have store : (s.faultCut k).store = s.store := only.store (by simp [slots, staging])
    refine ⟨by simp only [State.activeRun, seq, store], seq, store, ?_⟩
    have scale := only .scaleFlags flags
    exact (Prod.mk.inj scale).2
  by_cases mains : k = .mains
  · subst mains
    exact fields (mainsCut_only s) (by decide) (by decide) (by decide) (by decide) (by decide)
  · exact fields (faultCut_only mains s) (by simp) (by simp) (by simp) (by simp) (by simp)

/-- A step's humidity goes by the run. -/
theorem stepHumid_of_activeRun {s t : State} (run : t.activeRun = s.activeRun) : t.stepHumid = s.stepHumid := by
  simp only [State.stepHumid, State.activeStep, run]

/-- Under MAINS a part in STEADY holds no more than its ceiling (R24). -/
theorem mainsApply_steady {s : State} (out : s.mainsOut = true) (steady : s.mainsApply.share.state = .steady) :
    s.mainsApply.share.hold ≤ s.mainsApply.load.ceiling := by
  have ceiling : s.mainsApply.load.ceiling = s.load.ceiling := (mainsApply_does s).only .ceiling (by decide)
  rw [ceiling]
  have reduced (x : State) (state : x.share.state = .steady) : x.mainsHold ≤ x.load.ceiling := by
    rw [State.mainsHold, state]
    show x.reducedHold ≤ _
    rw [State.reducedHold, if_pos state]
    exact Nat.min_le_right _ _
  have load : s.isolateIfDue.load = s.load := by
    unfold State.isolateIfDue
    split <;> rfl
  by_cases acts : s.isolationDue = true ∨ s.isolateIfDue.mainsHold < s.isolateIfDue.share.hold
  · rw [mainsApply_acts out acts] at steady ⊢
    show s.isolateIfDue.mainsHold ≤ _
    rw [← load]
    exact reduced _ steady
  · obtain ⟨due, level⟩ := not_or.mp acts
    have due : s.isolationDue = false := by simpa using due
    have still : s.isolateIfDue = s := by rw [State.isolateIfDue, due]; rfl
    rw [still] at level
    rw [mainsApply_rests due level] at steady ⊢
    exact Nat.le_trans (Nat.not_lt.mp level) (reduced s steady)

/-- What is left of a frame in mains loss: no gate is on, no frame runs, the fan and the examinations stop, no stroke runs. -/
theorem mainsCut_fields (s : State) :
    (s.faultCut .mains).load.gates = .all false ∧ (s.faultCut .mains).load.running = false
      ∧ (s.faultCut .mains).climate.coolingFan = false ∧ (s.faultCut .mains).climate.doorPending = false
      ∧ ∀ c, (s.faultCut .mains).steam.stroke ≠ .running c := by
  let x := (s.setFault .mains FaultRecord.arise).withdraw (FaultKind.cuts .mains)
  have gates : x.gatesOff.endFrame.load.gates = .all false := (endFrame_does x.gatesOff).only .gates (by decide)
  have cut (w : Steam) (c : Nat) : w.cutStroke.stroke ≠ .running c := by
    unfold Steam.cutStroke
    cases stroke : w.stroke with
    | running n =>
      dsimp only
      split <;> exact Stroke.noConfusion
    | awaiting => rw [stroke]; exact Stroke.noConfusion
    | idle => rw [stroke]; exact Stroke.noConfusion
  exact ⟨gates, endFrame_stopped _, rfl, rfl, cut _⟩

/-- What follows the cut leaves the frame, the gates, the fan and the door. -/
theorem raise_afterCut {k : FaultKind} {s : State} (inactive : (s.faults.get k).active = false) :
    Only ([.slots, .record, .ventTimer, .flap, .program, .ceiling, .sharing, .queue] ++ waterAspects) (s.faultCut k) (s.raise k) := by
  rw [raise_inactive inactive]
  exact (programFault_only k _).trans (((updateCeiling_does _).seq (mainsApply_does _)).only.mono (by decide))

/-- The steam generator after a record that becomes active. -/
theorem raise_steam {k : FaultKind} {s : State} (inactive : (s.faults.get k).active = false) :
    (s.raise k).steam = ((s.faultCut k).programFault k).steam := by
  rw [raise_inactive inactive]
  exact (mainsApply_does _).only.steam.trans (updateCeiling_steam _)

/-- The program after a record that becomes active. -/
theorem raise_program {k : FaultKind} {s : State} (inactive : (s.faults.get k).active = false) :
    (s.raise k).store = ((s.faultCut k).programFault k).store ∧ (s.raise k).seq = ((s.faultCut k).programFault k).seq := by
  rw [raise_inactive inactive]
  exact ⟨(mainsApply_does _).only.store.trans (updateCeiling_store _), (mainsApply_does _).only.seq.trans (updateCeiling_seq _)⟩

/-- The outputs after the detection of MAINS (R35, R67, R77, R96). -/
theorem raiseMains_fields {s : State} (inactive : (s.faults.get .mains).active = false) :
    (s.raise .mains).load.gates = .all false ∧ (s.raise .mains).load.running = false
      ∧ (s.raise .mains).climate.coolingFan = false ∧ (s.raise .mains).climate.doorPending = false
      ∧ ∀ c, (s.raise .mains).steam.stroke ≠ .running c := by
  obtain ⟨gates, stopped, fan, door, stroke⟩ := mainsCut_fields s
  have later := raise_afterCut inactive
  have frame := later .frame (by decide)
  have sameGates : (s.raise .mains).load.gates = (s.faultCut .mains).load.gates := later .gates (by decide)
  have sameFan : (s.raise .mains).climate.coolingFan = (s.faultCut .mains).climate.coolingFan := later .coolingFan (by decide)
  have sameDoor : (s.raise .mains).climate.doorPending = (s.faultCut .mains).climate.doorPending := later .doorPending (by decide)
  refine ⟨sameGates.trans gates, (Prod.mk.inj frame).1.trans stopped, sameFan.trans fan, sameDoor.trans door, ?_⟩
  rw [raise_steam inactive]
  exact (programFault_calmer .mains _).notRunning stroke

/-- The boiler after a record that bars heating has become active (R96). -/
theorem raise_barsHeating {k : FaultKind} {s : State} (inactive : (s.faults.get k).active = false)
    (heat : k = .cavityOverheat ∨ k = .boilerSensor ∨ k = .boilerDry) :
    (s.raise k).steam.boiler.working = false ∧ (s.raise k).steam.soakHeating = false := by
  have calm : (s.faultCut k).steam.boiler.working = false ∧ (s.faultCut k).steam.soakHeating = false := by
    obtain rfl | rfl | rfl := heat
    · exact barHeating_calm _
    · exact ⟨(barFilling_calm _).1, (barFilling_calm _).2.1⟩
    · exact ⟨(barFilling_calm _).1, (barFilling_calm _).2.1⟩
  have later := programFault_calmer k (s.faultCut k)
  rw [raise_steam inactive]
  exact ⟨later.notWorking calm.1, later.notSoaking calm.2⟩

/-- The boiler after a record that bars filling has become active (R96). -/
theorem raise_barsFilling {k : FaultKind} {s : State} (inactive : (s.faults.get k).active = false)
    (water : k = .boilerSensor ∨ k = .boilerDry) : (s.raise k).steam.boiler ≠ .filling := by
  have calm : (s.faultCut k).steam.boiler ≠ .filling := by
    obtain rfl | rfl := water
    · exact (barFilling_calm _).2.2
    · exact (barFilling_calm _).2.2
  rw [raise_steam inactive]
  exact (programFault_calmer k _).notFilling calm

/-- A program that a fault ends: its slot, its sequencer and its outcome (R142, R171). -/
theorem endAborted_program {s : State} {at_ : Position} {p : Program} (run : s.activeRun = some (at_, p)) (c : AbortCause) :
    (s.endAborted c).store.slot at_.slot = .done p (.aborted c) ∧ (s.endAborted c).seq.run = none
      ∧ (s.endAborted c).store.lastOutcome = ⟨at_.slot.number, p.tag, p.kind, .ended (.aborted c)⟩ := by
  have store : (s.endAborted c).store = s.store.finish at_.slot p (.aborted c) := endProgram_store run _
  have seq : (s.endAborted c).seq = s.seq.idle := endProgram_seq run _
  rw [store, seq]
  refine ⟨?_, rfl, rfl⟩
  cases at_.slot <;> rfl

/-- Settles O35: the cut by the kind, then the program's end, its forced drain, or neither. -/
theorem faultEffects : Obligations.FaultEffects := by
  intro k s inactive t heat water always
  have only : Only (.fault k :: (outageAspects ++ runAspects)) s t := by
    by_cases mains : k = .mains
    · subst mains
      exact (raiseMains_does s).only
    · exact (raise_does mains s).only.mono (by simp)
  refine ⟨fun i running power cuts => ?withdrawn, fun hot => ?heat, fun wet => ?water, fun power => ?door, fun mains => ?mains,
    fun at_ p run => ?program, only⟩
  case withdrawn =>
    have cut : k.cuts i = true := by
      obtain rfl | ⟨rfl, notBoiler⟩ | ⟨rfl | rfl, rfl⟩ := cuts
      · rfl
      · exact decide_eq_true notBoiler
      · rfl
      · rfl
    have first := withdraw_withdrawn k.cuts (s.setFault k FaultRecord.arise) running i cut
    have rest := (((barBoiler_does power ((s.setFault k FaultRecord.arise).withdraw k.cuts)).seq (programFault_does k _)).seq (updateCeiling_does _)).seq (mainsApply_does _)
    rw [show t = ((s.faultCut k).programFault k).updateCeiling.mainsApply from raise_inactive inactive]
    exact rest.kept .withdrawals (by decide) i first
  case heat =>
    obtain ⟨working, soak⟩ := raise_barsHeating inactive hot
    exact ⟨not_working working, soak⟩
  case water => exact raise_barsFilling inactive wet
  case door => exact (raise_does power s).only .doorPending (by simp)
  case mains =>
    subst mains
    obtain ⟨gates, stopped, fan, door, stroke⟩ := raiseMains_fields inactive
    refine ⟨gates, stopped, fan, door, stroke, fun steady => ?_⟩
    have form : t = ((s.faultCut .mains).programFault .mains).updateCeiling.mainsApply := raise_inactive inactive
    have out : ((s.faultCut .mains).programFault .mains).updateCeiling.mainsOut = true := by
      have after : t.mainsOut = true := raiseMains_active s
      rw [form] at after
      have kept : ((s.faultCut .mains).programFault .mains).updateCeiling.mainsApply.faults
          = ((s.faultCut .mains).programFault .mains).updateCeiling.faults := (mainsApply_does _).only.faults
      rwa [State.mainsOut, State.faultActive, kept] at after
    rw [form] at steady ⊢
    exact mainsApply_steady out steady
  case program =>
    intro forced ends
    obtain ⟨activeRun, seq, store, drainOnStop⟩ := faultCut_program k s
    have cutRun : (s.faultCut k).activeRun = some (at_, p) := activeRun.trans run
    have humid : (s.faultCut k).stepHumid = s.stepHumid := stepHumid_of_activeRun activeRun
    obtain ⟨tStore, tSeq⟩ := raise_program inactive
    have effect : (s.faultCut k).programFault k
        = if ends then (s.faultCut k).endAborted .fault else if forced then (s.faultCut k).forcedDrain .fault else s.faultCut k := by
      obtain kind | kind : p.kind = .recipe ∨ p.kind = .service := by
        cases p.kind
        · exact .inl rfl
        · exact .inr rfl
      · rw [programFault_recipe cutRun kind, humid]
        have endsIff : ends ↔ ((k = .cavityOverheat ∨ k = .drainTimeout ∨ k = .mains) ∨ k = .cavitySensor)
            ∨ ((k = .boilerSensor ∨ k = .boilerDry) ∧ s.stepHumid = true) := by
          simp only [ends, kind, always, water, true_and, reduceCtorEq, false_and, or_false, or_assoc]
        have notForced : ¬forced := by simp only [forced, kind, reduceCtorEq, false_and, not_false_iff]
        simp only [endsIff, notForced, if_false]
      · rw [programFault_service cutRun kind, seq, drainOnStop]
        have endsIff : ends ↔ (k = .cavityOverheat ∨ k = .drainTimeout ∨ k = .mains)
            ∨ ((k = .boilerSensor ∨ k = .boilerDry) ∧ s.seq.stopFlag = false ∧ s.scale.drainOnStop = false) := by
          simp only [ends, kind, always, water, true_and, reduceCtorEq, false_and, false_or]
        have forcedIff : forced ↔ (k = .boilerSensor ∨ k = .boilerDry) ∧ s.seq.stopFlag = false ∧ s.scale.drainOnStop = true := by
          simp only [forced, kind, water, true_and]
        simp only [endsIff, forcedIff]
    refine ⟨fun yes => ?_, fun yes => ?_, fun no free => ?_⟩
    · rw [if_pos yes] at effect
      show (s.raise k).store.slot at_.slot = _ ∧ (s.raise k).seq.run = _ ∧ (s.raise k).store.lastOutcome = _
      rw [tStore, tSeq, effect]
      exact endAborted_program cutRun .fault
    · have notEnds : ¬ends := by
        obtain ⟨service, wet, going, drains⟩ := yes
        rintro (⟨recipe, -⟩ | ⟨-, stops | ⟨-, -, not⟩⟩)
        · rw [service] at recipe
          cases recipe
        · obtain rfl | rfl := wet <;> obtain h | h | h := stops <;> cases h
        · rw [drains] at not
          cases not
      rw [if_neg notEnds, if_pos yes] at effect
      have active : t.activeRun = some ({ at_ with phase := .count }, p) := by
        show (s.raise k).activeRun = _
        rw [show (s.raise k).activeRun = ((s.faultCut k).programFault k).activeRun by
          simp only [State.activeRun, tStore, tSeq], effect]
        exact forcedDrain_activeRun cutRun .fault
      have drained : t.seq = ((s.faultCut k).forcedDrain .fault).seq := by rw [← effect]; exact tSeq
      rw [forcedDrain_seq] at drained
      refine ⟨active, ?_⟩
      rw [drained]
      refine ⟨rfl, rfl, rfl, rfl, rfl, ?_⟩
      show (s.raise k).steam.request = _
      rw [raise_steam inactive, effect]
      exact handRequest_request .drain _
    · rw [if_neg no, if_neg free] at effect
      rw [effect] at tStore tSeq
      refine ⟨?_, tSeq.trans seq⟩
      show (s.raise k).activeRun = _
      rw [show (s.raise k).activeRun = (s.faultCut k).activeRun by simp only [State.activeRun, tStore, tSeq]]
      exact cutRun

/-! ## Mains loss and return (R35, R168, R198) -/

/-- A frame that mains loss ends keeps its numbers as the last frame's (R52). -/
theorem raiseMains_last {s : State} (inactive : (s.faults.get .mains).active = false) (running : s.load.running = true) :
    (s.raise .mains).load.last = ⟨s.load.taken, s.load.alloc, s.load.conducted, s.load.limited⟩ := by
  let x := ((s.setFault .mains FaultRecord.arise).withdraw (FaultKind.cuts .mains)).gatesOff
  have before : Only [.fault .mains, .withdrawn, .gates] s x :=
    (((setFault_does .mains (arise_move .mains) s).only.mono (by decide)).trans ((withdraw_does _ _).only.mono (by decide))).trans
      ((gatesOff_does _).only.mono (by decide))
  have frame := before .frame (by decide)
  simp only [Same, Prod.mk.injEq] at frame
  obtain ⟨runs, -, taken, alloc, -, conducted, -, limited, -⟩ := frame
  have closed : x.endFrame.load.last = ⟨x.load.taken, x.load.alloc, x.load.conducted, x.load.limited⟩ := by
    rw [endFrame_running (runs.trans running)]
    have rest := ((evaporate_does (Load.watts x.startup.variant .boiler * x.load.steamingCount)
      (x.mapLoad LoadFrame.close)).seq (updateCeiling_does _)).only .frame (by decide)
    simp only [Same, Prod.mk.injEq] at rest
    exact rest.2.2.2.2.2.2.2.2
  have later := raise_afterCut inactive .frame (by decide)
  simp only [Same, Prod.mk.injEq] at later
  obtain ⟨-, -, -, -, -, -, -, -, last⟩ := later
  have cut : (s.faultCut .mains).load.last = x.endFrame.load.last := rfl
  rw [last, cut, closed, taken, alloc, conducted, limited]

/-- The end of the MAINS condition: the frequency fixed, the record inactive, the flap driven to its command. -/
theorem mainsReturns_fields {s : State} (service : s.inService = true) (out : s.mainsOut = true)
    (unlatched : s.faults.mains.latched = false) (ms : Nat) :
    (s.mainsReturns ms).faults.mains = { s.faults.mains with active := false }
      ∧ (s.mainsReturns ms).startup = s.startup.fixFreq (freqOfSpan ms)
      ∧ (s.mainsReturns ms).climate.flapDriven = s.climate.flapCommand
      ∧ (s.mainsReturns ms).climate.flapCommand = s.climate.flapCommand
      ∧ (s.mainsReturns ms).load = s.load := by
  let x := s.mapStartup (Startup.fixFreq (freqOfSpan ms))
  have active : (x.faults.get .mains).active = true := out
  have record : (s.mainsReturns ms).faults.mains = { s.faults.mains with active := false } := by
    show (x.condGone .mains).faults.get .mains = _
    rw [condGone_get_same, goes_of_inForce active unlatched (by decide)]
    rfl
  let y := x.setFault .mains (FaultRecord.goes .mains)
  have gone : y.faultActive .mains = false := by
    show ((x.faults.set .mains ((x.faults.get .mains).goes .mains)).get .mains).active = false
    rw [get_set_self, goes_of_inForce active unlatched (by decide)]
    rfl
  have form : s.mainsReturns ms = y.driveFlap := by
    show x.release .mains (FaultRecord.goes .mains) = _
    have here : x.faultActive .mains = true := active
    unfold State.release
    dsimp only
    rw [here, gone]
    rfl
  have drives : y.flapDriveOn = true := by
    have serves : y.inService = true := service
    have fixed : y.startup.freq.isSome = true := rfl
    rw [State.flapDriveOn, serves, fixed, State.mainsOut, gone]
    rfl
  have driven : y.driveFlap = y.mapClimate (fun c => { c with flapDriven := c.flapCommand }) := if_pos drives
  rw [form, driven] at record ⊢
  exact ⟨record, rfl, rfl, rfl, rfl⟩

/-- The span of 50 good cycles. -/
theorem goodSpan_iff (ms : Nat) : goodSpan ms = true ↔ 769 ≤ ms ∧ ms ≤ 1111 := by
  simp only [goodSpan, Bool.and_eq_true, decide_eq_true_eq]

/-- Settles O36: the two events of mains as the fault set takes them. -/
theorem mainsLossAndReturn : Obligations.MainsLossAndReturn := by
  intro s service
  refine ⟨fun power => ?loss, fun out => ?lost, fun ms bad => ?stays, fun ms out low high unlatched => ?returns⟩
  case loss =>
    have yes : (s.inService && !s.mainsOut) = true := by rw [service, power]; rfl
    have inactive : (s.faults.get .mains).active = false := power
    obtain ⟨-, -, -, door, -⟩ := raiseMains_fields inactive
    refine ⟨congrArg s.report_ (if_pos yes), door, ?_, raiseMains_last inactive⟩
    show (s.raise .mains).faults.get .mains = _
    rw [raise_get_same, arise_of_inactive inactive]
    rfl
  case lost =>
    refine report_of_not ?_
    rw [out]
    simp
  case stays =>
    refine report_of_not fun yes => ?_
    simp only [Bool.and_eq_true, goodSpan_iff] at yes
    obtain ⟨⟨-, out⟩, low, high⟩ := yes
    obtain power | short | long := bad
    · rw [out] at power
      cases power
    · omega
    · omega
  case returns =>
    have yes : (s.inService && s.mainsOut && goodSpan ms) = true := by
      rw [service, out, (goodSpan_iff ms).mpr ⟨low, high⟩]
      rfl
    obtain ⟨record, startup, driven, command, load⟩ := mainsReturns_fields service out unlatched ms
    refine ⟨s.mainsReturns ms, congrArg s.report_ (if_pos yes), record, ?_, ⟨driven, command⟩, fun stopped => ?_,
      (mainsReturns_does ms s).only⟩
    · rw [startup]
      rfl
    · have serves : (s.mainsReturns ms).inService = true := by
        rw [State.inService, startup]
        exact service
      have power : (s.mainsReturns ms).mainsOut = false := by
        show (s.mainsReturns ms).faults.mains.active = false
        rw [record]
      have fixed : (s.mainsReturns ms).startup.freq.isSome = true := by
        rw [startup]
        rfl
      rw [State.boundaryDue, State.crossingRuns, serves, power, fixed, load, stopped]
      rfl

end Sys2Proof.Machine
end

section
/-! PROOFS. The door and the vent, and what a counted crossing leaves before its timers act (R22, R39, R67 to R73, R115, R132). -/

namespace Sys2Proof.Machine

/-! ## QUIET is left (R22) -/

/-- Outside QUIET there is nothing to leave. -/
theorem leaveQuiet_loud {s : State} (loud : s.share.state ≠ .quiet) : s.leaveQuiet = s := if_neg loud

/-- QUIET is left for the state of rest, or for an ask round where the ceiling is above the hold. -/
theorem leaveQuiet_quiet {s : State} (quiet : s.share.state = .quiet) :
    s.leaveQuiet.share.quietCount = 0 ∧ s.leaveQuiet.share.hold = s.share.hold
      ∧ (s.limit = none → s.leaveQuiet.share.state = .unshared)
      ∧ (s.limit ≠ none → s.load.ceiling ≤ s.share.hold → s.leaveQuiet.share.state = .steady)
      ∧ (s.limit ≠ none → s.share.hold < s.load.ceiling → s.leaveQuiet.share.state = .asking) := by
  let t := s.mapShare (fun h => { h with state := s.restState, quietCount := 0 })
  have form : s.leaveQuiet = t.askIfShort := if_pos quiet
  have rest : t.share.state = if s.limit = none then .unshared else .steady := restState_eq s
  rw [form]
  by_cases free : s.limit = none
  · rw [if_pos free] at rest
    rw [askIfShort_rests (s := t) (.inl (by rw [rest]; decide))]
    exact ⟨rfl, rfl, fun _ => rest, fun h => absurd free h, fun h => absurd free h⟩
  · rw [if_neg free] at rest
    by_cases short : s.share.hold < s.load.ceiling
    · rw [askIfShort_asks rest short]
      exact ⟨rfl, rfl, fun h => absurd h free, fun _ enough => absurd short (Nat.not_lt.mpr enough), fun _ _ => rfl⟩
    · rw [askIfShort_rests (s := t) (.inr (Nat.not_lt.mp short))]
      exact ⟨rfl, rfl, fun h => absurd h free, fun _ _ => rest, fun _ less => absurd less short⟩

/-! ## The flap (R70, R71) -/

/-- The command that a climate record gives. -/
theorem flapFor_eq (c : Climate) :
    c.flapFor = if c.venting = true then .opened
      else if c.mode = some .steam ∨ c.mode = some .combi ∨ c.mode = some .reheat ∨ c.mode = some .proof then .closed
      else .opened := by
  unfold Climate.flapFor
  cases c.mode with
  | none => simp
  | some m => cases m <;> simp [Mode.humid]

/-- The drive takes the flap to its command once a frequency is fixed, while mains is present. -/
theorem flapDriveOn_iff (s : State) : s.flapDriveOn = true ↔ s.inService = true ∧ s.startup.freq ≠ none ∧ s.mainsOut = false := by
  simp only [State.flapDriveOn, Bool.and_eq_true, Bool.not_eq_true', Option.isSome_iff_ne_none, and_assoc]

/-- A flap that is driven, and one that is not. -/
theorem driveFlap_flap (s : State) :
    s.driveFlap.climate.flapCommand = s.climate.flapCommand
      ∧ (s.flapDriveOn = true → s.driveFlap.climate.flapDriven = s.climate.flapCommand)
      ∧ (s.flapDriveOn = false → s.driveFlap.climate.flapDriven = s.climate.flapDriven) := by
  unfold State.driveFlap
  cases s.flapDriveOn
  · exact ⟨rfl, fun h => absurd h Bool.false_ne_true, fun _ => rfl⟩
  · exact ⟨rfl, fun _ => rfl, fun h => absurd h.symm Bool.false_ne_true⟩

/-! ## The door opens and closes (R68, R69, R115) -/

/-- The slot holds a program that has ended (R99). -/
def Slot.isDone : Slot → Bool
  | .done _ _ => true
  | .empty => false
  | .loading _ => false
  | .ready _ => false
  | .active _ => false

/-- A slot is DONE with a program and its outcome. -/
theorem isDone_iff (v : Slot) : v.isDone = true ↔ ∃ p o, v = .done p o := by
  cases v <;> simp [Slot.isDone]

/-- A DONE slot is emptied at a door-open event. -/
theorem doorClear_slot (ix jx : SlotIx) (t : Store) :
    (t.doorClear ix).slot jx = (if jx = ix ∧ (t.slot ix).isDone = true then .empty else t.slot jx)
      ∧ (t.doorClear ix).staging = t.staging ∧ (t.doorClear ix).lastOutcome = t.lastOutcome := by
  unfold Store.doorClear
  cases held : t.slot ix with
  | done p o => cases ix <;> cases jx <;> simp [Store.releaseSlot, Store.setSlot, Store.slot, Slot.isDone]
  | empty | loading | ready | active => exact ⟨by simp [Slot.isDone], rfl, rfl⟩

/-- The store once the DONE slots are emptied. -/
theorem doorClear_both (t : Store) :
    (∀ ix, (∃ p o, t.slot ix = .done p o) → ((t.doorClear .s0).doorClear .s1).slot ix = .empty)
      ∧ (∀ ix, (¬∃ p o, t.slot ix = .done p o) → ((t.doorClear .s0).doorClear .s1).slot ix = t.slot ix)
      ∧ ((t.doorClear .s0).doorClear .s1).staging = t.staging
      ∧ ((t.doorClear .s0).doorClear .s1).lastOutcome = t.lastOutcome := by
  have second (jx : SlotIx) := doorClear_slot .s1 jx (t.doorClear .s0)
  have slot (ix : SlotIx) :
      ((t.doorClear .s0).doorClear .s1).slot ix = if (t.slot ix).isDone = true then .empty else t.slot ix := by
    rw [(second ix).1, (doorClear_slot .s0 .s1 t).1, (doorClear_slot .s0 ix t).1]
    cases ix <;> simp
  refine ⟨fun ix done => ?_, fun ix kept => ?_, (second .s0).2.1.trans (doorClear_slot .s0 .s0 t).2.1,
    (second .s0).2.2.trans (doorClear_slot .s0 .s0 t).2.2⟩
  · rw [slot, if_pos ((isDone_iff _).mpr done)]
  · rw [slot, if_neg (fun h => kept ((isDone_iff _).mp h))]

/-- The state at the opening of the door before its notice: every load withdrawn, the seconds begun. -/
def State.doorOpened (s : State) : State :=
  ((s.mapClimate (fun c => { c with door := some .opened, doorPending := false })).mapLoad
    (fun l => { l with doorTimer := some .zero })).withdrawAll

/-- The opening of the door before what follows from it. -/
def State.doorOpenEvent (s : State) : State :=
  (s.doorOpened.doorNotice.mapStore (fun st => (st.doorClear .s0).doorClear .s1)).leaveQuiet

/-- The opening and what follows. -/
theorem doorOpens_eq (s : State) : s.doorOpens = s.doorOpenEvent.runSettle := rfl

/-- What the opening may change. -/
theorem doorOpenEvent_only (s : State) :
    Only [.door, .doorPending, .doorTimer, .withdrawn, .slots, .queue, .sharing] s s.doorOpenEvent := by
  have door : Only [.door, .doorPending, .doorTimer] s ((s.mapClimate
      (fun c => { c with door := some .opened, doorPending := false })).mapLoad (fun l => { l with doorTimer := some .zero })) := by
    intro a h
    cases a
    case door | doorPending | doorTimer => exact absurd (by decide) h
    all_goals rfl
  have notice (t : State) : Does [.queue] [] t t.doorNotice :=
    Does.ite (fun _ => handNotice_does _ t) (fun _ => Does.refl t)
  have clear (t : State) : Does [.slots] [] t (t.mapStore (fun st => (st.doorClear .s0).doorClear .s1)) :=
    (doorClear_does .s0 t).trans (doorClear_does .s1 (t.mapStore (Store.doorClear .s0)))
  exact (door.mono (by decide)).trans
    (((((withdraw_does _ _).seq (notice _)).seq (clear _)).seq (leaveQuiet_does _)).only.mono (by decide))

/-- The blocks that the opening writes before QUIET is left. -/
theorem doorOpened_fields (s : State) :
    s.doorOpened.climate = { s.climate with door := some .opened, doorPending := false }
      ∧ s.doorOpened.load.doorTimer = some ⟨0, 0⟩ ∧ (s.load.running = true → ∀ i, s.doorOpened.load.withdrawn.get i = true)
      ∧ s.doorOpened.store = s.store ∧ s.doorOpened.share = s.share ∧ s.doorOpened.bus = s.bus ∧ s.doorOpened.stepHumid = s.stepHumid
      ∧ s.doorOpened.inService = s.inService ∧ s.doorOpened.noticeHumidity = s.noticeHumidity ∧ s.doorOpened.limit = s.limit
      ∧ s.doorOpened.load.ceiling = s.load.ceiling := by
  let x := (s.mapClimate (fun c => { c with door := some .opened, doorPending := false })).mapLoad
    (fun l => { l with doorTimer := some .zero })
  refine ⟨rfl, ?_, fun running i => withdraw_withdrawn (fun _ => true) x running i rfl, rfl, rfl, rfl, rfl, rfl, rfl, rfl, ?_⟩
  · exact (withdraw_does _ _).only .doorTimer (by decide)
  · exact (withdraw_does _ _).only .ceiling (by decide)

/-- The blocks after the opening. -/
theorem doorOpenEvent_fields (s : State) :
    let u := s.doorOpenEvent
    let x := s.doorOpened.doorNotice
    u.climate = s.doorOpened.climate ∧ u.load = s.doorOpened.load
      ∧ u.store = (s.store.doorClear .s0).doorClear .s1
      ∧ (s.share.state ≠ .quiet → u.share = s.share ∧ u.bus = x.bus)
      ∧ (s.share.state = .quiet → u.share.quietCount = 0 ∧ u.share.hold = s.share.hold
          ∧ (s.limit = none → u.share.state = .unshared)
          ∧ (s.limit ≠ none → s.load.ceiling ≤ s.share.hold → u.share.state = .steady)
          ∧ (s.limit ≠ none → s.share.hold < s.load.ceiling → u.share.state = .asking)) := by
  intro u x
  obtain ⟨-, -, -, store, share, -, -, -, -, limit, ceiling⟩ := doorOpened_fields s
  have noticed : Only [.queue] s.doorOpened x :=
    (Does.ite (fun _ => handNotice_does _ _) (fun _ => Does.refl _) : Does [.queue] [] s.doorOpened x).only
  let y := x.mapStore (fun st => (st.doorClear .s0).doorClear .s1)
  have left := (leaveQuiet_does y).only
  have yShare : y.share = s.share := noticed.share.trans share
  have yLimit : y.limit = s.limit := by
    rw [← limit]
    exact congrArg (fun u => Config.limitUnits (Startup.limitClass u)) (show y.startup = s.doorOpened.startup from noticed.startup)
  have yCeiling : y.load.ceiling = s.load.ceiling := by
    rw [← ceiling]
    exact noticed .ceiling (by decide)
  refine ⟨left.climate.trans noticed.climate, left.load.trans noticed.load, ?_, fun loud => ?_, fun quiet => ?_⟩
  · have kept : x.store = s.store := noticed.store.trans store
    exact left.store.trans (congrArg (fun st : Store => (st.doorClear .s0).doorClear .s1) kept)
  · have still : y.leaveQuiet = y := leaveQuiet_loud (by rwa [yShare])
    show y.leaveQuiet.share = s.share ∧ y.leaveQuiet.bus = x.bus
    rw [still]
    exact ⟨yShare, rfl⟩
  · have left := leaveQuiet_quiet (s := y) (by rwa [yShare])
    rw [yShare, yLimit, yCeiling] at left
    exact left

/-- The notice of an opened door (R68, R75). -/
theorem doorNotice_bus (s : State) :
    (s.stepHumid = true → s.inService = true →
        s.doorNotice.bus = s.bus.hand .notice [[byteOf s.noticeHumidity, 0#8, 1#8]])
      ∧ (s.stepHumid = false → s.doorNotice = s) := by
  constructor
  · intro humid service
    rw [State.doorNotice, if_pos humid, State.handNotice, if_pos service]
    rfl
  · intro dry
    rw [State.doorNotice, dry, if_neg Bool.false_ne_true]

/-- The closing of the door before what follows from it. -/
def State.doorCloseEvent (s : State) : State :=
  (((s.mapClimate (fun c => { c with door := some .closed, doorPending := false })).mapLoad
    (fun l => { l with doorTimer := none })).commandFlap.driveFlap).leaveQuiet

/-- The closing and what follows. -/
theorem doorCloses_eq (s : State) : s.doorCloses = s.doorCloseEvent.runSettle := rfl

/-- What the closing may change. -/
theorem doorCloseEvent_only (s : State) :
    Only [.door, .doorPending, .doorTimer, .flap, .queue, .sharing] s s.doorCloseEvent := by
  have door : Only [.door, .doorPending, .doorTimer] s ((s.mapClimate
      (fun c => { c with door := some .closed, doorPending := false })).mapLoad (fun l => { l with doorTimer := none })) := by
    intro a h
    cases a
    case door | doorPending | doorTimer => exact absurd (by decide) h
    all_goals rfl
  exact (door.mono (by decide)).trans
    ((((commandFlap_does _).seq (driveFlap_does _)).seq (leaveQuiet_does _)).only.mono (by decide))

/-- The blocks after the closing. -/
theorem doorCloseEvent_fields (s : State) :
    let u := s.doorCloseEvent
    u.climate.door = some .closed ∧ u.climate.doorPending = false ∧ u.load.doorTimer = none
      ∧ u.climate.flapCommand = s.climate.flapFor
      ∧ (s.flapDriveOn = true → u.climate.flapDriven = u.climate.flapCommand)
      ∧ (s.flapDriveOn = false → u.climate.flapDriven = s.climate.flapDriven)
      ∧ (s.share.state ≠ .quiet → u.share = s.share ∧ u.bus = s.bus)
      ∧ (s.share.state = .quiet → u.share.quietCount = 0 ∧ u.share.hold = s.share.hold
          ∧ (s.limit = none → u.share.state = .unshared)
          ∧ (s.limit ≠ none → s.load.ceiling ≤ s.share.hold → u.share.state = .steady)
          ∧ (s.limit ≠ none → s.share.hold < s.load.ceiling → u.share.state = .asking)) := by
  intro u
  let x := ((s.mapClimate (fun c => { c with door := some .closed, doorPending := false })).mapLoad
    (fun l => { l with doorTimer := none })).commandFlap
  obtain ⟨command, on, off⟩ := driveFlap_flap x
  have driven := (driveFlap_does x).only
  have left := (leaveQuiet_does x.driveFlap).only
  have climate : u.climate = x.driveFlap.climate := left.climate
  have load : u.load = x.driveFlap.load := left.load
  have share : x.driveFlap.share = s.share := driven.share
  have bus : x.driveFlap.bus = s.bus := driven.bus
  have limit : x.driveFlap.limit = s.limit := by
    exact congrArg (fun u => Config.limitUnits (Startup.limitClass u)) (show x.driveFlap.startup = s.startup from driven.startup)
  have ceiling : x.driveFlap.load.ceiling = s.load.ceiling := driven .ceiling (by decide)
  have commanded : x.driveFlap.climate.flapCommand = s.climate.flapFor := command
  rw [climate, load]
  refine ⟨driven .door (by decide), driven .doorPending (by decide), driven .doorTimer (by decide), commanded, fun yes => ?_, off,
    fun loud => ?_, fun quiet => ?_⟩
  · rw [command]
    exact on yes
  · have still : x.driveFlap.leaveQuiet = x.driveFlap := leaveQuiet_loud (by rwa [share])
    show x.driveFlap.leaveQuiet.share = s.share ∧ x.driveFlap.leaveQuiet.bus = s.bus
    rw [still]
    exact ⟨share, bus⟩
  · have left := leaveQuiet_quiet (s := x.driveFlap) (by rwa [share])
    rw [share, limit, ceiling] at left
    exact left

/-- A pin that has the level already. -/
theorem doorPin_same {s : State} {d : Door} (level : s.inputs.door = d) : s.doorPin d = s := by
  subst level
  rfl

/-- The pin of the door alone. -/
theorem doorPin_only (d : Door) (s : State) : Only [.inputs] s (s.doorPin d) := (setInputs_does _ s).only

/-- The door events at the commands. -/
theorem doorCommands (s : State) :
    (s.climate.door = some .closed → exec .doorOpen s = .next (s.reported (s.doorPin .opened).doorOpenEvent.runSettle))
      ∧ (s.climate.door = some .opened → exec .doorClose s = .next (s.reported (s.doorPin .closed).doorCloseEvent.runSettle)) :=
  ⟨fun closed => congrArg s.report_ (if_pos closed), fun opened => congrArg s.report_ (if_pos opened)⟩

/-- Settles O37: the two door events by their parts, and the examinations that bring them about. -/
theorem doorOpensAndCloses : Obligations.DoorOpensAndCloses := by
  intro s
  obtain ⟨opens, closes⟩ := doorCommands s
  refine ⟨fun other => report_of_not other, fun other => report_of_not other, fun closed => ?opens, fun opened => ?closes,
    fun unset => examineDoor_none unset, fun same => examineDoor_same same, fun d door raw => ⟨fun first => ?_, fun second up => ?_,
      fun second down => ?_⟩⟩
  case opens =>
    let s' := s.doorPin .opened
    obtain ⟨climate, timer, withdrawn, -, -, bus, humid, service, humidity, -, -⟩ := doorOpened_fields s'
    obtain ⟨uClimate, uLoad, uStore, loud, quiet⟩ := doorOpenEvent_fields s'
    obtain ⟨emptied, kept, staging, outcome⟩ := doorClear_both s'.store
    obtain ⟨notice, silent⟩ := doorNotice_bus s'.doorOpened
    have inputs : s'.doorOpenEvent.inputs = { s.inputs with door := .opened } := doorOpenEvent_only s' .inputs (by decide)
    refine ⟨s'.doorOpenEvent, opens closed, uClimate.trans climate, inputs, ?_, ?_, fun running => ?_, fun ix done => ?_,
      fun ix other => ?_, ?_, fun state => (loud state).1, fun state wet serves => ?_, fun state dry => ?_, quiet, ?_⟩
    · rw [uStore]
      exact staging
    · rw [uLoad]
      exact timer
    · rw [uLoad]
      exact withdrawn running
    · rw [uStore]
      exact emptied ix done
    · rw [uStore]
      exact kept ix other
    · rw [uStore]
      exact outcome
    · rw [(loud state).2, notice (humid.trans wet) (service.trans serves), bus, humidity]
      rfl
    · rw [(loud state).2, silent (humid.trans dry)]
      exact bus
    · exact ((doorPin_only .opened s).mono (by decide)).trans ((doorOpenEvent_only s').mono (by decide))
  case closes =>
    let s' := s.doorPin .closed
    obtain ⟨door, pending, timer, command, on, off, loud, quiet⟩ := doorCloseEvent_fields s'
    have drives : s'.flapDriveOn = true ↔ s.inService = true ∧ s.startup.freq ≠ none ∧ s.mainsOut = false := flapDriveOn_iff s
    have inputs : s'.doorCloseEvent.inputs = { s.inputs with door := .closed } := doorCloseEvent_only s' .inputs (by decide)
    refine ⟨s'.doorCloseEvent, closes opened, door, pending, timer, inputs, ?_, fun serves fixed power => on (drives.mpr ⟨serves, fixed, power⟩),
      fun idle => off ?_, loud, quiet, ?_⟩
    · rw [command]
      exact flapFor_eq s.climate
    · refine Bool.eq_false_iff.mpr fun yes => ?_
      obtain ⟨serves, fixed, power⟩ := drives.mp yes
      obtain h | h | h := idle
      · rw [serves] at h
        cases h
      · exact fixed h
      · rw [power] at h
        cases h
    · exact ((doorPin_only .closed s).mono (by decide)).trans ((doorCloseEvent_only s').mono (by decide))
  · exact examineDoor_first door raw first
  · have closed : s.climate.door = some .closed := by
      cases d
      · exact door
      · exact absurd up raw
    rw [opens closed, doorPin_same up, examineDoor_second door raw second, State.doorChanges, up]
    rfl
  · have opened : s.climate.door = some .opened := by
      cases d
      · exact absurd down raw
      · exact door
    rw [closes opened, doorPin_same down, examineDoor_second door raw second, State.doorChanges, down]
    rfl

/-! ## A counted crossing before its timers act (R34, R39, R73) -/

/-- A crossing that is counted and no boundary falls within a frame. -/
theorem inFrame_of_runs {s : State} (runs : s.crossingRuns = true) (within : s.boundaryDue = false) : s.InFrame := by
  refine ⟨runs, ?_⟩
  simp only [State.boundaryDue, runs, Bool.true_and, Bool.or_eq_false_iff, Bool.not_eq_false', decide_eq_false_iff_not,
    Nat.not_le] at within
  exact within

/-- A boundary that is due begins with the end of the frame before, under power. -/
theorem crossed_boundary {s : State} (due : s.boundaryDue = true) :
    s.crossed = (s.advanceLfsr.endFrame.countCrossing).boundaryWork s.inputs := by
  rw [State.crossed, if_pos due, closeFrame_nominal]

/-- What a counted crossing may change before its timers act. -/
theorem crossed_only {s : State} (runs : s.crossingRuns = true) :
    Only ([.lfsr, .ventTimer, .doorTimer, .clock, .frame, .gates, .evaporation, .scaleLoad, .demands] ++ sampleAspects ++ sensorAspects
      ++ runAspects) s s.crossed := by
  by_cases due : s.boundaryDue = true
  · rw [crossed_boundary due]
    have counted := countCrossing_does s.advanceLfsr.endFrame
    have frame := counted.same .frame (by decide)
    have stopped : s.advanceLfsr.endFrame.countCrossing.load.running = false := (Prod.mk.inj frame).1.trans (endFrame_stopped _)
    exact ((((advanceLfsr_does s).seq (endFrame_does _)).seq counted).seq (boundaryWork_does s.inputs stopped)).only.mono (by decide)
  · have within := inFrame_of_runs runs (by simpa using due)
    rw [crossed_inFrame within]
    obtain ⟨-, running, more⟩ := within
    exact (((advanceLfsr_does s).seq (nextSwitch_does (s := s.advanceLfsr) running more)).seq (countCrossing_does _)).only.mono
      (by decide)

/-- The timer of the door-open seconds counts at every counted crossing. -/
theorem crossed_doorTimer {s : State} (runs : s.crossingRuns = true) :
    s.crossed.load.doorTimer = s.load.doorTimer.map (CycleTimer.tick s.perSecond 60) := by
  have counted (x : State) : x.countCrossing.load.doorTimer = x.load.doorTimer.map (CycleTimer.tick x.perSecond 60) := by
    obtain ⟨w, a, r, stroke⟩ := strokeCrossing_blocks x.countCycle
    show x.countCycle.strokeCrossing.load.doorTimer = _
    rw [stroke]
    rfl
  by_cases due : s.boundaryDue = true
  · have ended := ((advanceLfsr_does s).seq (endFrame_does s.advanceLfsr)).only
    have seconds : s.advanceLfsr.endFrame.perSecond = s.perSecond := by rw [State.perSecond, ended.startup]; rfl
    have timer : s.advanceLfsr.endFrame.load.doorTimer = s.load.doorTimer := ended .doorTimer (by decide)
    have frame := (countCrossing_does s.advanceLfsr.endFrame).same .frame (by decide)
    have stopped : s.advanceLfsr.endFrame.countCrossing.load.running = false := (Prod.mk.inj frame).1.trans (endFrame_stopped _)
    have work : (s.advanceLfsr.endFrame.countCrossing.boundaryWork s.inputs).load.doorTimer
        = s.advanceLfsr.endFrame.countCrossing.load.doorTimer := (boundaryWork_does s.inputs stopped).only .doorTimer (by decide)
    rw [crossed_boundary due, work, counted, seconds, timer]
  · have within := inFrame_of_runs runs (by simpa using due)
    rw [(crossed_blocks within).2.1]

/-- A timer that reaches n seconds stands there. -/
theorem tick_reaches {n cap perSecond : Nat} {c : CycleTimer} (reaches : c.seconds + 1 = n) (within : n ≤ cap)
    (full : perSecond ≤ c.cycles + 1) : c.tick perSecond cap = ⟨n, 0⟩ := by
  rw [CycleTimer.tick, if_neg (by omega), if_pos full, reaches]

/-- The state of a crossing before the door is examined: the drain, the vent and the second have acted (log 3). -/
def State.beforeDoor (s : State) : State := if s.secondDue then s.beforeSecond.secondEvent else s.beforeSecond

/-- A counted crossing ends in the examination of the door. -/
theorem crossing_beforeDoor {s : State} (runs : s.crossingRuns = true) : s.crossing = s.beforeDoor.examineDoor := by
  rw [crossing_eq runs, fire_rest, State.fireRest, State.fireLast]
  rfl

/-- What the timers of a crossing may change before the door is examined. -/
theorem beforeDoor_only {s : State} (runs : s.crossingRuns = true) :
    Only ([.lfsr, .ventTimer, .doorTimer, .clock, .frame, .gates, .evaporation, .scaleLoad, .demands, .fault .drainTimeout, .soakCount,
      .freeIndex] ++ sampleAspects ++ sensorAspects ++ runAspects) s s.beforeDoor := by
  have fired := ((((fireDrain_does s.crossed).seq (runSettle_does _)).seq (fireVent_does _)).seq (runSettle_does _)).only
  have all : Only ([.lfsr, .ventTimer, .doorTimer, .clock, .frame, .gates, .evaporation, .scaleLoad, .demands, .fault .drainTimeout,
      .soakCount, .freeIndex] ++ sampleAspects ++ sensorAspects ++ runAspects) s s.beforeSecond :=
    ((crossed_only runs).mono (by decide)).trans (fired.mono (by decide))
  unfold State.beforeDoor
  split
  · exact all.trans ((secondEvent_does _).only.mono (by decide))
  · exact all

/-- The timers that act leave the door-open seconds. -/
theorem beforeDoor_doorTimer {s : State} (runs : s.crossingRuns = true) :
    s.beforeDoor.load.doorTimer = s.load.doorTimer.map (CycleTimer.tick s.perSecond 60) := by
  have fired := ((((fireDrain_does s.crossed).seq (runSettle_does _)).seq (fireVent_does _)).seq (runSettle_does _)).only
  have settled : s.beforeSecond.load.doorTimer = s.crossed.load.doorTimer := fired .doorTimer (by decide)
  rw [← crossed_doorTimer runs, ← settled, State.beforeDoor]
  split
  · exact (secondEvent_does _).only .doorTimer (by decide)
  · rfl

/-- And the ceiling follows the program before the door is examined. -/
theorem beforeDoor_follows (s : State) : s.beforeDoor.Follows := by
  unfold State.beforeDoor
  split
  · exact secondEvent_follows (runSettle_follows _)
  · exact runSettle_follows _

/-! ## The vent (R72 to R75) -/

/-- A vent in progress goes on. -/
theorem beginVent_venting {s : State} (venting : s.climate.venting = true) : s.beginVent = s := if_pos venting

/-- The flap as a vent begins: commanded open. -/
def State.ventFlap (s : State) : State :=
  (s.mapClimate (fun c => { c with venting := true, ventTimer := some .zero })).commandFlap

/-- A vent that begins: the flap driven, every load withdrawn, a notice handed. -/
theorem beginVent_begins {s : State} (idle : s.climate.venting = false) :
    s.beginVent = (s.ventFlap.driveFlap.withdrawAll).handNotice .vent := by
  rw [State.beginVent, idle, if_neg Bool.false_ne_true]
  rfl

/-- The blocks of a vent that begins. -/
theorem beginVent_fields {s : State} (idle : s.climate.venting = false) :
    let t := s.beginVent
    t.climate.venting = true ∧ t.climate.ventTimer = some ⟨0, 0⟩ ∧ t.climate.flapCommand = .opened
      ∧ (s.flapDriveOn = true → t.climate.flapDriven = .opened)
      ∧ (s.load.running = true → ∀ i, t.load.withdrawn.get i = true)
      ∧ (s.inService = true → t.bus = s.bus.hand .notice [[byteOf s.noticeHumidity, byteOf 20, 0#8]])
      ∧ (t.climate.mode = s.climate.mode ∧ t.climate.setpoint = s.climate.setpoint) := by
  intro t
  let x := s.ventFlap.driveFlap
  let y := x.withdrawAll
  have form : t = y.handNotice .vent := beginVent_begins idle
  have told := (handNotice_does .vent y).only
  have drawn := (withdraw_does (fun _ => true) x).only
  have driven := (driveFlap_does s.ventFlap).only
  have climate : t.climate = x.climate := by rw [form]; exact told.climate.trans drawn.climate
  have load : t.load = y.load := by rw [form]; exact told.load
  obtain ⟨command, on, -⟩ := driveFlap_flap s.ventFlap
  have record := driven .record (by decide)
  simp only [Same, Prod.mk.injEq] at record
  obtain ⟨mode, setpoint, -, venting⟩ := record
  have opened : s.ventFlap.climate.flapCommand = .opened := rfl
  rw [climate, load]
  refine ⟨venting, driven .ventTimer (by decide), command.trans opened, fun drives => (on drives).trans opened, fun running i => ?_,
    fun serves => ?_, mode, setpoint⟩
  · have runs : x.load.running = true := by
      have frame := driven .frame (by decide)
      exact (Prod.mk.inj frame).1.trans running
    exact withdraw_withdrawn (fun _ => true) x runs i rfl
  · have service : y.inService = true := by
      have startup : y.startup = s.startup := drawn.startup.trans driven.startup
      rw [State.inService, startup]
      exact serves
    have humidity : y.noticeHumidity = s.noticeHumidity := by
      have faults : y.faults = s.faults := drawn.faults.trans driven.faults
      have read := (driven .readings (by decide)).trans rfl
      simp only [Same, Prod.mk.injEq] at read
      have last : y.climate.lastHumidity = s.climate.lastHumidity := read.2.2.2.1
      rw [State.noticeHumidity, State.faultActive, faults, last]
      rfl
    have bus : y.bus = s.bus := drawn.bus.trans driven.bus
    rw [form, State.handNotice, if_pos service]
    show y.bus.hand .notice [vapourBytes y.noticeHumidity .vent] = _
    rw [bus, humidity]
    rfl

/-- Settles O38: the vent's start by its parts, and the two timers at the crossing that completes them. -/
theorem ventAndDoorMinute : Obligations.VentAndDoorMinute := by
  refine ⟨fun s => ⟨beginVent_venting, fun idle => ?begins⟩, fun s => ⟨fun reaches follows => ?minute, fun reaches => ?vent⟩⟩
  case begins =>
    intro t
    obtain ⟨venting, timer, command, driven, withdrawn, bus, record⟩ := beginVent_fields idle
    exact ⟨venting, timer, command, fun serves fixed power => driven ((flapDriveOn_iff s).mpr ⟨serves, fixed, power⟩), withdrawn, bus,
      record, (beginVent_does s).only⟩
  case minute =>
    have due : s.timerReaches 60 s.load.doorTimer = true := (timerReaches_iff 60 _ s).mpr reaches
    obtain ⟨runs, c, timer, last, full⟩ := reaches
    have only := beforeDoor_only runs
    have minute : s.beforeDoor.load.doorTimer = some ⟨60, 0⟩ := by
      rw [beforeDoor_doorTimer runs, timer, Option.map_some, tick_reaches last (Nat.le_refl _) full]
    have ceiling : s.beforeDoor.load.ceiling = s.beforeDoor.ceilingNow := (beforeDoor_follows s).1
    refine ⟨s.beforeDoor, ?_, minute, fun idle => ?_, fun r step => ?_, only.mono (by decide)⟩
    · show s.report_ (s.crossingWhen (s.timerReaches 60 s.load.doorTimer)) = _
      rw [State.crossingWhen, if_pos due, crossing_beforeDoor runs]
      rfl
    · have noRun : s.beforeDoor.activeRun = none := by simpa [State.hasActive] using idle
      have noStep : s.beforeDoor.activeStep = none := by rw [State.activeStep, noRun]
      rw [ceiling, ceilingNow_of_noStep noStep]
    · have reached : s.beforeDoor.doorMinute = true := (doorMinute_iff _).mpr ⟨_, minute, Nat.le_refl _⟩
      have base : s.beforeDoor.baseUnits = s.baseUnits := by rw [State.baseUnits, only.startup]; rfl
      rw [ceiling, ceilingNow_of_step step, reached, if_pos rfl, ite_self, base]
      exact congrArg (fun n => if r.mode = .wait then 0 else n) (baseUnits_eq s)
  case vent =>
    intro v
    have due : s.timerReaches 20 s.climate.ventTimer = true := (timerReaches_iff 20 _ s).mpr reaches
    obtain ⟨runs, c, timer, last, full⟩ := reaches
    refine ⟨fun stands phase => ?_, fun within => ?_⟩
    · have ends : v.fireVent = v.stepComplete := by
        unfold State.fireVent
        rw [stands]
        exact if_pos ⟨Nat.le_refl _, phase⟩
      show s.report_ (s.crossingWhen (s.timerReaches 20 s.climate.ventTimer)) = _
      rw [State.crossingWhen, if_pos due, crossing_eq runs, fire_rest, State.fireRest]
      show s.report_ ((v.fireVent.runSettle).fireLast s.secondDue) = _
      rw [ends]
      rfl
    · rw [(crossed_blocks (inFrame_of_runs runs within)).2.2.1]
      show s.climate.ventTimer.map _ = _
      rw [timer, Option.map_some, tick_reaches last (Nat.le_refl _) full]

end Sys2Proof.Machine
end

section
/-! PROOFS. What an event leaves due is done within it, one thing at a time (R91, R126, R134, R153), and what a change of the
ceiling does at the share engine (R13, R15, R40). -/

namespace Sys2Proof.Machine

/-! ## The turns (R126, R134) -/

/-- With nothing due no turn is taken. -/
theorem settleTurns_idle {s : State} (nothing : s.NothingDue) (n : Nat) : s.settleTurns n = s := by
  cases n with
  | zero => rfl
  | succ n => exact if_neg (by rw [(settleDue_none s).mpr nothing]; decide)

/-- A turn that is due is taken first. -/
theorem settleTurns_due {s : State} (due : ¬s.NothingDue) (n : Nat) :
    s.settleTurns (n + 1) = (s.keepInterruption.settleOnce).settleTurns n :=
  if_pos (Bool.of_not_eq_false fun none => due ((settleDue_none s).mp none))

/-- With nothing due the ceiling and the interruption timer alone follow. -/
theorem runSettle_idle {s : State} (nothing : s.NothingDue) : s.runSettle = (s.updateCeiling).keepInterruption := by
  rw [State.runSettle, settleTurns_idle nothing]

/-- Where one turn leaves nothing due, it is the only one. -/
theorem runSettle_once {s : State} (due : ¬s.NothingDue) (settled : s.keepInterruption.settleOnce.NothingDue) :
    s.runSettle = (s.keepInterruption.settleOnce.updateCeiling).keepInterruption := by
  rw [State.runSettle, settleBound, settleTurns_due due, settleTurns_idle settled]

/-- Where the slots are legal, what follows after a turn is what followed before it: the bound on the turns is never met. -/
theorem runSettle_turn {s : State} (legal : s.StoreLegal) (due : ¬s.NothingDue) :
    s.runSettle = s.keepInterruption.settleOnce.runSettle := by
  have isDue : s.settleDue = true := Bool.of_not_eq_false fun none => due ((settleDue_none s).mp none)
  obtain ⟨fewer, legal'⟩ := settleTurn_left legal isDue
  have enough : s.turnsLeft ≤ settleBound := turnsLeft_le legal
  have stable := (settleTurns_settles (settleBound - 1) legal' (by omega)).2 settleBound (by decide)
  rw [State.runSettle, State.runSettle, stable]
  exact congrArg (fun t : State => t.updateCeiling.keepInterruption) (settleTurns_due due (settleBound - 1))

/-- Where the slots are legal nothing stays due. -/
theorem runSettle_settled {s : State} (legal : s.StoreLegal) : s.runSettle.NothingDue := by
  refine (settleDue_none _).mp ?_
  rw [State.runSettle, settleDue_after]
  exact (settleTurns_settles settleBound legal (turnsLeft_le legal)).1

/-! ## The three things that are due at once (R91, R126, R153) -/

/-- Nothing due, a turn does nothing. -/
theorem settleOnce_idle {s : State} (nothing : s.NothingDue) : s.settleOnce = s := by
  obtain ⟨valve, handed, prepare⟩ := nothing
  simp [State.settleOnce, valve, handed, prepare]

/-- A valve that may open opens first (R91). -/
theorem settleOnce_valve {s : State} (valve : s.valveDue = true) : s.settleOnce = s.openValve := if_pos valve

/-- Then a completion handed is taken (R84). -/
theorem settleOnce_handed {s : State} (shut : s.valveDue = false) {x : Handed} (handed : s.steam.handed = some x) :
    s.settleOnce = s.takeHanded := by
  rw [State.settleOnce, if_neg (by rw [shut]; decide), if_pos (by rw [handed]; rfl)]

/-- Then PREPARE ends (R126). -/
theorem settleOnce_prepare {s : State} (shut : s.valveDue = false) (handed : s.steam.handed = none) (due : s.prepareDue = true) :
    s.settleOnce = s.endPrepare := by
  rw [State.settleOnce, if_neg (by rw [shut]; decide), if_neg (by rw [handed]; decide), if_pos due]

/-- The state in which a completion handed has been taken. -/
abbrev State.handedTaken (s : State) : State := { s with steam := { s.steam with handed := none } }

/-- Outside a SERVICE program a completion is passed over (R153). -/
theorem takeHanded_recipe {s : State} (none : s.serviceActive = false) : s.takeHanded = s.handedTaken :=
  if_neg (by rw [none]; decide)

/-- In a SERVICE program it ends the step (R153). -/
theorem takeHanded_service {s : State} (service : s.serviceActive = true) (goes : s.seq.stopFlag = false) :
    s.takeHanded = s.handedTaken.stepComplete := by
  rw [State.takeHanded, if_pos service, if_neg (by rw [goes]; decide)]
  rfl

/-- In a forced drain the drain's completion ends the program (R159). -/
theorem takeHanded_forced {s : State} (service : s.serviceActive = true) (stops : s.seq.stopFlag = true)
    (drained : s.steam.handed = some .drainComplete) :
    s.takeHanded = s.handedTaken.endAborted (s.seq.forcedCause.getD .stopped) := by
  rw [State.takeHanded, if_pos service, if_pos stops, if_pos drained]
  rfl

/-- Another completion is passed over in it. -/
theorem takeHanded_forcedOther {s : State} (service : s.serviceActive = true) (stops : s.seq.stopFlag = true)
    (other : s.steam.handed ≠ some .drainComplete) : s.takeHanded = s.handedTaken := by
  rw [State.takeHanded, if_pos service, if_pos stops, if_neg other]
  rfl

/-- PREPARE ends for a boiler that is READY or STEAMING, while RUNNING (R126). -/
theorem prepareDue_iff (s : State) :
    s.prepareDue = true
      ↔ s.phase = some .prepare ∧ (s.steam.boiler = .ready ∨ s.steam.boiler = .steaming) ∧ s.runState = some .running := by
  simp only [State.prepareDue, State.boilerReady, Bool.and_eq_true, Bool.or_eq_true, decide_eq_true_eq, isRunning_iff, and_assoc]

/-- PREPARE ends in the step's next phase (R126). -/
theorem endPrepare_step {s : State} {r : StepRecord} (step : s.activeStep = some r) : s.endPrepare = s.toPreheat r := by
  rw [State.endPrepare, step]

/-- The end of PREPARE finds the program RUNNING, and leaves the interruption timer idle (R126, R134). -/
theorem prepareTurn_interruption {s : State} (shut : s.valveDue = false) (handed : s.steam.handed = none)
    (due : s.prepareDue = true) : s.keepInterruption.settleOnce.seq.interruption = none := by
  obtain ⟨_, _, running⟩ := (prepareDue_iff s).mp due
  have idle : s.keepInterruption.seq.interruption = none := by
    show (if s.runState = some .held ∨ s.runState = some .paused then _ else none) = none
    rw [running]
    exact if_neg (by decide)
  rw [settleOnce_prepare (s := s.keepInterruption) shut handed due, State.endPrepare]
  cases s.keepInterruption.activeStep with
  | none => exact idle
  | some r => exact (toPreheat_interruption r _).trans idle

/-! ## A ceiling that changes (R13, R15, R40) -/

/-- The ceiling recomputed, a change not yet known to the share engine (R40). -/
abbrev State.ceilingSet (c : Nat) (share : Share) (s : State) : State :=
  { s with load := { s.load with ceiling := c }, share := share }

/-- An ask round for a ceiling, the announcement handed with it (R13, R40). -/
abbrev State.roundFor (c deny : Nat) (starved : Bool) (s : State) : State :=
  let x := s.ceilingSet c
    { s.share with state := .asking, ask := c, draw := s.share.lfsr, ownCount := 0, denyCount := deny, starved := starved }
  { x with bus := s.bus.hand (.announce c s.share.lfsr) [x.ownAnnouncement] }

/-- A ceiling that stands is no event (R40). -/
theorem updateCeiling_same {s : State} (same : s.ceilingNow = s.load.ceiling) : s.updateCeiling = s := if_pos same

/-- A ceiling that changes is an event at the share engine (R40). -/
theorem updateCeiling_moved {s : State} (moved : s.ceilingNow ≠ s.load.ceiling) :
    s.updateCeiling = (s.ceilingSet s.ceilingNow s.share).ceilingEvent := if_neg moved

/-- Outside ASKING a ceiling change asks where the part is short (R13). -/
theorem ceilingEvent_notAsking {s : State} (other : s.share.state ≠ .asking) : s.ceilingEvent = s.askIfShort.mainsApply := by
  rw [State.ceilingEvent, if_neg other]

/-- In ASKING a ceiling within the hold ends the round (R15). -/
theorem ceilingEvent_enough {s : State} (asking : s.share.state = .asking) (enough : s.load.ceiling ≤ s.share.hold) :
    s.ceilingEvent = State.mainsApply { s with share := { s.share with state := .steady, denyCount := 0, starved := false } } := by
  rw [State.ceilingEvent, if_pos asking, if_pos enough]
  rfl

/-- In ASKING the latched ask stands (R15). -/
theorem ceilingEvent_latched {s : State} (asking : s.share.state = .asking) (short : s.share.hold < s.load.ceiling)
    (latched : s.load.ceiling = s.share.ask) : s.ceilingEvent = s.mainsApply := by
  rw [State.ceilingEvent, if_pos asking, if_neg (Nat.not_le.mpr short), if_pos latched]

/-- In ASKING another ceiling above the hold starts the round again (R15). -/
theorem ceilingEvent_again {s : State} (asking : s.share.state = .asking) (short : s.share.hold < s.load.ceiling)
    (other : s.load.ceiling ≠ s.share.ask) : s.ceilingEvent = s.startRound.mainsApply := by
  rw [State.ceilingEvent, if_pos asking, if_neg (Nat.not_le.mpr short), if_neg other]

/-- A round restarted in ASKING keeps its deny count (R13). -/
theorem startRound_again {s : State} {c : Nat} (asking : s.share.state = .asking) :
    (s.ceilingSet c s.share).startRound = s.roundFor c s.share.denyCount s.share.starved := by
  have began : ((s.ceilingSet c s.share).mapShare (fun h =>
      { h with
        state := .asking, ask := c, draw := h.lfsr, ownCount := 0
        denyCount := if h.state = .asking then h.denyCount else 0
        starved := if h.state = .asking then h.starved else false }))
        = s.ceilingSet c
          { s.share with
            state := .asking, ask := c, draw := s.share.lfsr, ownCount := 0, denyCount := s.share.denyCount
            starved := s.share.starved } := by
    simp only [State.mapShare, asking]
    rfl
  rw [State.startRound, began]
  exact announce_eq (s := s.ceilingSet c
    { s.share with
      state := .asking, ask := c, draw := s.share.lfsr, ownCount := 0, denyCount := s.share.denyCount
      starved := s.share.starved }) (show ShareState.asking ≠ .quiet by decide)

/-- A STEADY part asks for a ceiling above its hold (R13, R40). -/
theorem updateCeiling_asks {s : State} (moved : s.ceilingNow ≠ s.load.ceiling) (steady : s.share.state = .steady)
    (short : s.share.hold < s.ceilingNow) : s.updateCeiling = (s.roundFor s.ceilingNow 0 false).mainsApply := by
  have other : s.share.state ≠ .asking := by rw [steady]; decide
  rw [updateCeiling_moved moved, ceilingEvent_notAsking (s := s.ceilingSet s.ceilingNow s.share) other]
  exact congrArg State.mainsApply (askIfShort_asks (s := s.ceilingSet s.ceilingNow s.share) steady short)

/-- Outside ASKING, but for a STEADY part that is short, a ceiling change is no event of the share engine (R13, R40). -/
theorem updateCeiling_rests {s : State} (moved : s.ceilingNow ≠ s.load.ceiling) (other : s.share.state ≠ .asking)
    (rests : s.share.state ≠ .steady ∨ s.ceilingNow ≤ s.share.hold) :
    s.updateCeiling = (s.ceilingSet s.ceilingNow s.share).mainsApply := by
  rw [updateCeiling_moved moved, ceilingEvent_notAsking (s := s.ceilingSet s.ceilingNow s.share) other]
  exact congrArg State.mainsApply (askIfShort_rests (s := s.ceilingSet s.ceilingNow s.share) rests)

/-- Settles O46. -/
theorem settling : Obligations.Settling := by
  intro s
  refine ⟨fun nothing => ⟨settleOnce_idle nothing, runSettle_idle nothing⟩,
    ⟨runSettle_once, runSettle_turn, prepareTurn_interruption⟩, runSettle_settled, settleOnce_valve, ?handed, ?prepare, rfl, ?load,
    updateCeiling_same, ?moved, runSettle_follows s, (runSettle_does s).only⟩
  case handed =>
    intro shut x handed
    have drained : s.steam.handed = some .drainComplete ↔ x = .drainComplete := by rw [handed]; exact Option.some_inj
    rw [settleOnce_handed shut handed]
    exact ⟨takeHanded_recipe, takeHanded_service, fun service stops at_ => takeHanded_forced service stops (drained.mpr at_),
      fun service stops other => takeHanded_forcedOther service stops (fun at_ => other (drained.mp at_))⟩
  case prepare =>
    exact fun shut handed => ⟨prepareDue_iff s, fun r step due => (settleOnce_prepare shut handed due).trans (endPrepare_step step)⟩
  case load => exact updateCeiling_load s
  case moved =>
    intro moved
    refine ⟨fun steady enough => ?_, fun steady short => updateCeiling_asks moved steady short, fun asking enough => ?_,
      fun asking short latched => ?_, fun asking short other => ?_, fun steady asking => updateCeiling_rests moved asking (.inl steady)⟩
    · exact updateCeiling_rests moved (by rw [steady]; decide) (.inr enough)
    · rw [updateCeiling_moved moved]
      exact ceilingEvent_enough (s := s.ceilingSet s.ceilingNow s.share) asking enough
    · rw [updateCeiling_moved moved]
      exact ceilingEvent_latched (s := s.ceilingSet s.ceilingNow s.share) asking short latched
    · rw [updateCeiling_moved moved, ceilingEvent_again (s := s.ceilingSet s.ceilingNow s.share) asking short other,
        startRound_again asking]

end Sys2Proof.Machine
end

section
/-! PROOFS. A second of the sequencer (R120, R125, R128, R134, R155). -/

namespace Sys2Proof.Machine

/-! ## The ACTIVE program's step (R118) -/

/-- The active step is the program's at the sequencer's position (R118). -/
theorem activeStep_of_run {s : State} {at_ : Position} {p : Program} (run : s.activeRun = some (at_, p)) :
    s.activeStep = p.step at_.step := by
  rw [State.activeStep, run]

/-- The phase is that of the sequencer's position (R124). -/
theorem phase_of_run {s : State} {at_ : Position} {p : Program} (run : s.activeRun = some (at_, p)) : s.phase = some at_.phase := by
  rw [State.phase, run]
  rfl

/-- A SERVICE program is ACTIVE (R118). -/
theorem serviceActive_of_run {s : State} {at_ : Position} {p : Program} (run : s.activeRun = some (at_, p)) :
    s.serviceActive = true ↔ p.kind = .service := by
  rw [State.serviceActive, State.activeProgram, run]
  exact decide_eq_true_iff

/-! ## The counters of a second (R120, R128, R134, R155) -/

/-- The cavity is within a step's band (R128). -/
theorem withinBand_iff (r : StepRecord) (s : State) :
    s.withinBand r = true ↔ ∃ c sp, s.climate.lastCavity = some c ∧ r.setpoint = some sp
      ∧ c - 10 * (sp : Int) ≤ 10 * (r.band.getD 5 : Int) ∧ 10 * (sp : Int) - c ≤ 10 * (r.band.getD 5 : Int) := by
  unfold State.withinBand StepRecord.bandOr5
  cases s.climate.lastCavity with
  | none => simp
  | some c => cases r.setpoint <;> simp

/-- A second counts in the COUNT of a RECIPE step that is RUNNING, in a BANDED one within the band (R128). -/
theorem counts_recipe {s : State} {at_ : Position} {p : Program} {r : StepRecord} (run : s.activeRun = some (at_, p))
    (step : p.step at_.step = some r) (recipe : p.kind = .recipe) :
    s.counts = true ↔
      at_.phase = .count ∧ s.runState = some .running ∧ (s.seq.workKind ≠ some .banded ∨ s.withinBand r = true) := by
  have counts : s.counts = s.recipeCounts r := by
    rw [State.counts, run, activeStep_of_run run, step]
    dsimp only
    rw [recipe]
  rw [counts, State.recipeCounts, phase_of_run run]
  simp only [Bool.and_eq_true, Bool.or_eq_true, decide_eq_true_eq, isRunning_iff, Option.some_inj, and_assoc]

/-- In a SOAK step that is RUNNING a second counts while soak heating is set at 55.0 °C or more (R155). -/
theorem counts_service {s : State} {at_ : Position} {p : Program} {r : StepRecord} (run : s.activeRun = some (at_, p))
    (step : p.step at_.step = some r) (service : p.kind = .service) :
    s.counts = true ↔
      r.mode = .soak ∧ s.runState = some .running ∧ s.steam.soakHeating = true ∧ ∃ c, s.boilerInUse = some c ∧ 550 ≤ c := by
  have counts : s.counts = s.soakCounts r := by
    rw [State.counts, run, activeStep_of_run run, step]
    dsimp only
    rw [service]
  rw [counts, State.soakCounts]
  simp only [Bool.and_eq_true, decide_eq_true_eq, isRunning_iff, boilerAtLeast_iff, and_assoc]

/-- Without a program no second counts. -/
theorem counts_idle {s : State} (idle : s.activeRun = none) : s.counts = false := by
  rw [State.counts, idle]

/-- The duration of a step that counts: the working duration, in a SOAK step the soak time (R128, R155). -/
theorem countDuration_of_step {s : State} {r : StepRecord} (step : s.activeStep = some r) :
    s.countDuration = if r.mode = .soak then r.duration else s.seq.workDuration := by
  rw [State.countDuration, step]

/-- Elapsed has reached the duration. -/
theorem durationReached_iff (s : State) : s.durationReached = true ↔ ∃ d, s.countDuration = some d ∧ d ≤ s.seq.elapsed := by
  unfold State.durationReached
  cases s.countDuration <;> simp

/-- A prompt or an interruption at its limit (R125, R134). -/
theorem timedOut_iff (s : State) : s.timedOut = true ↔ s.seq.promptTimer = some 3600 ∨ s.seq.interruption = some 1800 := by
  simp only [State.timedOut, Bool.or_eq_true, decide_eq_true_eq]

/-- The prompt and interruption timers count every second, up to their limits (R125, R134). -/
theorem countSecond_timers (s : State) :
    s.countSecond.seq.promptTimer = s.seq.promptTimer.map (fun n => min 3600 (n + 1))
      ∧ s.countSecond.seq.interruption = s.seq.interruption.map (fun n => min 1800 (n + 1)) := by
  have counts (cap : Nat) : satAdd cap 1 = fun n => min cap (n + 1) := funext fun n => congrArg (min cap) (Nat.add_comm 1 n)
  exact ⟨congrArg (fun f => s.seq.promptTimer.map f) (counts 3600), congrArg (fun f => s.seq.interruption.map f) (counts 1800)⟩

/-- Elapsed moves at a second that counts (R128). -/
theorem countSecond_elapsed (s : State) :
    (s.counts = true → s.countSecond.seq.elapsed = min 65535 (s.seq.elapsed + 1))
      ∧ (s.counts = false → s.countSecond.seq.elapsed = s.seq.elapsed) :=
  ⟨fun counts => if_pos counts, fun idle => if_neg (by rw [idle]; decide)⟩

/-- The counters leave the step. -/
theorem countSecond_activeStep (s : State) : s.countSecond.activeStep = s.activeStep := rfl

/-- With nothing that counts a second changes nothing. -/
theorem countSecond_idle {s : State} (idle : s.counts = false) (noPrompt : s.seq.promptTimer = none)
    (noInterruption : s.seq.interruption = none) : s.countSecond = s := by
  have elapsed := (countSecond_elapsed s).2 idle
  have prompt : s.countSecond.seq.promptTimer = s.seq.promptTimer := by rw [(countSecond_timers s).1, noPrompt]; rfl
  have interruption : s.countSecond.seq.interruption = s.seq.interruption := by rw [(countSecond_timers s).2, noInterruption]; rfl
  calc s.countSecond = { s with seq := { s.seq with
        elapsed := s.countSecond.seq.elapsed, promptTimer := s.countSecond.seq.promptTimer
        interruption := s.countSecond.seq.interruption } } := rfl
    _ = s := by rw [elapsed, prompt, interruption]

/-! ## What a second ends (R120, R125, R128, R134, R155) -/

/-- A counted second that reaches the duration ends COUNT. -/
theorem secondEvent_ends {s : State} (counts : s.counts = true) (reached : s.countSecond.durationReached = true) :
    s.secondEvent = s.countSecond.countEnds.runSettle := by
  rw [State.secondEvent]
  exact if_pos (by rw [counts, reached]; rfl)

/-- Where it does not, a timer at its limit ends the program (R125, R134). -/
theorem secondEvent_late {s : State} (open_ : ¬(s.counts = true ∧ s.countSecond.durationReached = true))
    (late : s.countSecond.timedOut = true) : s.secondEvent = (s.countSecond.endAborted .timeout).runSettle := by
  rw [State.secondEvent]
  exact (if_neg (by rwa [Bool.and_eq_true])).trans (if_pos late)

/-- Where none is, the second has counted alone. -/
theorem secondEvent_counts {s : State} (open_ : ¬(s.counts = true ∧ s.countSecond.durationReached = true))
    (inTime : s.countSecond.timedOut = false) : s.secondEvent = s.countSecond := by
  rw [State.secondEvent]
  exact (if_neg (by rwa [Bool.and_eq_true])).trans (if_neg (by rw [inTime]; decide))

/-- COUNT ends as a step of its kind does (R128). -/
theorem countEnds_recipe {s : State} {r : StepRecord} (step : s.activeStep = some r) (other : r.mode ≠ .soak) :
    s.countEnds = s.endCount := by
  rw [State.countEnds, step]
  exact if_neg other

/-- The soak is complete with its step (R155). -/
theorem countEnds_soak {s : State} {r : StepRecord} (step : s.activeStep = some r) (soak : r.mode = .soak) :
    s.countEnds = s.soakDone.stepComplete := by
  rw [State.countEnds, step]
  exact if_pos soak

/-- A soak that is complete leaves S at 0 and is counted, with a write (R155). -/
theorem soakDone_account (s : State) :
    s.soakDone.scale = { s.scale with load := 0, soakCount := min 65535 (s.scale.soakCount + 1) }
      ∧ s.soakDone.retained
        = s.retained.request ⟨s.scale.hardness, 0, s.scale.rinseOwed, min 65535 (s.scale.soakCount + 1)⟩ := by
  let t := (s.mapScale (fun a => { a with load := 0, soakCount := satAdd 65535 a.soakCount 1 })).requestWrite
  have told := (handReportIf_does (decide (t.waterView = s.waterView)) .water t).only
  rw [show s.soakDone = (t.handReportIf (decide (t.waterView = s.waterView)) .water).updateCeiling from rfl, updateCeiling_scale,
    updateCeiling_retained, told.scale, told.retained]
  exact ⟨rfl, rfl⟩

/-! ## The rows of a second (log 2) -/

/-- A crossing that is a second, and what it reaches. -/
theorem crossingRow_second {s : State} {due : Bool} {u : State} (comes : due = true) (second : s.secondDue = true)
    (ends : s.beforeSecond.secondEvent = u) : s.report_ (s.crossingWhen due) = .next (s.reported u.examineDoor) := by
  rw [State.crossingWhen, if_pos comes, crossing_second second, ends]
  rfl

/-- A timer one second below its limit reaches it (R125, R134). -/
theorem secondEvent_timedOut {v : State} (at_ : v.seq.promptTimer = some 3599 ∨ v.seq.interruption = some 1799)
    (open_ : ¬(v.counts = true ∧ v.countSecond.durationReached = true)) :
    v.secondEvent = (v.countSecond.endAborted .timeout).runSettle := by
  refine secondEvent_late open_ ((timedOut_iff _).mpr ?_)
  rw [(countSecond_timers v).1, (countSecond_timers v).2]
  exact at_.imp (fun h => by rw [h]; rfl) (fun h => by rw [h]; rfl)

/-- Settles O45. -/
theorem second : Obligations.Second := by
  intro s
  refine ⟨⟨countSecond_timers s, rfl⟩, ?step, ?idle, ?plain, ?recipe, ?soak, ?prompt, ?interruption⟩
  case step =>
    intro at_ p r run step running inBand warm counted ended
    have counts : s.counts = true ↔ counted := by
      obtain recipe | service : p.kind = .recipe ∨ p.kind = .service := by cases p.kind <;> simp
      · rw [counts_recipe run step recipe, withinBand_iff]
        exact ⟨fun h => .inl ⟨recipe, h⟩, fun h => h.elim And.right (fun h => absurd (recipe.symm.trans h.1) (by decide))⟩
      · rw [counts_service run step service]
        exact ⟨fun h => .inr ⟨service, h⟩, fun h => h.elim (fun h => absurd (service.symm.trans h.1) (by decide)) And.right⟩
    have stepOf : s.countSecond.activeStep = some r := (countSecond_activeStep s).trans ((activeStep_of_run run).trans step)
    have reaches : s.counts = true ∧ s.countSecond.durationReached = true ↔ ended := by
      rw [durationReached_iff, countDuration_of_step stepOf]
      refine ⟨fun ⟨yes, d, limit, le⟩ => ⟨counts.mp yes, d, limit, ?_⟩, fun ⟨yes, d, limit, le⟩ => ⟨counts.mpr yes, d, limit, ?_⟩⟩
      · rwa [(countSecond_elapsed s).1 yes] at le
      · rwa [(countSecond_elapsed s).1 (counts.mpr yes)]
    refine ⟨counts, fun yes => (countSecond_elapsed s).1 (counts.mpr yes),
      fun no => (countSecond_elapsed s).2 (Bool.eq_false_iff.mpr (mt counts.mp no)), fun done other => ?_, fun done soak => ?_,
      fun open_ late => secondEvent_late (mt reaches.mp open_) ((timedOut_iff _).mpr late),
      fun open_ inTime => secondEvent_counts (mt reaches.mp open_) (Bool.eq_false_iff.mpr (mt (timedOut_iff _).mp inTime))⟩
    · obtain ⟨yes, reached⟩ := reaches.mpr done
      rw [secondEvent_ends yes reached, countEnds_recipe stepOf other]
    · obtain ⟨yes, reached⟩ := reaches.mpr done
      obtain ⟨scale, retained⟩ := soakDone_account s.countSecond
      refine ⟨s.countSecond.soakDone, ?_, scale, ?_, (soakDone_does _).only.mono (by decide)⟩
      · rw [secondEvent_ends yes reached, countEnds_soak stepOf soak]
      · rw [retained, scale]
        rfl
  case idle =>
    intro idle noPrompt noInterruption
    have none : s.counts = false := counts_idle idle
    have same : s.countSecond = s := countSecond_idle none noPrompt noInterruption
    rw [secondEvent_counts (by rw [none]; exact fun h => absurd h.1 (by decide)) ?_, same]
    rw [same]
    exact Bool.eq_false_iff.mpr (mt (timedOut_iff s).mp (by rw [noPrompt, noInterruption]; simp))
  case plain => exact fun due => crossingRow_second due due rfl
  case recipe =>
    intro due recipe ⟨counts, reached⟩ other
    have second : s.secondDue = true := (secondDue_iff s).mpr ((countEndDue_iff s).mp due).1
    refine crossingRow_second (by rw [due, recipe]; rfl) second ?_
    rw [secondEvent_ends counts reached]
    cases step : s.beforeSecond.activeStep with
    | none => exact absurd counts (by rw [State.counts, step]; simp)
    | some r => exact congrArg State.runSettle (countEnds_recipe ((countSecond_activeStep _).trans step) (other r step))
  case soak =>
    intro due service ⟨counts, reached⟩ ⟨r, step, soak⟩
    have second : s.secondDue = true := (secondDue_iff s).mpr ((countEndDue_iff s).mp due).1
    refine crossingRow_second (by rw [due, service]; rfl) second ?_
    rw [secondEvent_ends counts reached, countEnds_soak ((countSecond_activeStep _).trans step) soak]
  case prompt =>
    intro due at_ still open_
    exact crossingRow_second (by rw [due, at_]; decide) due (secondEvent_timedOut (.inl still) open_)
  case interruption =>
    intro due at_ still open_
    exact crossingRow_second (by rw [due, at_]; decide) due (secondEvent_timedOut (.inr still) open_)

end Sys2Proof.Machine
end

section
/-! PROOFS. The steam generator's operations (R85 to R95): the boiler state set, soak heating, drains and fills, each by what it
leaves of the steam generator. -/

namespace Sys2Proof.Machine

/-! ## What the operations read (R84, R85, R96) -/

/-- A fault bars heating (R96). -/
theorem barsHeating_iff (s : State) :
    s.barsHeating = true
      ↔ s.faults.cavityOverheat.active = true ∨ s.faults.boilerSensor.active = true ∨ s.faults.boilerDry.active = true := by
  simp only [State.barsHeating, State.faultActive, Bool.or_eq_true, or_assoc]
  rfl

/-- A fault bars filling (R96). -/
theorem barsFilling_iff (s : State) :
    s.barsFilling = true ↔ s.faults.boilerSensor.active = true ∨ s.faults.boilerDry.active = true := by
  simp only [State.barsFilling, State.faultActive, Bool.or_eq_true]
  rfl

/-- A fault that bars filling bars heating. -/
theorem barsHeating_of_filling {s : State} (bars : s.barsFilling = true) : s.barsHeating = true :=
  (barsHeating_iff s).mpr (.inr ((barsFilling_iff s).mp bars))

/-- A program is PAUSED by its flag, unless it is stopping (R119). -/
theorem suspended_iff_flags (s : State) :
    s.suspended = true ↔ s.hasActive = true ∧ s.seq.stopFlag = false ∧ s.seq.pauseFlag = true := by
  rw [suspended_iff, State.runState]
  cases s.hasActive <;> cases s.seq.stopFlag <;> cases s.seq.pauseFlag <;> cases s.anyHold <;> simp

/-- The pause outlasts what leaves the sequencer and the slots. -/
theorem suspended_congr {s t : State} (seq : t.seq = s.seq) (store : t.store = s.store) : t.suspended = s.suspended := by
  have run : t.hasActive = s.hasActive := by rw [State.hasActive, State.hasActive, State.activeRun, State.activeRun, seq, store]
  rw [Bool.eq_iff_iff, suspended_iff_flags, suspended_iff_flags, run, seq]

/-- The bars outlast what leaves the records. -/
theorem bars_congr {s t : State} (faults : t.faults = s.faults) :
    t.barsHeating = s.barsHeating ∧ t.barsFilling = s.barsFilling := by
  rw [State.barsHeating, State.barsHeating, State.barsFilling, State.barsFilling, State.faultActive, State.faultActive,
    State.faultActive, faults]
  exact ⟨rfl, rfl⟩

/-- OFF above the LOW probe, EMPTY below it (R87). -/
theorem stillState_eq (s : State) : s.stillState = if s.steam.low = some .wet then .off else .empty := by
  simp only [State.stillState, State.lowWet, decide_eq_true_eq]

/-- The state of a boiler that is to heat, by what bars it and by its temperature (R85, R96). -/
theorem heatState_cases (s : State) :
    (s.barsHeating = true → s.heatState = .off)
      ∧ (s.barsHeating = false → (∃ c, s.boilerInUse = some c ∧ 980 ≤ c) → s.heatState = .ready)
      ∧ (s.barsHeating = false → (¬∃ c, s.boilerInUse = some c ∧ 980 ≤ c) → s.heatState = .heating) := by
  simp only [State.heatState, ← boilerAtLeast_iff]
  refine ⟨fun bars => if_pos bars, fun free hot => ?_, fun free cold => ?_⟩
  · rw [free, hot]; rfl
  · rw [free, Bool.eq_false_iff.mpr cold]; rfl

/-- A record's activity outlasts what leaves the records. -/
theorem faultActive_congr {s t : State} {k : FaultKind} (faults : t.faults = s.faults) : t.faultActive k = s.faultActive k := by
  rw [State.faultActive, State.faultActive, faults]

/-- The state of a boiler that is to heat (R85, R96). -/
theorem heatState_eq (s : State) :
    s.heatState = if s.barsHeating then .off else if ∃ c, s.boilerInUse = some c ∧ 980 ≤ c then .ready else .heating := by
  simp only [State.heatState, boilerAtLeast_iff]

/-- The temperature in use outlasts what leaves the records and the last reading. -/
theorem boilerInUse_congr {s t : State} (faults : t.faults = s.faults) (last : t.steam.lastBoiler = s.steam.lastBoiler) :
    t.boilerInUse = s.boilerInUse := by
  rw [State.boilerInUse, State.boilerInUse, faultActive_congr faults, last]

/-- So does the state of a boiler that is to heat. -/
theorem heatState_congr {s t : State} (faults : t.faults = s.faults) (last : t.steam.lastBoiler = s.steam.lastBoiler) :
    t.heatState = s.heatState := by
  have hot : t.boilerAtLeast 980 = s.boilerAtLeast 980 := by
    rw [State.boilerAtLeast, State.boilerAtLeast, boilerInUse_congr faults last]
  rw [State.heatState, State.heatState, (bars_congr faults).1, hot]

/-- Why a fill that starts with a tank waits (R89). -/
theorem fillWaitFor_eq (t : Option Tank) :
    fillWaitFor t = match t with
      | some (.present .empty) => some .empty
      | some (.present _) => none
      | _ => some .absent := by
  cases t with
  | none => rfl
  | some tank => cases tank with
    | absent => rfl
    | present level => cases level <;> rfl

/-- A fill that does not wait awaits its stroke. -/
theorem fillWaitFor_none (t : Option Tank) : strokeUnder (fillWaitFor t) = .awaiting ↔ fillWaitFor t = none := by
  cases fillWaitFor t <;> simp [strokeUnder]

/-! ## A withdrawn boiler stays withdrawn (R49) -/

/-- A frame runs, from which the boiler is withdrawn. -/
abbrev State.BoilerOut (s : State) : Prop := s.load.running = true ∧ s.load.withdrawn.boiler = true

/-- A withdrawal of the boiler from a frame that runs. -/
theorem withdrawBoiler_out {s : State} (running : s.load.running = true) : s.withdrawBoiler.BoilerOut :=
  ⟨by rw [State.withdrawBoiler, State.withdraw, State.mapLoad, LoadFrame.withdraw, if_pos running]; exact running,
    withdraw_withdrawn _ s running .boiler rfl⟩

/-- A boiler state set does not take it back. -/
theorem setBoiler_out {s : State} (b : BoilerState) (out : s.BoilerOut) : (s.setBoiler b).BoilerOut := by
  unfold State.setBoiler
  dsimp only
  split
  · exact withdrawBoiler_out out.1
  · exact out

/-- Nor does the end of soak heating. -/
theorem endSoak_out {s : State} (out : s.BoilerOut) : s.endSoak.BoilerOut := by
  unfold State.endSoak
  split
  · exact withdrawBoiler_out out.1
  · exact out

/-- Nor does its start. -/
theorem startSoak_out {s : State} (out : s.BoilerOut) : s.startSoak.BoilerOut := by
  unfold State.startSoak
  dsimp only
  split
  · exact setBoiler_out .off out
  · exact setBoiler_out .off out

/-- Nor a drain that starts. -/
theorem beginDrain_out {s : State} (serves : Bool) (out : s.BoilerOut) : (s.beginDrain serves).BoilerOut := by
  unfold State.beginDrain
  dsimp only
  split
  · exact setBoiler_out .off (endSoak_out out)
  · exact endSoak_out out

/-- Nor the end of a fill. -/
theorem fillEnds_out {s : State} (out : s.BoilerOut) : s.fillEnds.BoilerOut := by
  have stopped : (s.mapSteam Steam.stopPump).BoilerOut := out
  have told : ((s.mapSteam Steam.stopPump).strokeEvent).BoilerOut := by
    obtain ⟨a, r, event⟩ := strokeEvent_blocks (s.mapSteam Steam.stopPump)
    rw [event]
    exact out
  unfold State.fillEnds
  dsimp only
  split
  · exact setBoiler_out _ stopped
  · split
    · exact setBoiler_out .off told
    · exact setBoiler_out .off stopped
  · exact startSoak_out stopped
  · exact beginDrain_out true (setBoiler_out .off stopped)
  · exact setBoiler_out _ stopped
  · exact setBoiler_out _ stopped

/-- Nor its start. -/
theorem startFill_out {s : State} (out : s.BoilerOut) : s.startFill.BoilerOut := by
  unfold State.startFill
  dsimp only
  split
  · exact out
  · split
    · exact fillEnds_out (s := (s.setBoiler .filling).mapSteam (fun w => { w with strokes := 0 })) (setBoiler_out .filling out)
    · exact setBoiler_out .filling out

/-- Nor the service of a request. -/
theorem serve_out {s : State} (out : s.BoilerOut) : s.serve.BoilerOut := by
  unfold State.serve
  split
  · exact out
  · split
    · exact out
    · split
      · exact out
      · split
        · exact setBoiler_out _ out
        · exact startFill_out out
    · exact startFill_out out
    · split
      · exact startSoak_out out
      · exact startFill_out out
    · exact beginDrain_out true out
    · exact startFill_out out

/-! ## Soak heating and drains (R91, R95) -/

/-- Soak heating is set over a boiler that is OFF, unless a fault bars it or the program is PAUSED (R95, R96). -/
theorem startSoak_steam (s : State) :
    s.startSoak.steam.boiler = .off
      ∧ (s.startSoak.steam.soakHeating = true ↔ s.steam.soakHeating = true ∨ (s.barsHeating = false ∧ s.suspended = false)) := by
  have off := setBoiler_steam .off s
  by_cases bars : (s.barsHeating || s.suspended) = true
  · have same : s.startSoak = s.setBoiler .off := if_pos bars
    rw [same, off]
    refine ⟨rfl, fun set => .inl set, fun h => h.resolve_right fun ⟨free, runs⟩ => ?_⟩
    rw [free, runs] at bars
    cases bars
  · have set : s.startSoak = (s.setBoiler .off).mapSteam (fun w => { w with soakHeating := true }) := if_neg bars
    rw [set]
    refine ⟨?_, fun _ => .inr ?_, fun _ => rfl⟩
    · show (s.setBoiler .off).steam.boiler = .off
      rw [off]
    · rwa [Bool.not_eq_true, Bool.or_eq_false_iff] at bars

/-- What the start of soak heating leaves of the pump and the drains. -/
theorem startSoak_fields (s : State) :
    s.startSoak.steam.stroke = s.steam.stroke ∧ s.startSoak.steam.fillWait = s.steam.fillWait
      ∧ s.startSoak.steam.strokes = s.steam.strokes := by
  have off := setBoiler_steam .off s
  unfold State.startSoak
  dsimp only
  split
  · rw [off]
    exact ⟨rfl, rfl, rfl⟩
  · show (s.setBoiler .off).steam.stroke = _ ∧ (s.setBoiler .off).steam.fillWait = _ ∧ (s.setBoiler .off).steam.strokes = _
    rw [off]
    exact ⟨rfl, rfl, rfl⟩

/-- The steam generator once a drain has started (R91). -/
theorem beginDrain_steam (serves : Bool) (s : State) :
    (s.beginDrain serves).steam
      = { s.steam with
          boiler := if s.steam.boiler.working then .off else s.steam.boiler
          soakHeating := false, drainStarted := true, drainServes := serves, coolWait := some .zero } := by
  have boiler : s.endSoak.steam.boiler = s.steam.boiler := by rw [endSoak_steam]
  unfold State.beginDrain
  dsimp only
  rw [boiler]
  split
  · show { (s.endSoak.setBoiler .off).steam with drainStarted := true, drainServes := serves, coolWait := some .zero } = _
    rw [setBoiler_steam, endSoak_steam]
  · show { s.endSoak.steam with drainStarted := true, drainServes := serves, coolWait := some .zero } = _
    rw [endSoak_steam]

/-! ## Fills (R85, R88, R89) -/

/-- A fill under STEAM ends in heating (R85). -/
theorem fillEnds_steam {s : State} (steam : s.steam.request = .steam) :
    s.fillEnds.steam = { s.steam.stopPump with boiler := s.heatState } := by
  have ends : s.fillEnds = (s.mapSteam Steam.stopPump).setBoiler (s.mapSteam Steam.stopPump).heatState := by
    rw [State.fillEnds, steam]
  rw [ends, setBoiler_steam, heatState_congr (s := s) rfl rfl]
  rfl

/-- A fill under FILL ends OFF, and its completion is handed; one without a stroke is a stroke event (R95, R154). -/
theorem fillEnds_fill {s : State} (fill : s.steam.request = .fill) :
    s.fillEnds.steam = { s.steam.stopPump with boiler := .off, handed := some .fillComplete }
      ∧ (s.steam.strokes = 0 → s.fillEnds.scale.rinseOwed = true
          ∧ (s.scale.rinseOwed = false → s.fillEnds.scale.drainOnStop = true))
      ∧ (s.steam.strokes ≠ 0 → s.fillEnds.scale = s.scale) := by
  let t := s.mapSteam Steam.stopPump
  have ends : s.fillEnds
      = ((if s.steam.strokes = 0 then t.strokeEvent else t).setBoiler .off).mapSteam
          (fun w => { w with handed := some .fillComplete }) := by
    rw [State.fillEnds, fill]
  have pump : (if s.steam.strokes = 0 then t.strokeEvent else t).steam = s.steam.stopPump := by
    split
    · exact strokeEvent_steam t
    · rfl
  have account : s.fillEnds.scale = (if s.steam.strokes = 0 then t.strokeEvent else t).scale := by
    rw [ends]
    exact (setBoiler_does .off _).only.scale
  refine ⟨?_, fun none => ?_, fun some => ?_⟩
  · rw [ends]
    show { (State.setBoiler .off (if s.steam.strokes = 0 then t.strokeEvent else t)).steam with handed := some .fillComplete } = _
    rw [setBoiler_steam, pump]
  · rw [account, if_pos none]
    cases owed : s.scale.rinseOwed with
    | false =>
      rw [strokeEvent_yes (s := t) ⟨fill, owed⟩]
      exact ⟨rfl, fun _ => rfl⟩
    | true =>
      rw [strokeEvent_no (s := t) (fun first => absurd (owed.symm.trans first.2) (by decide))]
      exact ⟨owed, fun no => by cases no⟩
  · rw [account, if_neg some]
    rfl

/-- A fill under SOAK goes on to soak heating (R95). -/
theorem fillEnds_soak {s : State} (soak : s.steam.request = .soak) : s.fillEnds = (s.mapSteam Steam.stopPump).startSoak := by
  rw [State.fillEnds, soak]

/-- A fill under RINSE goes on to its drain (R95). -/
theorem fillEnds_rinse {s : State} (rinse : s.steam.request = .rinse) :
    s.fillEnds = ((s.mapSteam Steam.stopPump).setBoiler .off).beginDrain true := by
  rw [State.fillEnds, rinse]

/-- The steam generator as that drain starts. -/
theorem fillEnds_rinse_steam {s : State} (rinse : s.steam.request = .rinse) :
    s.fillEnds.steam
      = { s.steam.stopPump with
          boiler := .off, soakHeating := false, drainStarted := true, drainServes := true, coolWait := some .zero } := by
  rw [fillEnds_rinse rinse, beginDrain_steam, setBoiler_steam]
  rfl

/-- A fill that has lost its request ends (R88). -/
theorem fillEnds_rest {s : State} (rest : s.steam.request = .none ∨ s.steam.request = .drain) :
    s.fillEnds.steam = { s.steam.stopPump with boiler := s.stillState } := by
  have ends : s.fillEnds = (s.mapSteam Steam.stopPump).setBoiler (s.mapSteam Steam.stopPump).stillState := by
    obtain none | drain := rest
    · rw [State.fillEnds, none]
    · rw [State.fillEnds, drain]
  rw [ends, setBoiler_steam]
  rfl

/-- A fill that ends leaves no stroke and no wait. -/
theorem fillEnds_pump (s : State) :
    s.fillEnds.steam.stroke = .idle ∧ s.fillEnds.steam.fillWait = none ∧ s.fillEnds.steam.strokes = s.steam.strokes := by
  cases request : s.steam.request with
  | none => rw [fillEnds_rest (.inl request)]; exact ⟨rfl, rfl, rfl⟩
  | drain => rw [fillEnds_rest (.inr request)]; exact ⟨rfl, rfl, rfl⟩
  | steam => rw [fillEnds_steam request]; exact ⟨rfl, rfl, rfl⟩
  | fill => rw [(fillEnds_fill request).1]; exact ⟨rfl, rfl, rfl⟩
  | soak => rw [fillEnds_soak request]; exact startSoak_fields (s.mapSteam Steam.stopPump)
  | rinse => rw [fillEnds_rinse_steam request]; exact ⟨rfl, rfl, rfl⟩

/-- A barred fill does not start (R96). -/
theorem startFill_barred {s : State} (bars : s.barsFilling = true) : s.startFill = s := if_pos bars

/-- A fill that has begun with a fresh stroke budget (R88). -/
def State.fillBegun (s : State) : State := (s.setBoiler .filling).mapSteam (fun w => { w with strokes := 0 })

/-- The steam generator of that fill. -/
theorem fillBegun_steam (s : State) : s.fillBegun.steam = { s.steam with boiler := .filling, strokes := 0 } := by
  show { (s.setBoiler .filling).steam with strokes := 0 } = _
  rw [setBoiler_steam]

/-- Beginning a fill changes the boiler alone. -/
theorem fillBegun_only (s : State) : Only [.boiler, .withdrawn] s s.fillBegun := by
  have fresh : Only [.boiler] (s.setBoiler .filling) s.fillBegun := by
    intro a h
    cases a
    case boiler => exact absurd (by decide) h
    all_goals rfl
  exact (setBoiler_does .filling s).only.trans (fresh.mono (by decide))

/-- A fill that finds HIGH wet ends at once (R88). -/
theorem startFill_ends {s : State} (free : s.barsFilling = false) (high : s.steam.high = some .wet) :
    s.startFill = s.fillBegun.fillEnds := by
  have full : s.highWet = true := decide_eq_true high
  rw [State.startFill, if_neg (by rw [free]; decide)]
  exact if_pos full

/-- Any other fills, or waits for its tank (R88, R89). -/
theorem startFill_fills {s : State} (free : s.barsFilling = false) (high : s.steam.high ≠ some .wet) :
    s.startFill.steam
        = { s.steam with
            boiler := .filling, strokes := 0, fillWait := fillWaitFor s.steam.tank, stroke := strokeUnder (fillWaitFor s.steam.tank) }
      ∧ s.startFill.scale = s.scale := by
  have room : s.highWet = false := decide_eq_false high
  have fills : s.startFill
      = s.fillBegun.mapSteam (fun w => { w with fillWait := fillWaitFor w.tank, stroke := strokeUnder (fillWaitFor w.tank) }) := by
    rw [State.startFill, if_neg (by rw [free]; decide)]
    exact if_neg (by rw [room]; decide)
  rw [fills]
  refine ⟨?_, (setBoiler_does .filling s).only.scale⟩
  rw [State.mapSteam_steam, fillBegun_steam]

end Sys2Proof.Machine
end

section
/-! PROOFS. The pump, the tank and the level probes (R80, R81, R87 to R90, R92). -/

namespace Sys2Proof.Machine

/-! ## The pump (R88, R89, R154) -/

/-- The outputs are in force unless a configuration fault or MAINS stops them (R198). -/
theorem outputs_iff (s : State) : s.outputsOn = true ↔ s.startup.stage ≠ .configFault ∧ s.mainsOut = false := by
  rw [outputsOn_iff, not_or, Bool.not_eq_true]

/-- Without a fill, and while the program is PAUSED, the pump stands. -/
theorem strokeCrossing_stands {s : State} (stands : ¬(s.steam.boiler = .filling ∧ s.suspended = false) ∨ s.steam.stroke = .idle) :
    s.strokeCrossing = s := by
  by_cases pumping : s.steam.boiler = .filling ∧ s.suspended = false
  · have idle : s.steam.stroke = .idle := stands.resolve_left (fun no => no pumping)
    rw [State.strokeCrossing, if_pos pumping, idle]
  · exact if_neg pumping

/-- A stroke that waits begins (R88). -/
theorem strokeCrossing_begins {s : State} (pumping : s.steam.boiler = .filling ∧ s.suspended = false)
    (waits : s.steam.stroke = .awaiting) : s.strokeCrossing = s.beginStroke := by
  rw [State.strokeCrossing, if_pos pumping, waits]

/-- A stroke runs for 25 cycles (R88). -/
theorem strokeCrossing_runs {s : State} (pumping : s.steam.boiler = .filling ∧ s.suspended = false) {c : Nat}
    (stroke : s.steam.stroke = .running c) (more : c < 24) :
    s.strokeCrossing = { s with steam := { s.steam with stroke := .running (c + 1) } } := by
  rw [State.strokeCrossing, if_pos pumping, stroke]
  exact if_pos (by omega)

/-- A stroke at its end is followed by the next (R88). -/
theorem strokeCrossing_next {s : State} (pumping : s.steam.boiler = .filling ∧ s.suspended = false)
    (stroke : s.steam.stroke = .running 24) (budget : s.steam.strokes < 80) : s.strokeCrossing = s.beginStroke := by
  rw [State.strokeCrossing, if_pos pumping, stroke]
  exact (if_neg (by decide)).trans (if_neg (Nat.not_le.mpr budget))

/-- The 80th ends the budget, and the fill waits (R89). -/
theorem strokeCrossing_spent {s : State} (pumping : s.steam.boiler = .filling ∧ s.suspended = false)
    (stroke : s.steam.stroke = .running 24) (spent : 80 ≤ s.steam.strokes) :
    s.strokeCrossing = { s with steam := { s.steam with stroke := .idle, fillWait := some .budget } } := by
  rw [State.strokeCrossing, if_pos pumping, stroke]
  exact (if_neg (by decide)).trans (if_pos spent)

/-- A crossing within a frame, everything counted but the pump (R48). -/
def State.cycleCounted (s : State) : State :=
  (((s.advanceLfsr.mapLoad (fun l => { l with cycle := l.cycle + 1 })).switchGates).countCycle)

/-- A crossing within a frame ends with the pump. -/
theorem crossed_pump {s : State} (within : s.InFrame) : s.crossed = s.cycleCounted.strokeCrossing := crossed_inFrame within

/-- What the pump reads is not counted. -/
theorem cycleCounted_pump (s : State) :
    s.cycleCounted.steam.boiler = s.steam.boiler ∧ s.cycleCounted.suspended = s.suspended
      ∧ s.cycleCounted.steam.stroke = s.steam.stroke ∧ s.cycleCounted.steam.strokes = s.steam.strokes
      ∧ s.cycleCounted.scale = s.scale ∧ s.cycleCounted.steam.request = s.steam.request := by
  obtain ⟨boiler, suspended, stroke, strokes, scale, request⟩ :=
    countCycle_boilerKept ((s.advanceLfsr.mapLoad (fun l => { l with cycle := l.cycle + 1 })).switchGates)
  exact ⟨boiler, suspended.trans rfl, stroke, strokes, scale, request⟩

/-- What a crossing within a frame may change before its timers act (R48, R88). -/
theorem crossed_inFrame_only {s : State} (within : s.InFrame) :
    Only [.lfsr, .frame, .gates, .ventTimer, .doorTimer, .clock, .boiler, .scaleFlags, .writes] s s.crossed := by
  have ⟨_, running, more⟩ := within
  have counted : Only ([.lfsr, .frame, .gates, .ventTimer, .doorTimer, .clock] ++ waterAspects) s s.crossed := by
    rw [crossed_inFrame within]
    exact (((advanceLfsr_does s).seq (nextSwitch_does (s := s.advanceLfsr) running more)).seq (countCrossing_does _)).only.mono
      (by decide)
  have kept : Same .withdrawn s s.crossed := by
    obtain ⟨w, a, r, pump⟩ := strokeCrossing_blocks s.cycleCounted
    rw [crossed_pump within, pump]
    exact (rfl : s.cycleCounted.load.withdrawn = s.load.withdrawn)
  intro a h
  by_cases withdrawn : a = .withdrawn
  · rw [withdrawn]
    exact kept
  · exact counted a fun mem => h (by simpa [withdrawn] using mem)

/-- Settles O42. -/
theorem pumpStrokes : Obligations.PumpStrokes := by
  intro s under begun pumping
  refine ⟨strokeCrossing_stands, ?begins, fun c at_ => strokeCrossing_runs at_, ?next, strokeCrossing_spent, ?row, ?output⟩
  case begins =>
    intro at_ waits
    rw [strokeCrossing_begins at_ waits]
    exact beginStroke_changes s
  case next =>
    intro at_ stroke budget
    rw [strokeCrossing_next at_ stroke budget]
    exact beginStroke_changes s
  case row =>
    intro within at_ stroke
    obtain ⟨boiler, suspended, stroke', strokes, scale, request⟩ := cycleCounted_pump s
    have pumping' : s.cycleCounted.steam.boiler = .filling ∧ s.cycleCounted.suspended = false := by
      rw [boiler, suspended]
      exact at_
    have running' : s.cycleCounted.steam.stroke = .running 24 := stroke'.trans stroke
    have under' : (s.cycleCounted.steam.request = .fill ∧ s.cycleCounted.scale.rinseOwed = false) ↔ under := by rw [request, scale]
    have due : s.strokeEndDue = true := (strokeEndDue_iff s).mpr ⟨within.1, at_.1, at_.2, stroke⟩
    refine ⟨s.crossed, ?_, fun budget => ?_, fun spent => ?_, crossed_inFrame_only within⟩
    · show s.report_ (s.crossingWhen s.strokeEndDue) = _
      rw [State.crossingWhen, if_pos due, crossing_eq within.1, fire_rest]
      rfl
    · rw [crossed_pump within, strokeCrossing_next pumping' running' (by rwa [strokes])]
      obtain ⟨begins, counted, -, first, other⟩ := beginStroke_changes s.cycleCounted
      refine ⟨begins, counted.trans (by rw [strokes]), fun yes => ?_, fun no => ?_⟩
      · rw [(first (under'.mpr yes)).1, scale]
      · exact (other (fun yes => no (under'.mp yes))).1.trans scale
    · rw [crossed_pump within, strokeCrossing_spent pumping' running' (by rwa [strokes])]
      exact ⟨rfl, rfl, strokes, scale⟩
  case output =>
    rw [State.pumpOn, Bool.and_eq_true, Bool.and_eq_true, outputs_iff, decide_eq_true_eq, and_assoc, and_assoc]
    cases s.steam.stroke <;> simp

/-! ## The tank (R81, R89, R90) -/

/-- The tank is PRESENT (R81). -/
theorem tankPresent_iff (s : State) : s.tankPresent = true ↔ ∃ level, s.steam.tank = some (.present level) := by
  unfold State.tankPresent
  cases s.steam.tank with
  | none => simp
  | some tank => cases tank <;> simp

/-- The drain valve stands open while DRAINING, but for an absent tank and MAINS (R92). -/
theorem drainValveOpen_iff (s : State) :
    s.drainValveOpen = true
      ↔ s.startup.stage ≠ .configFault ∧ s.mainsOut = false ∧ s.steam.boiler = .draining
        ∧ ∃ level, s.steam.tank = some (.present level) := by
  simp only [State.drainValveOpen, Bool.and_eq_true, outputs_iff, decide_eq_true_eq, tankPresent_iff, and_assoc]

/-- An arrival with no fill that waits leaves the level alone. -/
theorem tankHere_rests {w : Steam} (rests : ¬(w.boiler = .filling) ∨ w.fillWait = none) (level : TankLevel) :
    w.tankHere level = { w with tank := some (.present level) } := by
  refine if_neg fun ⟨filling, waits⟩ => ?_
  obtain other | none := rests
  · exact other filling
  · rw [none] at waits
    cases waits

/-- A fill that waits goes on waiting for an empty tank (R90). -/
theorem tankHere_empty {w : Steam} (filling : w.boiler = .filling) (waits : w.fillWait ≠ none) :
    w.tankHere .empty = { w with tank := some (.present .empty), fillWait := some .empty, stroke := .idle } :=
  if_pos ⟨filling, Option.isSome_iff_ne_none.mpr waits⟩

/-- It resumes with water (R90). -/
theorem tankHere_resumes {w : Steam} (filling : w.boiler = .filling) (waits : w.fillWait ≠ none) {level : TankLevel}
    (water : level ≠ .empty) :
    w.tankHere level = { w with tank := some (.present level), fillWait := none, strokes := 0, stroke := .awaiting } := by
  refine (if_pos ⟨filling, Option.isSome_iff_ne_none.mpr waits⟩).trans ?_
  cases level with
  | empty => exact absurd rfl water
  | low => rfl
  | ok => rfl

/-- A fill in progress waits for a tank that is gone (R89). -/
theorem tankGone_filling {w : Steam} (filling : w.boiler = .filling) :
    w.tankGone = { w with tank := some .absent, fillWait := some .absent, stroke := .idle } := if_pos filling

/-- Without a fill nothing waits. -/
theorem tankGone_other {w : Steam} (other : w.boiler ≠ .filling) : w.tankGone = { w with tank := some .absent } := if_neg other

/-- A fill in progress waits for an emptied tank (R89). -/
theorem levelChanges_empty {w : Steam} (filling : w.boiler = .filling) (runs : w.fillWait = none) :
    w.levelChanges .empty = { w with tank := some (.present .empty), fillWait := some .empty, stroke := .idle } := by
  simp only [Steam.levelChanges, if_pos filling, runs, Steam.waitFill]

/-- A fill that waited for water resumes (R90). -/
theorem levelChanges_resumes {w : Steam} (filling : w.boiler = .filling) (waits : w.fillWait = some .empty) {level : TankLevel}
    (water : level ≠ .empty) :
    w.levelChanges level = { w with tank := some (.present level), fillWait := none, strokes := 0, stroke := .awaiting } := by
  cases level with
  | empty => exact absurd rfl water
  | low => simp only [Steam.levelChanges, if_pos filling, waits, Steam.resumeFill]
  | ok => simp only [Steam.levelChanges, if_pos filling, waits, Steam.resumeFill]

/-- Any other change is of the level alone. -/
theorem levelChanges_rests {w : Steam} {level : TankLevel}
    (rests : ¬(w.boiler = .filling) ∨ (level = .empty ∧ w.fillWait ≠ none) ∨ (level ≠ .empty ∧ w.fillWait ≠ some .empty)) :
    w.levelChanges level = { w with tank := some (.present level) } := by
  by_cases filling : w.boiler = .filling
  · refine (if_pos filling).trans ?_
    obtain ⟨empty, waits⟩ | ⟨water, waits⟩ := rests.resolve_left (fun no => no filling)
    · subst empty
      cases wait : w.fillWait with
      | none => exact absurd wait waits
      | some cause => rfl
    · cases level with
      | empty => exact absurd rfl water
      | low => split <;> simp_all
      | ok => split <;> simp_all
  · exact if_neg filling

/-- A row of the tank whose condition holds is its change, and what follows from it (R81). -/
theorem tankRow {s : State} {c : Prop} [Decidable c] (comes : c) {f : Steam → Steam} {w : Steam} (change : f s.steam = w) :
    s.report_ (if c then (s.mapSteam f).runSettle else s) = .next (s.reported (State.runSettle { s with steam := w })) := by
  rw [if_pos comes, State.mapSteam, change]
  rfl

/-- Settles O41. -/
theorem tankEvents : Obligations.TankEvents := by
  intro s filling
  refine ⟨fun level other => report_of_not other, ?arrives, fun absent => report_of_not ?_, ?removed,
    fun level same => report_of_not ?_, ?changes⟩
  case arrives =>
    intro level absent w
    refine ⟨fun rests => tankRow absent (tankHere_rests rests level), fun at_ waits empty => ?_, fun at_ waits water => ?_⟩
    · subst empty
      exact tankRow absent (tankHere_empty at_ waits)
    · exact tankRow absent (tankHere_resumes at_ waits water)
  · exact fun present => let ⟨level, at_⟩ := (tankPresent_iff s).mp present; absent level at_
  case removed =>
    intro present w
    have here : s.tankPresent = true := (tankPresent_iff s).mpr present
    refine ⟨fun at_ => tankRow here (tankGone_filling at_), fun other => tankRow here (tankGone_other other), ?_⟩
    exact Bool.and_false _
  · intro change
    rw [Bool.and_eq_true, tankPresent_iff, decide_eq_true_eq] at change
    obtain ⟨⟨old, at_⟩, other⟩ := change
    exact same.elim (fun absent => absent old at_) other
  case changes =>
    intro level old at_ other w
    have comes : (s.tankPresent && decide (s.steam.tank ≠ some (.present level))) = true := by
      rw [Bool.and_eq_true, tankPresent_iff, decide_eq_true_eq, at_]
      exact ⟨⟨old, rfl⟩, fun same => other (by injection Option.some_inj.mp same)⟩
    refine ⟨fun fills empty runs => ?_, fun fills water waits => tankRow comes (levelChanges_resumes fills waits water),
      fun rests => tankRow comes (levelChanges_rests rests)⟩
    subst empty
    exact tankRow comes (levelChanges_empty fills runs)

end Sys2Proof.Machine
end

section
/-! PROOFS. The drain that times out (R93), and the level probes (R80, R87, R88, R92). -/

namespace Sys2Proof.Machine

/-! ## A drain that times out (R93) -/

/-- A latching record stays active when its condition goes (R164). -/
theorem goes_active {k : FaultKind} (latching : k.latching = true) (r : FaultRecord) : (r.goes k).active = r.active := by
  unfold FaultRecord.goes
  rw [if_pos latching]
  split <;> rfl

/-- So nothing ends with it. -/
theorem condGone_latching {k : FaultKind} (latching : k.latching = true) (s : State) :
    s.condGone k = s.setFault k (FaultRecord.goes k) := by
  have stays : (s.setFault k (FaultRecord.goes k)).faultActive k = s.faultActive k := by
    show ((s.faults.set k ((s.faults.get k).goes k)).get k).active = _
    rw [get_set_same, goes_active latching]
    rfl
  refine if_neg ?_
  rw [stays]
  cases s.faultActive k <;> decide

/-- The boiler OFF with a drain owed, no valve and no timer of one. -/
structure Steam.OwesOff (why : OwedDrain) (w : Steam) : Prop where
  boiler : w.boiler = .off
  owed : w.owed = some why
  drainTimer : w.drainTimer = none
  runOn : w.runOn = none

/-- NONE handed to such a boiler leaves it so. -/
theorem handNone_owesOff {why : OwedDrain} {s : State} (off : s.steam.OwesOff why) : (s.handRequest .none).steam.OwesOff why := by
  by_cases same : BoilerRequest.none = s.steam.request
  · rw [handRequest_same same]
    exact off
  · obtain ⟨boiler, owed, drainTimer, runOn⟩ := off
    have kept : s.steam.dropDrain = s.steam := by simp [Steam.dropDrain, owed]
    have left : ((s.requestTaken .none).leaveRequest .none).steam.OwesOff why := by
      have taken : (s.requestTaken .none).steam.boiler = .off := by
        show s.steam.dropDrain.boiler = .off
        rw [kept, boiler]
      rw [leaveRequest_steam, if_neg (by rw [taken]; decide), taken]
      show Steam.OwesOff why { (s.requestTaken .none).steam with boiler := .off, soakHeating := _ }
      exact ⟨rfl, by rw [← owed, ← kept]; rfl, by rw [← drainTimer, ← kept]; rfl, by rw [← runOn, ← kept]; rfl⟩
    rw [handRequest_other same, serve_noRequest _ (requestPlaced_request .none s)]
    show Steam.OwesOff why { (((s.requestTaken .none).leaveRequest .none).steam.clearOwed .none) with drainServes := _ }
    rw [clearOwed_none]
    exact ⟨left.boiler, left.owed, left.drainTimer, left.runOn⟩

/-- The end of a program leaves it so. -/
theorem endProgram_owesOff {why : OwedDrain} {s : State} (off : s.steam.OwesOff why) (o : ProgramOutcome) :
    (s.endProgram o).steam.OwesOff why := by
  cases run : s.activeRun with
  | none =>
    rw [endProgram_none run]
    exact off
  | some active =>
    obtain ⟨at_, p⟩ := active
    let closing := (s.mapStore (Store.finish at_.slot p o)).recordNone
    have same : closing.steam = s.steam := (recordNone_does _).only.steam
    have handed := handNone_owesOff (s := closing) (by rw [same]; exact off)
    have released : closing.releaseBoiler = (closing.handRequest .none).mapSteam (fun w => { w with used := false }) := by
      refine if_neg ?_
      rw [handed.owed]
      simp
    rw [endProgram_eq run, updateCeiling_steam]
    show Steam.OwesOff why { closing.releaseBoiler.steam with handed := none }
    rw [released]
    exact ⟨handed.boiler, handed.owed, handed.drainTimer, handed.runOn⟩

/-- DRAIN_TIMEOUT ends the program (R171). -/
theorem drainTimeout_program (s : State) : s.programFault .drainTimeout = s.endAborted .fault := by
  cases run : s.activeRun with
  | none =>
    rw [State.endAborted, endProgram_none run, State.programFault, State.activeProgram, run]
    rfl
  | some active =>
    obtain ⟨at_, p⟩ := active
    obtain recipe | service : p.kind = .recipe ∨ p.kind = .service := by cases p.kind <;> simp
    · rw [programFault_recipe run recipe]
      exact if_pos (.inl (.inl (.inr (.inl rfl))))
    · rw [programFault_service run service]
      exact if_pos (.inl (.inr (.inl rfl)))

/-- The valve closes, and its drain is owed (R93). -/
theorem drainTimesOut_owesOff (s : State) : s.drainTimesOut.steam.OwesOff .timedOut := ⟨rfl, rfl, rfl, rfl⟩

/-- DRAIN_TIMEOUT raised leaves the boiler OFF with its drain owed (R93). -/
theorem raiseDrainTimeout_owesOff {why : OwedDrain} {s : State} (off : s.steam.OwesOff why) :
    s.raiseDrainTimeout.steam.OwesOff why := by
  rw [State.raiseDrainTimeout, condGone_latching rfl]
  show (s.raise .drainTimeout).steam.OwesOff why
  cases active : (s.faults.get .drainTimeout).active with
  | true =>
    have again : s.raise .drainTimeout = s.setFault .drainTimeout FaultRecord.arise := if_pos active
    rw [again]
    exact off
  | false =>
    rw [raise_steam active, drainTimeout_program]
    exact endProgram_owesOff (s := s.faultCut .drainTimeout) off _

/-- The record of DRAIN_TIMEOUT, raised and latched at once (R93, R164). -/
theorem raiseDrainTimeout_record {s : State} (inactive : s.faults.drainTimeout.active = false) :
    s.raiseDrainTimeout.faults.drainTimeout = ⟨true, true, min 255 (s.faults.drainTimeout.count + 1)⟩ := by
  have raised : (s.raise .drainTimeout).faults.get .drainTimeout = ⟨true, false, min 255 (s.faults.drainTimeout.count + 1)⟩ :=
    (raise_get_same .drainTimeout s).trans (arise_of_inactive inactive)
  have gone : s.raiseDrainTimeout.faults.get .drainTimeout = _ := condGone_get_same .drainTimeout (s.raise .drainTimeout)
  rw [raised] at gone
  exact gone

/-- DRAIN_TIMEOUT raised ends the program ABORTED(FAULT) (R171). -/
theorem raiseDrainTimeout_program {s : State} (inactive : s.faults.drainTimeout.active = false) {at_ : Position} {p : Program}
    (run : s.activeRun = some (at_, p)) :
    s.raiseDrainTimeout.store.slot at_.slot = .done p (.aborted .fault) ∧ s.raiseDrainTimeout.seq.run = none := by
  obtain ⟨store, seq⟩ := raise_program (k := .drainTimeout) (s := s) inactive
  have ends := endAborted_program (s := s.faultCut .drainTimeout) run .fault
  rw [State.raiseDrainTimeout, condGone_latching rfl]
  show (s.raise .drainTimeout).store.slot at_.slot = _ ∧ (s.raise .drainTimeout).seq.run = none
  rw [store, seq, drainTimeout_program]
  exact ⟨ends.1, ends.2.1⟩

/-- A drain that times out leaves the boiler OFF with its drain owed (R93). -/
theorem drainTimeoutEvent_owesOff (s : State) : s.drainTimeoutEvent.steam.OwesOff .timedOut :=
  raiseDrainTimeout_owesOff (drainTimesOut_owesOff s)

/-- The drain timer stands at 90 s or more (R93). -/
theorem drainOverdue_iff (w : Steam) : w.drainOverdue = true ↔ ∃ d, w.drainTimer = some d ∧ 90 ≤ d.seconds := by
  unfold Steam.drainOverdue
  cases w.drainTimer <;> simp

/-- A run-on that LOW wet finds overdue (R93). -/
theorem lowWetTimesOut_iff (s : State) :
    s.lowWetTimesOut = true
      ↔ s.steam.boiler = .draining ∧ s.steam.runOn ≠ none ∧ ∃ d, s.steam.drainTimer = some d ∧ 90 ≤ d.seconds := by
  simp only [State.lowWetTimesOut, Bool.and_eq_true, decide_eq_true_eq, Option.isSome_iff_ne_none, drainOverdue_iff, and_assoc]

/-! ## LOW dry (R49, R87, R92, R95) -/

/-- LOW dry, the boiler withdrawn, nothing done by its state yet. -/
def State.lowDried (s : State) : State := (s.mapSteam (fun w => { w with low := some .dry })).withdrawBoiler

/-- A boiler that works refills (R87). -/
theorem lowGoesDry_working {s : State} (works : s.steam.boiler = .heating ∨ s.steam.boiler = .ready ∨ s.steam.boiler = .steaming) :
    s.lowGoesDry = s.lowDried.startFill := by
  obtain state | state | state := works <;> rw [State.lowGoesDry, state] <;> rfl

/-- A boiler that is OFF ends soak heating (R95). -/
theorem lowGoesDry_off {s : State} (off : s.steam.boiler = .off) :
    s.lowGoesDry = if s.steam.request = .soak then s.lowDried.endSoak.serve else s.lowDried.endSoak := by
  rw [State.lowGoesDry, off]
  rfl

/-- A boiler that drains starts its run-on (R92). -/
theorem lowGoesDry_draining {s : State} (drains : s.steam.boiler = .draining) :
    s.lowGoesDry = s.lowDried.mapSteam (fun w => { w with runOn := some .zero }) := by
  rw [State.lowGoesDry, drains]
  rfl

/-- Any other boiler has gone dry, and no more. -/
theorem lowGoesDry_rests {s : State} (rests : s.steam.boiler = .empty ∨ s.steam.boiler = .filling ∨ s.steam.boiler = .standing) :
    s.lowGoesDry = s.lowDried := by
  obtain state | state | state := rests <;> rw [State.lowGoesDry, state] <;> rfl

/-- LOW dry withdraws the boiler from a frame that runs (R49). -/
theorem lowGoesDry_withdraws {s : State} (running : s.load.running = true) : s.lowGoesDry.load.withdrawn.boiler = true := by
  have out : s.lowDried.BoilerOut := withdrawBoiler_out (s := s.mapSteam (fun w => { w with low := some .dry })) running
  refine And.right (?_ : s.lowGoesDry.BoilerOut)
  cases state : s.steam.boiler with
  | heating => rw [lowGoesDry_working (.inl state)]; exact startFill_out out
  | ready => rw [lowGoesDry_working (.inr (.inl state))]; exact startFill_out out
  | steaming => rw [lowGoesDry_working (.inr (.inr state))]; exact startFill_out out
  | off =>
    rw [lowGoesDry_off state]
    split
    · exact serve_out (endSoak_out out)
    · exact endSoak_out out
  | draining => rw [lowGoesDry_draining state]; exact out
  | empty => rw [lowGoesDry_rests (.inl state)]; exact out
  | filling => rw [lowGoesDry_rests (.inr (.inl state))]; exact out
  | standing => rw [lowGoesDry_rests (.inr (.inr state))]; exact out

/-- What the boiler's state does after LOW dry leaves the probes. -/
theorem lowGoesDry_after (s : State) : Only waterAspects s.lowDried s.lowGoesDry := by
  have nothing : Only waterAspects s.lowDried s.lowDried := (Does.refl (as := []) (bs := []) s.lowDried).only.mono (by decide)
  cases state : s.steam.boiler with
  | heating => rw [lowGoesDry_working (.inl state)]; exact (startFill_does _).only
  | ready => rw [lowGoesDry_working (.inr (.inl state))]; exact (startFill_does _).only
  | steaming => rw [lowGoesDry_working (.inr (.inr state))]; exact (startFill_does _).only
  | off =>
    rw [lowGoesDry_off state]
    split
    · exact ((endSoak_does _).seq (serve_does _)).only.mono (by decide)
    · exact (endSoak_does _).only.mono (by decide)
  | draining =>
    rw [lowGoesDry_draining state]
    intro a h
    cases a
    case boiler => exact absurd (by decide) h
    all_goals rfl
  | empty => rw [lowGoesDry_rests (.inl state)]; exact nothing
  | filling => rw [lowGoesDry_rests (.inr (.inl state))]; exact nothing
  | standing => rw [lowGoesDry_rests (.inr (.inr state))]; exact nothing

/-- A SOAK request over a boiler that is OFF and dry fills, where no drain comes before it (R85, R95). -/
theorem serve_soakDry {s : State} (off : s.steam.boiler = .off) (soak : s.steam.request = .soak) (dry : s.steam.low = some .dry) :
    s.serve = if s.mustDrainFirst = true then s else s.startFill := by
  have low : s.lowWet = false := by rw [State.lowWet, dry]; rfl
  rw [State.serve, soak, off]
  cases s.mustDrainFirst with
  | true => rfl
  | false =>
    refine (if_neg (by decide)).trans ?_
    refine Eq.trans ?_ (if_neg (by decide)).symm
    exact if_neg (by rw [low]; decide)

/-- The end of soak heating leaves what bars a fill, what drains before it, and the tank. -/
theorem endSoak_lowDried (s : State) :
    s.lowDried.endSoak.steam = { s.steam with low := some .dry, soakHeating := false }
      ∧ s.lowDried.endSoak.barsFilling = s.barsFilling ∧ s.lowDried.endSoak.mustDrainFirst = s.mustDrainFirst := by
  have steam : s.lowDried.endSoak.steam = { s.steam with low := some .dry, soakHeating := false } := by
    rw [endSoak_steam]
    rfl
  refine ⟨steam, (bars_congr (endSoak_does s.lowDried).only.faults).2, ?_⟩
  rw [State.mustDrainFirst, State.drainInHand, steam]
  rfl

/-! ## LOW wet (R87, R92) -/

/-- LOW wet, nothing done by the boiler's state yet. -/
def State.lowWetted (s : State) : State := s.mapSteam (fun w => { w with low := some .wet })

/-- Water found in an EMPTY boiler without a request is owed a drain (R87, R94). -/
theorem lowGoesWet_found {s : State} (empty : s.steam.boiler = .empty) (none : s.steam.request = .none) :
    s.lowGoesWet = (s.lowWetted.setBoiler .off).oweDrain .waterFound := by
  rw [State.lowGoesWet, empty]
  exact if_pos none

/-- A run-on ends (R92). -/
theorem lowGoesWet_draining {s : State} (drains : s.steam.boiler = .draining) :
    s.lowGoesWet = s.lowWetted.mapSteam (fun w => { w with runOn := none }) := by
  rw [State.lowGoesWet, drains]
  rfl

/-- Any other boiler has gone wet, and no more. -/
theorem lowGoesWet_rests {s : State}
    (rests : (s.steam.boiler = .empty ∧ s.steam.request ≠ .none) ∨ (s.steam.boiler ≠ .empty ∧ s.steam.boiler ≠ .draining)) :
    s.lowGoesWet = s.lowWetted := by
  obtain ⟨empty, some⟩ | ⟨notEmpty, notDraining⟩ := rests
  · rw [State.lowGoesWet, empty]
    exact if_neg some
  · cases state : s.steam.boiler with
    | empty => exact absurd state notEmpty
    | draining => exact absurd state notDraining
    | filling => rw [State.lowGoesWet, state]; rfl
    | heating => rw [State.lowGoesWet, state]; rfl
    | ready => rw [State.lowGoesWet, state]; rfl
    | steaming => rw [State.lowGoesWet, state]; rfl
    | off => rw [State.lowGoesWet, state]; rfl
    | standing => rw [State.lowGoesWet, state]; rfl

/-- An owed drain that starts over a boiler that is OFF. -/
theorem oweDrain_off {why : OwedDrain} {s : State} (off : s.steam.boiler = .off) :
    (s.oweDrain why).steam
      = { s.steam with
          owed := some why, soakHeating := false, drainStarted := true, drainServes := false, coolWait := some .zero } := by
  have stays : (if s.steam.boiler.working then BoilerState.off else s.steam.boiler) = s.steam.boiler := by rw [off]; rfl
  exact (beginDrain_steam false (s.mapSteam (fun w => { w with owed := some why }))).trans
    (congrArg (fun b => { s.steam with
      boiler := b, owed := some why, soakHeating := false, drainStarted := true, drainServes := false, coolWait := some .zero })
      stays)

/-- What the boiler's state does after LOW wet leaves the probes. -/
theorem lowGoesWet_after (s : State) : Only [.boiler, .withdrawn] s.lowWetted s.lowGoesWet := by
  have kept : Only [.boiler, .withdrawn] s.lowWetted s.lowWetted :=
    (Does.refl (as := []) (bs := []) s.lowWetted).only.mono (by decide)
  by_cases empty : s.steam.boiler = .empty
  · by_cases none : s.steam.request = .none
    · rw [lowGoesWet_found empty none]
      exact ((setBoiler_does .off _).seq (oweDrain_does .waterFound _)).only.mono (by decide)
    · rwa [lowGoesWet_rests (.inl ⟨empty, none⟩)]
  · by_cases drains : s.steam.boiler = .draining
    · rw [lowGoesWet_draining drains]
      intro a h
      cases a
      case boiler => exact absurd (by decide) h
      all_goals rfl
    · rwa [lowGoesWet_rests (.inr ⟨empty, drains⟩)]

/-- Settles O39. -/
theorem lowProbe : Obligations.LowProbe := by
  intro s
  refine ⟨fun other => report_of_not other, fun other => report_of_not other, ?dry, ?wet⟩
  case dry =>
    intro wet
    refine ⟨s.lowGoesDry, congrArg s.report_ (if_pos wet), ?low, lowGoesDry_withdraws, ?working, ?draining, ?off, ?rests,
      (lowGoesDry_does s).only.mono (by decide)⟩
    case low => exact (Prod.mk.inj ((lowGoesDry_after s) .probes (by decide))).1
    case working =>
      intro works free room
      obtain ⟨fills, -⟩ := startFill_fills (s := s.lowDried) free room
      rw [lowGoesDry_working works, fills]
      exact ⟨rfl, rfl, fillWaitFor_eq s.steam.tank, fillWaitFor_none _⟩
    case draining =>
      intro drains
      rw [lowGoesDry_draining drains]
      exact ⟨rfl, drains⟩
    case off =>
      intro off
      obtain ⟨steam, bars, drains⟩ := endSoak_lowDried s
      rw [lowGoesDry_off off]
      by_cases soak : s.steam.request = .soak
      · rw [if_pos soak, serve_soakDry (by rw [steam]; exact off) (by rw [steam]; exact soak) (by rw [steam]), drains]
        refine ⟨fun calm => ?_, fun other => absurd soak other, fun _ first free room => ?_⟩
        · have room : s.steam.high ≠ some .wet := calm.resolve_left (fun other => other soak)
          split
          · rw [steam]
          · cases free : s.barsFilling with
            | true => rw [startFill_barred (bars.trans free), steam]
            | false =>
              rw [(startFill_fills (bars.trans free) (by rw [steam]; exact room)).1, steam]
        · rw [if_neg (by rw [first]; decide), (startFill_fills (bars.trans free) (by rw [steam]; exact room)).1]
          exact ⟨rfl, rfl⟩
      · rw [if_neg soak, steam]
        exact ⟨fun _ => rfl, fun _ => off, fun yes => absurd yes soak⟩
    case rests =>
      intro rests
      rw [lowGoesDry_rests rests]
      rfl
  case wet =>
    intro dry overdue
    have inTime : ¬overdue → s.lowWetEvent = s.lowGoesWet := fun no => if_neg (mt (lowWetTimesOut_iff s).mp no)
    have late : overdue → s.lowWetEvent = s.lowWetted.drainTimeoutEvent := fun yes => if_pos ((lowWetTimesOut_iff s).mpr yes)
    refine ⟨s.lowWetEvent, congrArg s.report_ (if_pos dry), ?low, ?runOn, ?found, ?asked, ?other, ?overdue, ?kept,
      (lowWetEvent_does s).only.mono (by decide)⟩
    case low =>
      have wetted : Same .probes s.lowWetted s.lowWetEvent := by
        by_cases yes : overdue
        · rw [late yes]
          exact (drainTimeoutEvent_does s.lowWetted).same .probes (by decide)
        · rw [inTime yes]
          exact lowGoesWet_after s .probes (by decide)
      exact (Prod.mk.inj wetted).1
    case runOn =>
      intro no drains
      rw [inTime no, lowGoesWet_draining drains]
      rfl
    case found =>
      intro empty none
      have off : (s.lowWetted.setBoiler .off).steam = { s.steam with low := some .wet, boiler := .off } := setBoiler_steam .off s.lowWetted
      rw [inTime (fun late => absurd (empty.symm.trans late.1) (by decide)), lowGoesWet_found empty none,
        oweDrain_off (by rw [off])]
      exact ⟨congrArg Steam.boiler off, rfl, rfl, rfl⟩
    case asked =>
      intro empty some
      rw [inTime (fun late => absurd (empty.symm.trans late.1) (by decide)), lowGoesWet_rests (.inl ⟨empty, some⟩)]
      rfl
    case other =>
      intro notEmpty notDraining
      rw [inTime (fun late => notDraining late.1), lowGoesWet_rests (.inr ⟨notEmpty, notDraining⟩)]
      rfl
    case overdue =>
      intro yes
      rw [late yes]
      obtain ⟨boiler, owed, drainTimer, runOn⟩ := drainTimeoutEvent_owesOff s.lowWetted
      exact ⟨boiler, owed, drainTimer, runOn, fun inactive => raiseDrainTimeout_record (s := s.lowWetted.drainTimesOut) inactive⟩
    case kept =>
      intro no
      rw [inTime no]
      exact (lowGoesWet_does s).only

/-! ## HIGH (R80, R88) -/

/-- Settles O40. -/
theorem highProbe : Obligations.HighProbe := by
  intro s
  refine ⟨fun wet => congrArg _ (if_pos wet), fun other => congrArg _ (if_neg other), fun other => report_of_not other, ?_⟩
  intro dry
  let t := s.mapSteam (fun w => { w with high := some .wet })
  refine ⟨s.highGoesWet, congrArg s.report_ (if_pos dry), ?high, fun other => if_neg other, ?ends, (highGoesWet_does s).only.mono (by decide)⟩
  case high =>
    by_cases filling : s.steam.boiler = .filling
    · have ends : s.highGoesWet = t.fillEnds := if_pos filling
      rw [ends]
      exact (Prod.mk.inj ((fillEnds_does t).same .probes (by decide))).2
    · have same : s.highGoesWet = t := if_neg filling
      exact congrArg (fun x : State => x.steam.high) same
  case ends =>
    intro filling
    have ends : s.highGoesWet = t.fillEnds := if_pos filling
    rw [ends]
    refine ⟨fillEnds_pump t, fun steam => ?_, fun fill => ?_, fun soak => ?_, fun rinse => ?_, fun rest => ?_⟩
    · rw [fillEnds_steam (s := t) steam]
      show t.heatState = _
      exact (heatState_congr (s := s) (t := t) rfl rfl).trans (heatState_eq s)
    · obtain ⟨steam, first, later⟩ := fillEnds_fill (s := t) fill
      rw [steam]
      exact ⟨rfl, rfl, first, later⟩
    · rw [fillEnds_soak (s := t) soak]
      obtain ⟨off, set⟩ := startSoak_steam (t.mapSteam Steam.stopPump)
      rw [suspended_congr (s := s) (t := t.mapSteam Steam.stopPump) rfl rfl] at set
      exact ⟨off, set.trans or_comm⟩
    · rw [fillEnds_rinse_steam (s := t) rinse]
      exact ⟨rfl, rfl, rfl, rfl⟩
    · rw [fillEnds_rest (s := t) rest]
      exact stillState_eq s

end Sys2Proof.Machine
end

section
/-! PROOFS. The drain valve opens (R91, R92): the conditions of a started drain, the sample and the crossing that meet them. -/

namespace Sys2Proof.Machine

/-! ## The conditions of a started drain (R91) -/

/-- The boiler is cool by its temperature in use, or by the wait where none is in use (R91). -/
theorem coolForDrain_iff (s : State) :
    s.coolForDrain = true
      ↔ (∃ c, s.boilerInUse = some c ∧ c ≤ 800) ∨ (s.boilerInUse = none ∧ ∃ w, s.steam.coolWait = some w ∧ 600 ≤ w.seconds) := by
  unfold State.coolForDrain
  cases s.boilerInUse with
  | none => cases s.steam.coolWait <;> simp
  | some c => simp

/-- A started drain's conditions hold (R91). -/
theorem valveDue_iff (s : State) :
    s.valveDue = true
      ↔ s.inService = true ∧ s.steam.drainStarted = true ∧ s.tankPresent = true
        ∧ s.faults.drainTimeout.active = false ∧ s.mainsOut = false
        ∧ ((∃ c, s.boilerInUse = some c ∧ c ≤ 800)
          ∨ (s.boilerInUse = none ∧ ∃ w, s.steam.coolWait = some w ∧ 600 ≤ w.seconds)) := by
  have record : s.faultActive .drainTimeout = s.faults.drainTimeout.active := rfl
  rw [← coolForDrain_iff, State.valveDue, record]
  simp only [Bool.and_eq_true, Bool.not_eq_true']
  exact ⟨fun ⟨⟨⟨⟨⟨service, started⟩, cool⟩, tank⟩, clear⟩, power⟩ => ⟨service, started, tank, clear, power, cool⟩,
    fun ⟨service, started, tank, clear, power, cool⟩ => ⟨⟨⟨⟨⟨service, started⟩, cool⟩, tank⟩, clear⟩, power⟩⟩

/-- The steam generator as the valve opens (R91, R92). -/
theorem openValve_steam (s : State) :
    s.openValve.steam
      = { s.steam with
          boiler := .draining, drainStarted := false, coolWait := none, drainTimer := some ⟨0, 0⟩
          runOn := if s.steam.low = some .wet then none else some ⟨0, 0⟩ } := by
  have low : s.lowWet = true ↔ s.steam.low = some .wet := decide_eq_true_iff
  show { s.steam with
      boiler := .draining, drainStarted := false, coolWait := none
      drainTimer := some .zero, runOn := if s.lowWet then none else some .zero } = _
  rw [show (if s.lowWet then none else some CycleTimer.zero) = if s.steam.low = some .wet then none else some ⟨0, 0⟩ from
    if_congr low rfl rfl]
  rfl

/-- With the valve open no other is to open, and PREPARE does not end. -/
theorem openValve_nothingDue {s : State} (handed : s.steam.handed = none) : s.openValve.NothingDue := by
  refine ⟨?_, handed, ?_⟩
  · rw [State.valveDue, show s.openValve.steam.drainStarted = false from rfl]
    simp
  · rw [State.prepareDue, show s.openValve.boilerReady = false from rfl]
    simp

/-- What follows where a valve may open and no completion is handed is its opening alone (R91, R126). -/
theorem runSettle_opens {s : State} (due : s.valveDue = true) (handed : s.steam.handed = none) :
    s.runSettle.steam = s.openValve.steam := by
  have turn : s.keepInterruption.settleOnce = s.keepInterruption.openValve := settleOnce_valve (s := s.keepInterruption) due
  have settled : s.keepInterruption.settleOnce.NothingDue := by
    rw [turn]
    exact openValve_nothingDue (s := s.keepInterruption) handed
  rw [runSettle_once (fun none => absurd (due.symm.trans none.1) (by decide)) settled, turn]
  exact (updateCeiling_steam s.keepInterruption.openValve).trans rfl

/-! ## The crossing within a frame, at the steam generator (R48, R88, R91) -/

/-- The pump's part of a crossing is the stroke, its count and the wait (R88, R89). -/
theorem strokeCrossing_steam (s : State) :
    ∃ n stroke wait, s.strokeCrossing.steam = { s.steam with strokes := n, stroke := stroke, fillWait := wait } := by
  by_cases pumping : s.steam.boiler = .filling ∧ s.suspended = false
  · have begun : s.beginStroke.steam = { s.steam with strokes := s.steam.strokes + 1, stroke := .running 0 } :=
      strokeEvent_steam _
    unfold State.strokeCrossing
    rw [if_pos pumping]
    split
    · exact ⟨_, _, _, rfl⟩
    · exact ⟨_, _, _, begun⟩
    · split
      · exact ⟨_, _, _, rfl⟩
      · split
        · exact ⟨_, _, _, rfl⟩
        · exact ⟨_, _, _, begun⟩
  · rw [strokeCrossing_stands (.inl pumping)]
    exact ⟨_, _, _, rfl⟩

/-- The steam generator of a crossing within a frame: its timers counted, and the pump's part. -/
theorem crossed_steam {s : State} (within : s.InFrame) :
    ∃ n stroke wait,
      s.crossed.steam = { s.steam.count s.perSecond s.valveOpen with strokes := n, stroke := stroke, fillWait := wait } := by
  rw [crossed_pump within]
  exact strokeCrossing_steam s.cycleCounted

/-- A crossing at which no drain's timer comes to its end goes on with the vent. -/
theorem fireDrain_rests {s : State} (other : s.steam.boiler ≠ .draining) : s.fireDrain = s := if_neg other

/-- Settles O43. -/
theorem drainValveOpens : Obligations.DrainValveOpens := by
  refine ⟨fun s => ⟨?due, drainValveOpen_iff s⟩, ?opens, ?sample, ?boundary, fun smp s none => report_of_not ?_, ?waited⟩
  case due => exact valveDue_iff s
  case opens =>
    intro s due t
    obtain ⟨service, _, tank, _, power, _⟩ := (valveDue_iff s).mp due
    have stage : s.startup.stage ≠ .configFault := by
      intro fault
      rw [State.inService, fault] at service
      exact absurd service (by decide)
    have valve : t.drainValveOpen = true :=
      (drainValveOpen_iff t).mpr ⟨stage, power, rfl, (tankPresent_iff s).mp tank⟩
    refine ⟨rfl, rfl, rfl, rfl, ?_, valve, (openValve_does s).only⟩
    exact congrArg Steam.runOn (openValve_steam s)
  case sample =>
    intro smp s timer started v due handed
    have opens : v.runSettle.steam = v.openValve.steam := runSettle_opens due handed
    have next : s.nextSample smp = v.runSettle := if_pos timer
    have row : exec (.drainValveOpens smp) s = .next (s.reported v.runSettle) := by
      show s.report_ (if s.steam.drainStarted && decide ((s.nextSample smp).steam.boiler = .draining) then s.nextSample smp else s) = _
      rw [next, started, if_pos (by rw [opens]; rfl)]
      rfl
    exact ⟨v.runSettle, row, opens, (sampleTick_timer timer smp).trans row.symm, (runSettle_does v).only⟩
  case boundary =>
    intro smp s started due frame drains
    have next : s.nextSample smp = s.boundaryCrossing smp 400 := by
      rw [State.nextSample, frame, due]
      rfl
    show s.report_ (if s.steam.drainStarted && decide ((s.nextSample smp).steam.boiler = .draining) then s.nextSample smp else s) = _
    rw [if_pos (by rw [next, started, decide_eq_true drains]; rfl)]
    exact (nextSample_command smp s).2 frame
  · rw [none, Bool.false_and]
    decide
  case waited =>
    intro s ⟨runs, w, wait, last, full⟩ noReading frame started handed other tank clear
    have within : s.InFrame := inFrame_of_runs runs frame
    obtain ⟨n, stroke, cause, steam⟩ := crossed_steam within
    have only := crossed_inFrame_only within
    have waited : s.crossed.steam.coolWait = some ⟨600, 0⟩ := by
      rw [steam]
      show s.steam.coolWait.map (CycleTimer.tick s.perSecond 600) = _
      rw [wait, Option.map_some, tick_reaches last (Nat.le_refl _) full]
    have noReading' : s.crossed.boilerInUse = none :=
      (boilerInUse_congr only.faults (by rw [steam]; rfl)).trans noReading
    have due : s.crossed.valveDue = true := by
      refine (valveDue_iff s.crossed).mpr ⟨?_, ?_, ?_, ?_, ?_, .inr ⟨noReading', _, waited, Nat.le_refl _⟩⟩
      · rw [State.inService, only.startup]
        simp only [State.crossingRuns, Bool.and_eq_true] at runs
        exact runs.1.1
      · rw [steam]
        exact started
      · rw [State.tankPresent, steam]
        exact tank
      · rw [only.faults]
        exact clear
      · rw [State.mainsOut, State.faultActive, only.faults]
        simp only [State.crossingRuns, Bool.and_eq_true, Bool.not_eq_true'] at runs
        exact runs.2
    have handed' : s.crossed.steam.handed = none := by
      rw [steam]
      exact handed
    have opens := runSettle_opens due handed'
    refine ⟨s.crossed, ?_, waited, due, opens, by rw [opens]; rfl, only⟩
    have comes : (s.timerReaches 600 s.steam.coolWait && s.boilerInUse.isNone) = true := by
      rw [(timerReaches_iff 600 s.steam.coolWait s).mpr ⟨runs, w, wait, last, full⟩, noReading]
      rfl
    show s.report_ (s.crossingWhen (s.timerReaches 600 s.steam.coolWait && s.boilerInUse.isNone)) = _
    rw [State.crossingWhen, if_pos comes, crossing_eq runs, fire_rest, fireDrain_rests (by rw [steam]; exact other)]
    rfl

end Sys2Proof.Machine
end

section
/-! PROOFS. The boiler requests (R84, R85, R91, R94, R95, R159): what one handed leaves of the request before, and how the one in
force is served. -/

namespace Sys2Proof.Machine

/-- The working states are HEATING, READY and STEAMING (R49, R87). -/
theorem working_iff (b : BoilerState) : b.working = true ↔ b = .heating ∨ b = .ready ∨ b = .steaming := by
  cases b <;> decide

/-! ## A request handed (R84, R87, R91, R94, R95, R159) -/

/-- A drain given up is one that has started and is not owed (R91). -/
theorem dropDrain_drain (w : Steam) :
    (w.dropDrain.drainStarted = true ↔ w.drainStarted = true ∧ w.owed ≠ none)
      ∧ (w.drainStarted = true → w.owed = none → w.dropDrain.coolWait = none) := by
  unfold Steam.dropDrain
  cases started : w.drainStarted <;> cases owed : w.owed <;> simp [started]

/-- It leaves the boiler, its soak heating and its pump, what is owed and handed, and the timers of a valve that is open. -/
theorem dropDrain_keeps (w : Steam) :
    ∃ started serves wait, w.dropDrain = { w with drainStarted := started, drainServes := serves, coolWait := wait } := by
  unfold Steam.dropDrain
  split
  · exact ⟨_, _, _, rfl⟩
  · exact ⟨_, _, _, rfl⟩

/-- An owed drain cleared is a time-out's or an end of program's, under a request and with no valve open (R94). -/
abbrev Steam.ClearsOwed (req : BoilerRequest) (w : Steam) : Prop :=
  req ≠ .none ∧ w.boiler ≠ .draining ∧ (w.owed = some .endOfProgram ∨ w.owed = some .timedOut)

/-- Clearing an owed drain leaves all but the drain. -/
theorem clearOwed_keeps (req : BoilerRequest) (w : Steam) :
    ∃ owed started serves wait,
      w.clearOwed req = { w with owed := owed, drainStarted := started, drainServes := serves, coolWait := wait } := by
  rw [clearOwed_eq]
  split
  · exact ⟨_, _, _, _, rfl⟩
  · exact ⟨_, _, _, _, rfl⟩

/-- The drain as it leaves it. -/
theorem clearOwed_drain (req : BoilerRequest) (w : Steam) :
    (w.ClearsOwed req → (w.clearOwed req).owed = none ∧ (w.clearOwed req).drainStarted = false ∧ (w.clearOwed req).coolWait = none)
      ∧ (¬w.ClearsOwed req → w.clearOwed req = w) := by
  rw [clearOwed_eq]
  exact ⟨fun clears => by rw [if_pos clears]; exact ⟨rfl, rfl, rfl⟩, fun keeps => if_neg keeps⟩

/-- The steam generator once a request is taken and the one before left, before an owed drain is cleared. -/
def State.requestLeft (req : BoilerRequest) (s : State) : Steam := ((s.requestTaken req).leaveRequest req).steam

/-- The placed request, by the one left. -/
theorem requestPlaced_steam (req : BoilerRequest) (s : State) :
    (s.requestPlaced req).steam
      = { (s.requestLeft req).clearOwed req with
          drainServes := decide (((s.requestLeft req).clearOwed req).boiler = .draining) && decide (req = .drain) } := rfl

/-- What a request taken and the one before left keep. -/
theorem requestLeft_keeps (req : BoilerRequest) (s : State) :
    let w := s.requestLeft req
    (w.strokes = s.steam.strokes ∧ w.drainTimer = s.steam.drainTimer ∧ w.runOn = s.steam.runOn ∧ w.handed = s.steam.handed)
      ∧ w.owed = s.steam.owed ∧ (w.drainStarted = s.steam.dropDrain.drainStarted ∧ w.coolWait = s.steam.dropDrain.coolWait)
      ∧ w.used = (s.steam.used || (decide (req ≠ .none) && s.hasActive))
      ∧ w.rinsePass = (if req = .rinse then 0 else s.steam.rinsePass)
      ∧ w.soakHeating = (s.steam.soakHeating && decide (req = .soak)) := by
  obtain ⟨started, serves, wait, dropped⟩ := dropDrain_keeps s.steam
  have taken : (s.requestTaken req).steam
      = { s.steam.dropDrain with
          request := req, used := s.steam.used || (decide (req ≠ .none) && s.hasActive)
          rinsePass := if req = .rinse then 0 else s.steam.rinsePass } := rfl
  rw [State.requestLeft, leaveRequest_steam, taken, dropped]
  dsimp only
  split <;> exact ⟨⟨rfl, rfl, rfl, rfl⟩, rfl, ⟨rfl, rfl⟩, rfl, rfl, rfl⟩

/-- The boiler and its pump, as the request before is left (R87, R95, R159). -/
theorem requestLeft_boiler (req : BoilerRequest) (s : State) :
    let w := s.requestLeft req
    let working := s.steam.boiler = .heating ∨ s.steam.boiler = .ready ∨ s.steam.boiler = .steaming
    (working → req ≠ .steam → w.boiler = .off)
      ∧ (s.steam.boiler = .filling → req = .none ∨ req = .drain →
          w.boiler = (if s.steam.low = some .wet then .off else .empty) ∧ w.stroke = .idle ∧ w.fillWait = none)
      ∧ (¬(working ∧ req ≠ .steam) → ¬(s.steam.boiler = .filling ∧ (req = .none ∨ req = .drain)) →
          w.boiler = s.steam.boiler ∧ w.stroke = s.steam.stroke ∧ w.fillWait = s.steam.fillWait) := by
  intro w working
  obtain ⟨started, serves, wait, dropped⟩ := dropDrain_keeps s.steam
  have taken : (s.requestTaken req).steam
      = { s.steam with
          drainStarted := started, drainServes := serves, coolWait := wait
          request := req, used := s.steam.used || (decide (req ≠ .none) && s.hasActive)
          rinsePass := if req = .rinse then 0 else s.steam.rinsePass } := by
    rw [State.requestTaken, State.mapSteam_steam, dropped]
  have still : (s.requestTaken req).stillState = if s.steam.low = some .wet then .off else .empty := by rw [stillState_eq, taken]
  have works : s.steam.boiler.working = true ↔ working := working_iff _
  have left : w = _ := leaveRequest_steam req (s.requestTaken req)
  rw [taken, still] at left
  refine ⟨fun at_ other => ?_, fun filling rest => ?_, fun calm goesOn => ?_⟩
  · have notFilling : ¬(s.steam.boiler = .filling ∧ (req = .none ∨ req = .drain)) := fun filling => by
      rw [filling.1] at works
      exact absurd (works.mpr at_) (by decide)
    rw [left]
    dsimp only
    rw [if_neg notFilling, works.mpr at_, decide_eq_true other]
    rfl
  · rw [left]
    dsimp only
    rw [if_pos ⟨filling, rest⟩]
    exact ⟨rfl, rfl, rfl⟩
  · rw [left]
    dsimp only
    rw [if_neg goesOn]
    refine ⟨if_neg fun h => calm ?_, rfl, rfl⟩
    rw [Bool.and_eq_true, decide_eq_true_eq] at h
    exact ⟨works.mp h.1, h.2⟩

/-- The valve is open after it as before. -/
theorem requestLeft_draining (req : BoilerRequest) (s : State) :
    (s.requestLeft req).boiler = .draining ↔ s.steam.boiler = .draining := by
  obtain ⟨off, still, same⟩ := requestLeft_boiler req s
  by_cases ends : (s.steam.boiler = .heating ∨ s.steam.boiler = .ready ∨ s.steam.boiler = .steaming) ∧ req ≠ .steam
  · rw [off ends.1 ends.2]
    obtain state | state | state := ends.1 <;> rw [state] <;> decide
  · by_cases stops : s.steam.boiler = .filling ∧ (req = .none ∨ req = .drain)
    · rw [(still stops.1 stops.2).1, stops.1]
      split <;> decide
    · rw [(same ends stops).1]

/-- What a request handed leaves of the one before (R84, R87, R91, R94, R95, R159). -/
theorem requestPlaced_leaves (req : BoilerRequest) (s : State) :
    let v := s.requestPlaced req
    let clears := req ≠ .none ∧ s.steam.boiler ≠ .draining
      ∧ (s.steam.owed = some .endOfProgram ∨ s.steam.owed = some .timedOut)
    (clears → v.steam.owed = none) ∧ (¬clears → v.steam.owed = s.steam.owed)
      ∧ (v.steam.drainStarted = true ↔ s.steam.drainStarted = true ∧ v.steam.owed ≠ none)
      ∧ (s.steam.drainStarted = true → v.steam.owed = none → v.steam.coolWait = none) := by
  intro v clears
  obtain ⟨-, owed, ⟨started, wait⟩, -⟩ := requestLeft_keeps req s
  obtain ⟨dropped, idle⟩ := dropDrain_drain s.steam
  have same : (s.requestLeft req).ClearsOwed req ↔ clears := by
    simp only [Steam.ClearsOwed, owed, ne_eq, requestLeft_draining, clears]
  obtain ⟨yes, no⟩ := clearOwed_drain req (s.requestLeft req)
  rw [requestPlaced_steam]
  dsimp only
  by_cases h : clears
  · obtain ⟨none, stopped, gone⟩ := yes (same.mpr h)
    rw [none, stopped, gone]
    exact ⟨fun _ => rfl, fun keeps => absurd h keeps, ⟨fun h => (by cases h), fun h => absurd rfl h.2⟩, fun _ _ => rfl⟩
  · rw [no (mt same.mp h), owed, started, wait]
    exact ⟨fun yes => absurd yes h, fun _ => rfl, dropped, idle⟩

/-- A request placed changes the boiler alone, with a withdrawal of it (R84, R87). -/
theorem requestPlaced_only (req : BoilerRequest) (s : State) : Only [.boiler, .withdrawn] s (s.requestPlaced req) := by
  have taken : Only [.boiler, .withdrawn] s (s.requestTaken req) := by
    obtain ⟨started, serves, wait, dropped⟩ := dropDrain_keeps s.steam
    intro a h
    rw [State.requestTaken, State.mapSteam, dropped]
    cases a
    case boiler => exact absurd (by decide) h
    all_goals rfl
  have cleared : Only [.boiler, .withdrawn] ((s.requestTaken req).leaveRequest req) (s.requestPlaced req) := by
    obtain ⟨owed, started, serves, wait, cleared⟩ := clearOwed_keeps req ((s.requestTaken req).leaveRequest req).steam
    intro a h
    rw [State.requestPlaced, State.mapSteam, State.mapSteam, cleared]
    cases a
    case boiler => exact absurd (by decide) h
    all_goals rfl
  exact taken.trans ((leaveRequest_does req _).only.trans cleared)

end Sys2Proof.Machine
end

section
/-! PROOFS. How the request in force is served by the boiler as it stands (R85, R94, R95), and the end of a drain (R92, R93, R95). -/

namespace Sys2Proof.Machine

/-! ## The request in force (R85, R94, R95) -/

/-- A request is not served behind a drain in hand or an owed one, nor within a fill (R85, R94). -/
abbrev State.ServiceWaits (s : State) : Prop :=
  s.steam.drainStarted = true ∨ s.steam.owed ≠ none ∨ s.steam.boiler = .draining ∨ s.steam.boiler = .standing
    ∨ s.steam.boiler = .filling

/-- As the model tests it. -/
theorem serviceWaits_iff (s : State) :
    (s.mustDrainFirst || decide (s.steam.boiler = .filling)) = true ↔ s.ServiceWaits := by
  simp only [State.mustDrainFirst, State.drainInHand, Bool.or_eq_true, decide_eq_true_eq, Option.isSome_iff_ne_none,
    State.ServiceWaits]
  tauto

/-- A request that waits is not served. -/
theorem serve_waits {s : State} (waits : s.ServiceWaits) : s.serve = s := if_pos ((serviceWaits_iff s).mpr waits)

/-- A STEAM request is served by a boiler that works. -/
theorem serve_steaming {s : State} (steam : s.steam.request = .steam) (works : s.steam.boiler.working = true) : s.serve = s := by
  unfold State.serve
  rw [steam]
  dsimp only
  rw [if_pos works, ite_self]

/-- STEAM finds water in a boiler that is OFF, and heats (R85). -/
theorem serve_heats {s : State} (ready : ¬s.ServiceWaits) (steam : s.steam.request = .steam) (off : s.steam.boiler = .off)
    (wet : s.steam.low = some .wet) : s.serve = { s with steam := { s.steam with boiler := s.heatState } } := by
  have water : s.steam.boiler = .off ∧ s.lowWet = true := ⟨off, decide_eq_true wet⟩
  have idle : s.steam.boiler.working = false := by rw [off]; rfl
  have heats : s.serve = s.setBoiler s.heatState := by
    unfold State.serve
    rw [if_neg (mt (serviceWaits_iff s).mp ready), steam]
    dsimp only
    rw [if_neg (by rw [idle]; decide), if_pos water]
  rw [heats, State.setBoiler, idle]
  rfl

/-- SOAK over water sets soak heating (R95). -/
theorem serve_soaks {s : State} (ready : ¬s.ServiceWaits) (soak : s.steam.request = .soak) (wet : s.steam.low = some .wet) :
    s.serve = s.startSoak := by
  have water : s.lowWet = true := decide_eq_true wet
  unfold State.serve
  rw [if_neg (mt (serviceWaits_iff s).mp ready), soak]
  dsimp only
  rw [if_pos water]

/-- DRAIN starts its drain (R95). -/
theorem serve_drains {s : State} (ready : ¬s.ServiceWaits) (drain : s.steam.request = .drain) : s.serve = s.beginDrain true := by
  unfold State.serve
  rw [if_neg (mt (serviceWaits_iff s).mp ready), drain]

/-- The requests that fill: FILL and RINSE, SOAK without water, and STEAM but for a boiler that works or that finds water (R85,
R95). -/
abbrev State.ServiceFills (s : State) : Prop :=
  s.steam.request = .fill ∨ s.steam.request = .rinse ∨ (s.steam.request = .soak ∧ ¬s.steam.low = some .wet)
    ∨ (s.steam.request = .steam ∧ ¬(s.steam.boiler = .heating ∨ s.steam.boiler = .ready ∨ s.steam.boiler = .steaming)
      ∧ ¬(s.steam.boiler = .off ∧ s.steam.low = some .wet))

/-- They start a fill. -/
theorem serve_fills {s : State} (ready : ¬s.ServiceWaits) (fills : s.ServiceFills) : s.serve = s.startFill := by
  have low : s.lowWet = true ↔ s.steam.low = some .wet := decide_eq_true_iff
  unfold State.serve
  rw [if_neg (mt (serviceWaits_iff s).mp ready)]
  obtain fill | rinse | ⟨soak, dry⟩ | ⟨steam, idle, dry⟩ := fills
  · rw [fill]
  · rw [rinse]
  · rw [soak]
    exact if_neg (mt low.mp dry)
  · rw [steam]
    exact (if_neg (mt (working_iff _).mp idle)).trans (if_neg fun h => dry ⟨h.1, low.mp h.2⟩)

/-- A fill that is served and finds HIGH wet ends as the request gives, with a fresh stroke budget (R85, R88). -/
theorem startFill_full {s : State} (free : s.barsFilling = false) (high : s.steam.high = some .wet) :
    (s.startFill.steam.strokes = 0 ∧ s.startFill.steam.stroke = .idle ∧ s.startFill.steam.fillWait = none)
      ∧ (s.steam.request = .steam → s.startFill.steam.boiler = s.heatState)
      ∧ (s.steam.request = .fill → s.startFill.steam.boiler = .off ∧ s.startFill.steam.handed = some .fillComplete
          ∧ s.startFill.scale.rinseOwed = true ∧ (s.scale.rinseOwed = false → s.startFill.scale.drainOnStop = true))
      ∧ (s.steam.request = .soak → s.startFill.steam.boiler = .off
          ∧ (s.startFill.steam.soakHeating = true ↔ s.steam.soakHeating = true ∨ (s.barsHeating = false ∧ s.suspended = false)))
      ∧ (s.steam.request = .rinse →
          s.startFill.steam
            = { s.steam.stopPump with
                strokes := 0, boiler := .off, soakHeating := false, drainStarted := true, drainServes := true
                coolWait := some .zero }
          ∧ s.startFill.scale = s.scale) := by
  have only := fillBegun_only s
  have begun := fillBegun_steam s
  have request : s.fillBegun.steam.request = s.steam.request := by rw [begun]
  rw [startFill_ends free high]
  refine ⟨?_, fun steam => ?_, fun fill => ?_, fun soak => ?_, fun rinse => ?_⟩
  · obtain ⟨stroke, wait, strokes⟩ := fillEnds_pump s.fillBegun
    rw [begun] at strokes
    exact ⟨strokes, stroke, wait⟩
  · rw [fillEnds_steam (request.trans steam)]
    exact heatState_congr only.faults (by rw [begun])
  · obtain ⟨ends, first, -⟩ := fillEnds_fill (request.trans fill)
    obtain ⟨owed, onStop⟩ := first (by rw [begun])
    rw [ends]
    exact ⟨rfl, rfl, owed, fun clear => onStop (by rw [only.scale]; exact clear)⟩
  · rw [fillEnds_soak (request.trans soak)]
    have stopped : (s.fillBegun.mapSteam Steam.stopPump).steam.soakHeating = s.steam.soakHeating := by
      rw [State.mapSteam_steam, begun]
      rfl
    have set := startSoak_steam (s.fillBegun.mapSteam Steam.stopPump)
    rwa [stopped, (bars_congr (s := s) (t := s.fillBegun.mapSteam Steam.stopPump) only.faults).1,
      suspended_congr (s := s) (t := s.fillBegun.mapSteam Steam.stopPump) only.seq only.store] at set
  · refine ⟨?_, ?_⟩
    · rw [fillEnds_rinse_steam (request.trans rinse), begun]
      rfl
    · rw [fillEnds_rinse (request.trans rinse)]
      exact ((beginDrain_does true _).only.scale.trans (setBoiler_does .off _).only.scale).trans only.scale

/-! ## What a fill and a drain leave of the drains (R92, R94) -/

/-- What is owed, the timers of a valve that is open, and the rinse pass. -/
structure Steam.SameDrain (w v : Steam) : Prop where
  owed : v.owed = w.owed
  drainTimer : v.drainTimer = w.drainTimer
  runOn : v.runOn = w.runOn
  rinsePass : v.rinsePass = w.rinsePass

/-- A start of soak heating leaves them. -/
theorem startSoak_sameDrain (s : State) : s.steam.SameDrain s.startSoak.steam := by
  unfold State.startSoak
  dsimp only
  split
  · rw [setBoiler_steam]
    exact ⟨rfl, rfl, rfl, rfl⟩
  · rw [State.mapSteam_steam, setBoiler_steam]
    exact ⟨rfl, rfl, rfl, rfl⟩

/-- A drain that starts leaves them. -/
theorem beginDrain_sameDrain (serves : Bool) (s : State) : s.steam.SameDrain (s.beginDrain serves).steam := by
  rw [beginDrain_steam]
  exact ⟨rfl, rfl, rfl, rfl⟩

/-- The end of a fill leaves them. -/
theorem fillEnds_sameDrain (s : State) : s.steam.SameDrain s.fillEnds.steam := by
  cases request : s.steam.request with
  | none => rw [fillEnds_rest (.inl request)]; exact ⟨rfl, rfl, rfl, rfl⟩
  | drain => rw [fillEnds_rest (.inr request)]; exact ⟨rfl, rfl, rfl, rfl⟩
  | steam => rw [fillEnds_steam request]; exact ⟨rfl, rfl, rfl, rfl⟩
  | fill => rw [(fillEnds_fill request).1]; exact ⟨rfl, rfl, rfl, rfl⟩
  | soak =>
    obtain ⟨owed, drainTimer, runOn, rinsePass⟩ := startSoak_sameDrain (s.mapSteam Steam.stopPump)
    rw [fillEnds_soak request]
    exact ⟨owed, drainTimer, runOn, rinsePass⟩
  | rinse => rw [fillEnds_rinse_steam request]; exact ⟨rfl, rfl, rfl, rfl⟩

/-- Its start leaves them. -/
theorem startFill_sameDrain (s : State) : s.steam.SameDrain s.startFill.steam := by
  cases free : s.barsFilling with
  | true =>
    rw [startFill_barred free]
    exact ⟨rfl, rfl, rfl, rfl⟩
  | false =>
    by_cases high : s.steam.high = some .wet
    · obtain ⟨owed, drainTimer, runOn, rinsePass⟩ := fillEnds_sameDrain s.fillBegun
      rw [fillBegun_steam] at owed drainTimer runOn rinsePass
      rw [startFill_ends free high]
      exact ⟨owed, drainTimer, runOn, rinsePass⟩
    · rw [(startFill_fills free high).1]
      exact ⟨rfl, rfl, rfl, rfl⟩

/-- The service of a request leaves them. -/
theorem serve_sameDrain (s : State) : s.steam.SameDrain s.serve.steam := by
  have same : s.steam.SameDrain s.steam := ⟨rfl, rfl, rfl, rfl⟩
  unfold State.serve
  split
  · exact same
  · split
    · exact same
    · split
      · exact same
      · split
        · rw [setBoiler_steam]
          exact ⟨rfl, rfl, rfl, rfl⟩
        · exact startFill_sameDrain s
    · exact startFill_sameDrain s
    · split
      · exact startSoak_sameDrain s
      · exact startFill_sameDrain s
    · exact beginDrain_sameDrain true s
    · exact startFill_sameDrain s

/-! ## The end of a drain (R92, R95, R156) -/

/-- The boiler drained: EMPTY, the valve closed, accumulator 0, nothing owed (R92). -/
def State.drained (s : State) : State :=
  s.mapSteam (fun w => { w.closeDrain with boiler := .empty, evaporation := 0, owed := none })

/-- A drain of no request in force is followed by the service of the one that waits (R92). -/
theorem drainEnds_waiting {s : State} (other : s.steam.drainServes = false) : s.drainEnds = s.drained.serve :=
  if_neg (by rw [other]; decide)

/-- The drain of DRAIN hands its completion (R95). -/
theorem drainEnds_drain {s : State} (serves : s.steam.drainServes = true) (drain : s.steam.request = .drain) :
    s.drainEnds = s.drained.mapSteam (fun w => { w with handed := some .drainComplete }) := by
  have request : s.drained.steam.request = .drain := drain
  refine (if_pos serves).trans ?_
  show s.drained.servedDrain = _
  rw [State.servedDrain, request]

/-- A pass of RINSE counted (R95). -/
def State.rinsed (s : State) : State := s.drained.mapSteam (fun w => { w with rinsePass := w.rinsePass + 1 })

/-- The first pass of RINSE goes on to a fill (R95). -/
theorem drainEnds_firstPass {s : State} (serves : s.steam.drainServes = true) (rinse : s.steam.request = .rinse)
    (first : s.steam.rinsePass + 1 < 2) : s.drainEnds = s.rinsed.startFill := by
  have request : s.drained.steam.request = .rinse := rinse
  refine (if_pos serves).trans ?_
  show s.drained.servedDrain = _
  rw [State.servedDrain, request]
  exact if_pos first

/-- The second is the rinse's end (R95, R156). -/
theorem drainEnds_lastPass {s : State} (serves : s.steam.drainServes = true) (rinse : s.steam.request = .rinse)
    (last : ¬s.steam.rinsePass + 1 < 2) :
    s.drainEnds = (s.rinsed.mapSteam (fun w => { w with handed := some .rinseComplete })).rinseDone := by
  have request : s.drained.steam.request = .rinse := rinse
  refine (if_pos serves).trans ?_
  show s.drained.servedDrain = _
  rw [State.servedDrain, request]
  exact if_neg last

/-- After the drain of any other request nothing follows. -/
theorem drainEnds_other {s : State} (serves : s.steam.drainServes = true) (drain : s.steam.request ≠ .drain)
    (rinse : s.steam.request ≠ .rinse) : s.drainEnds = s.drained := by
  refine (if_pos serves).trans ?_
  show s.drained.servedDrain = _
  have request : s.drained.steam.request = s.steam.request := rfl
  unfold State.servedDrain
  rw [request]
  cases at_ : s.steam.request with
  | drain => exact absurd at_ drain
  | rinse => exact absurd at_ rinse
  | none => rfl
  | steam => rfl
  | fill => rfl
  | soak => rfl

/-- No drain is owed, and no valve's timer runs (R92). -/
abbrev Steam.NoDrain (w : Steam) : Prop := w.owed = none ∧ w.drainTimer = none ∧ w.runOn = none

/-- A drain that ends leaves nothing of it, whatever follows (R92). -/
theorem drainEnds_closed (s : State) : s.drainEnds.steam.evaporation = 0 ∧ s.drainEnds.steam.NoDrain := by
  have kept {w v : Steam} (none : w.NoDrain) (same : w.SameDrain v) : v.NoDrain :=
    ⟨same.owed.trans none.1, same.drainTimer.trans none.2.1, same.runOn.trans none.2.2⟩
  have drained : s.drained.steam.NoDrain := ⟨rfl, rfl, rfl⟩
  cases serves : s.steam.drainServes with
  | false =>
    rw [drainEnds_waiting serves]
    exact ⟨(serve_does s.drained).same .evaporation (by decide), kept drained (serve_sameDrain s.drained)⟩
  | true =>
    by_cases drain : s.steam.request = .drain
    · rw [drainEnds_drain serves drain]
      exact ⟨rfl, drained⟩
    · by_cases rinse : s.steam.request = .rinse
      · by_cases first : s.steam.rinsePass + 1 < 2
        · rw [drainEnds_firstPass serves rinse first]
          exact ⟨(startFill_does s.rinsed).same .evaporation (by decide), kept (w := s.rinsed.steam) drained (startFill_sameDrain s.rinsed)⟩
        · rw [drainEnds_lastPass serves rinse first]
          exact ⟨rfl, drained⟩
      · rw [drainEnds_other serves drain rinse]
        exact ⟨rfl, drained⟩

/-- RINSE counts each of its passes (R95). -/
theorem drainEnds_pass {s : State} (serves : s.steam.drainServes = true) (rinse : s.steam.request = .rinse) :
    s.drainEnds.steam.rinsePass = s.steam.rinsePass + 1 := by
  by_cases first : s.steam.rinsePass + 1 < 2
  · rw [drainEnds_firstPass serves rinse first, (startFill_sameDrain s.rinsed).rinsePass]
    rfl
  · rw [drainEnds_lastPass serves rinse first]
    rfl

/-- A run-on at 20 s ends its drain (R92). -/
theorem fireDrain_complete {s : State} (drains : s.steam.boiler = .draining) {r : CycleTimer} (runOn : s.steam.runOn = some r)
    (full : 20 ≤ r.seconds) : s.fireDrain = s.drainEnds := by
  rw [State.fireDrain, if_pos drains, runOn]
  exact if_pos full

/-- A drain timer at 90 s without a run-on times its drain out (R93). -/
theorem fireDrain_timeout {s : State} (drains : s.steam.boiler = .draining) (runOn : s.steam.runOn = none)
    (overdue : ∃ d, s.steam.drainTimer = some d ∧ 90 ≤ d.seconds) : s.fireDrain = s.drainTimeoutEvent := by
  rw [State.fireDrain, if_pos drains, runOn]
  exact if_pos ((drainOverdue_iff s.steam).mpr overdue)

/-- A row of the drain's timers is a crossing that the drain's end opens (log 2). -/
theorem drainRow {s : State} {due : Bool} {u : State} (comes : due = true) (runs : s.crossingRuns = true)
    (ends : s.crossed.fireDrain = u) :
    s.report_ (s.crossingWhen due) = .next (s.reported (u.fireRest s.secondDue)) := by
  rw [State.crossingWhen, if_pos comes, crossing_eq runs, fire_rest, ends]
  rfl

/-- Within a frame the boiler goes on draining, its timers counted (R92, R93). -/
theorem crossed_draining {s : State} (within : s.InFrame) (valve : s.valveOpen = true) :
    s.crossed.steam.boiler = .draining
      ∧ s.crossed.steam.runOn = s.steam.runOn.map (CycleTimer.tick s.perSecond 20)
      ∧ s.crossed.steam.drainTimer = s.steam.drainTimer.map (CycleTimer.tick s.perSecond 110) := by
  obtain ⟨n, stroke, wait, steam⟩ := crossed_steam within
  have drains : s.steam.boiler = .draining := by
    rw [State.valveOpen, Bool.and_eq_true, decide_eq_true_eq] at valve
    exact valve.1
  rw [steam]
  exact ⟨drains, if_pos valve, if_pos valve⟩

/-- Settles O44. -/
theorem drainEnds : Obligations.DrainEnds := by
  refine ⟨fun s => ⟨handRequest_same rfl, ?handed⟩, fun s => ?served, fun s => ⟨?complete, ?timeout⟩⟩
  case handed =>
    intro req other working clears
    obtain ⟨⟨strokes, drainTimer, runOn, handed⟩, -, -, used, pass, soak⟩ := requestLeft_keeps req s
    obtain ⟨off, stopped, same⟩ := requestLeft_boiler req s
    obtain ⟨yes, no, started, wait⟩ := requestPlaced_leaves req s
    obtain ⟨o, b, v, c, cleared⟩ := clearOwed_keeps req (s.requestLeft req)
    have placed := requestPlaced_steam req s
    have boiler : (s.requestPlaced req).steam.boiler = (s.requestLeft req).boiler := by rw [placed, cleared]
    have pump : (s.requestPlaced req).steam.stroke = (s.requestLeft req).stroke
        ∧ (s.requestPlaced req).steam.fillWait = (s.requestLeft req).fillWait := by
      rw [placed, cleared]
      exact ⟨rfl, rfl⟩
    refine ⟨s.requestPlaced req, handRequest_other other, requestPlaced_request req s, ?_, ?_, yes, no, started, wait, ?_, ?_,
      ?_, ?_, ?_, ?_, requestPlaced_only req s⟩
    · rw [placed, cleared]
      dsimp only
      rw [used, Bool.or_eq_true, Bool.and_eq_true, decide_eq_true_eq]
    · rw [placed, cleared]
      exact pass
    · rw [placed, cleared]
      dsimp only
      rw [Bool.and_eq_true, decide_eq_true_eq, decide_eq_true_eq, requestLeft_draining]
    · rw [placed, cleared]
      dsimp only
      rw [soak, Bool.and_eq_true, decide_eq_true_eq]
    · rw [boiler]
      exact off
    · rw [boiler, pump.1, pump.2]
      exact stopped
    · rw [boiler, pump.1, pump.2]
      exact same
    · rw [placed, cleared]
      exact ⟨strokes, drainTimer, runOn, handed⟩
  case served =>
    intro t req wet working waits noFill noHeat fills heats soaks drains
    have bars : s.barsHeating = true ↔ noHeat := barsHeating_iff s
    have barsFill : s.barsFilling = true ↔ noFill := barsFilling_iff s
    have heat : heats s.heatState := by
      obtain ⟨barred, hot, cold⟩ := heatState_cases s
      exact ⟨fun no => barred (bars.mpr no), fun free => hot (Bool.eq_false_iff.mpr (mt bars.mp free)),
        fun free => cold (Bool.eq_false_iff.mpr (mt bars.mp free))⟩
    have runs : s.suspended = false ↔ s.runState ≠ some .paused := by rw [Bool.eq_false_iff, Ne, suspended_iff]
    have setSoak (x : State) (set : x.steam.soakHeating = true ↔ s.steam.soakHeating = true ∨ (s.barsHeating = false ∧ s.suspended = false)) :
        x.steam.soakHeating = true ↔ s.steam.soakHeating = true ∨ (¬noHeat ∧ s.runState ≠ some .paused) := by
      rwa [runs, Bool.eq_false_iff, Ne, bars] at set
    refine ⟨?idle, fun ready => ⟨fun steam off water => ⟨s.heatState, serve_heats ready steam off water, heat⟩, ?soak, ?drain, ?barred,
      ?room, ?full⟩, (serve_does s).only⟩
    case idle =>
      intro rests
      obtain wait | none | ⟨steam, works⟩ := rests
      · exact serve_waits wait
      · exact serve_noRequest s none
      · exact serve_steaming steam ((working_iff _).mpr works)
    case soak =>
      intro soak water
      obtain ⟨off, set⟩ := startSoak_steam s
      have serves : t = s.startSoak := serve_soaks ready soak water
      show t.steam.boiler = .off ∧ _
      rw [serves]
      exact ⟨off, setSoak s.startSoak set⟩
    case drain =>
      intro drain
      have serves : t.steam = _ := (congrArg State.steam (serve_drains ready drain)).trans (beginDrain_steam true s)
      have works : s.steam.boiler.working = true ↔ working := working_iff _
      have boiler : t.steam.boiler = if s.steam.boiler.working then .off else s.steam.boiler := by rw [serves]
      exact ⟨⟨by rw [serves], by rw [serves], by rw [serves]; rfl, by rw [serves]⟩,
        fun yes => boiler.trans (if_pos (works.mpr yes)), fun no => boiler.trans (if_neg (mt works.mp no))⟩
    case barred =>
      intro fill no
      exact (serve_fills ready fill).trans (startFill_barred (barsFill.mpr no))
    case room =>
      intro fill free room
      have serves : t = s.startFill := serve_fills ready fill
      rw [serves, (startFill_fills (Bool.eq_false_iff.mpr (mt barsFill.mp free)) room).1]
      exact ⟨rfl, rfl, fillWaitFor_eq s.steam.tank, fillWaitFor_none _⟩
    case full =>
      intro fill free high
      have serves : t = s.startFill := serve_fills ready fill
      obtain ⟨⟨strokes, stroke, wait⟩, steam, filled, soak, rinse⟩ := startFill_full (Bool.eq_false_iff.mpr (mt barsFill.mp free)) high
      rw [← serves] at strokes stroke wait steam filled soak rinse
      refine ⟨strokes, stroke, wait, fun steaming => ?_, filled, fun soaking => ?_, fun rinsing => ?_⟩
      · rw [steam steaming]
        exact heat
      · exact ⟨(soak soaking).1, setSoak t (soak soaking).2⟩
      · obtain ⟨ended, -⟩ := rinse rinsing
        exact ⟨by rw [ended], by rw [ended], by rw [ended], by rw [ended]; rfl, by rw [ended]⟩
  case complete =>
    intro valve reaches v u
    refine ⟨fun drains ⟨r, runOn, full⟩ => ?ends, fun frame => ?within⟩
    case ends =>
      have comes : (s.valveOpen && s.timerReaches 20 s.steam.runOn) = true := by
        rw [valve, (timerReaches_iff 20 s.steam.runOn s).mpr reaches]
        rfl
      obtain ⟨evaporation, owed, drainTimer, closed⟩ := drainEnds_closed v
      refine ⟨drainRow comes reaches.1 (fireDrain_complete drains runOn full), ⟨evaporation, owed, drainTimer, closed⟩,
        fun other => drainEnds_waiting other, fun other none => ?unasked, fun serves drain => ?drain, fun serves rinse => ?rinse,
        (drainEnds_does v).only.mono (by decide)⟩
      case unasked =>
        have ended : u = v.drained := (drainEnds_waiting other).trans (serve_noRequest v.drained none)
        rw [ended]
        rfl
      case drain =>
        rw [show u = _ from drainEnds_drain serves drain]
        exact ⟨rfl, rfl⟩
      case rinse =>
        refine ⟨drainEnds_pass serves rinse, fun first barred => ?_, fun first room free => ?_, fun first high free => ?_, fun last => ?_⟩
        · rw [show u = _ from (drainEnds_firstPass serves rinse (by omega)).trans (startFill_barred (s := v.rinsed) barred)]
          exact ⟨rfl, rfl, rfl⟩
        · obtain ⟨fills, account⟩ := startFill_fills (s := v.rinsed) free room
          rw [show u = _ from drainEnds_firstPass serves rinse (by omega), fills]
          exact ⟨rfl, rfl, rfl, account⟩
        · obtain ⟨ended, account⟩ := (startFill_full (s := v.rinsed) free high).2.2.2.2 rinse
          rw [show u = _ from drainEnds_firstPass serves rinse (by omega), ended]
          exact ⟨rfl, rfl, rfl, rfl, rfl, account⟩
        · rw [show u = _ from drainEnds_lastPass serves rinse (by omega)]
          exact ⟨rfl, rfl, rfl, rfl⟩
    case within =>
      obtain ⟨runs, c, at_, last, full⟩ := reaches
      obtain ⟨drains, runOn, -⟩ := crossed_draining (inFrame_of_runs runs frame) valve
      refine ⟨drains, runOn.trans ?_⟩
      rw [at_, Option.map_some, tick_reaches last (Nat.le_refl _) full]
  case timeout =>
    intro valve noRunOn reaches v u
    refine ⟨fun drains runOn overdue => ?ends, fun frame => ?within⟩
    case ends =>
      have comes : (s.valveOpen && s.steam.runOn.isNone && s.timerReaches 90 s.steam.drainTimer) = true := by
        rw [valve, noRunOn, (timerReaches_iff 90 s.steam.drainTimer s).mpr reaches]
        rfl
      obtain ⟨boiler, owed, drainTimer, closed⟩ := drainTimeoutEvent_owesOff v
      exact ⟨drainRow comes reaches.1 (fireDrain_timeout drains runOn overdue), ⟨boiler, owed, drainTimer, closed⟩,
        fun inactive => raiseDrainTimeout_record (s := v.drainTimesOut) inactive,
        fun inactive at_ p run => raiseDrainTimeout_program (s := v.drainTimesOut) inactive run,
        (drainTimeoutEvent_does v).only⟩
    case within =>
      obtain ⟨runs, c, at_, last, full⟩ := reaches
      obtain ⟨drains, runOn, drainTimer⟩ := crossed_draining (inFrame_of_runs runs frame) valve
      refine ⟨drains, runOn.trans (by rw [noRunOn]; rfl), drainTimer.trans ?_⟩
      rw [at_, Option.map_some, tick_reaches last (by decide) full]

end Sys2Proof.Machine
end

section
/-! PROOFS. The steps and phases of a program (R118, R123 to R131, R142, R144, R153). -/

namespace Sys2Proof.Machine

/-! ## A request handed leaves the account, but for FILL (R154) -/

/-- A fill that ends is no stroke event, but under FILL. -/
theorem fillEnds_only {s : State} (other : s.steam.request ≠ .fill) : Only [.boiler, .withdrawn] s s.fillEnds := by
  have stopped : Only [.boiler, .withdrawn] s (s.mapSteam Steam.stopPump) := (stopPump_does s).only.mono (by decide)
  have state (b : BoilerState) : Only [.boiler, .withdrawn] s ((s.mapSteam Steam.stopPump).setBoiler b) :=
    stopped.trans (setBoiler_does b _).only
  cases request : s.steam.request with
  | fill => exact absurd request other
  | none => rw [State.fillEnds, request]; exact state _
  | drain => rw [State.fillEnds, request]; exact state _
  | steam => rw [State.fillEnds, request]; exact state _
  | soak => rw [fillEnds_soak request]; exact stopped.trans (startSoak_does _).only
  | rinse => rw [fillEnds_rinse request]; exact (state .off).trans (beginDrain_does true _).only

/-- Nor is its start. -/
theorem startFill_only {s : State} (other : s.steam.request ≠ .fill) : Only [.boiler, .withdrawn] s s.startFill := by
  cases free : s.barsFilling with
  | true =>
    rw [startFill_barred free]
    exact (Does.refl (as := []) (bs := []) s).only.mono (by decide)
  | false =>
    have begun := fillBegun_only s
    by_cases high : s.steam.high = some .wet
    · rw [startFill_ends free high]
      exact begun.trans (fillEnds_only (by rw [fillBegun_steam]; exact other))
    · have fills : s.startFill
          = s.fillBegun.mapSteam (fun w => { w with fillWait := fillWaitFor w.tank, stroke := strokeUnder (fillWaitFor w.tank) }) := by
        have room : s.highWet = false := decide_eq_false high
        rw [State.startFill, if_neg (by rw [free]; decide)]
        exact if_neg (by rw [room]; decide)
      rw [fills]
      refine begun.trans fun a h => ?_
      cases a
      case boiler => exact absurd (by decide) h
      all_goals rfl

/-- Nor the service of a request. -/
theorem serve_only {s : State} (other : s.steam.request ≠ .fill) : Only [.boiler, .withdrawn] s s.serve := by
  have nothing : Only [.boiler, .withdrawn] s s := (Does.refl (as := []) (bs := []) s).only.mono (by decide)
  unfold State.serve
  split
  · exact nothing
  · split
    · exact nothing
    · split
      · exact nothing
      · split
        · exact (setBoiler_does _ s).only
        · exact startFill_only other
    · exact startFill_only other
    · split
      · exact (startSoak_does s).only
      · exact startFill_only other
    · exact (beginDrain_does true s).only
    · exact startFill_only other

/-- Any request but FILL leaves the account and its writes (R154). -/
theorem handRequest_only {req : BoilerRequest} (other : req ≠ .fill) (s : State) : Only [.boiler, .withdrawn] s (s.handRequest req) := by
  by_cases same : req = s.steam.request
  · rw [handRequest_same same]
    exact (Does.refl (as := []) (bs := []) s).only.mono (by decide)
  · rw [handRequest_other same]
    exact (requestPlaced_only req s).trans (serve_only (by rw [requestPlaced_request]; exact other))

/-! ## Phases (R124, R129, R130) -/

/-- A phase set at the sequencer's position. -/
theorem setPhase_eq {s : State} {at_ : Position} (run : s.seq.run = some at_) (phase : Phase) :
    s.setPhase phase = { s with seq := { s.seq with run := some { at_ with phase := phase } } } := by
  rw [State.setPhase, State.mapSeq, run]
  rfl

/-- The prompt of COUNT waits in a PROMPT_ONLY step (R130). -/
theorem countPrompt_seq (r : StepRecord) (s : State) :
    (s.countPrompt r).seq
      = if r.endKind = some .promptOnly then { s.seq with prompt := r.promptOut, promptTimer := some 0 } else s.seq := by
  unfold State.countPrompt
  split <;> rfl

/-- The probe is tested in a CORE step (R129). -/
theorem countProbe_seq (r : StepRecord) (s : State) :
    (s.countProbe r).seq
      = if r.endKind = some .core ∧ s.climate.coreStatus ≠ .present then s.seq.loseProbe r else s.seq := by
  unfold State.countProbe
  split <;> rfl

/-- A probe that is lost with a fallback converts the step (R129). -/
theorem loseProbe_fallback {r : StepRecord} {d : Nat} (fallback : r.fallback = some d) (q : Sequencer) :
    q.loseProbe r = { q with workKind := some .timed, workDuration := some d, elapsed := 0 } := by
  rw [Sequencer.loseProbe, fallback]

/-- Without one it is held (R129). -/
theorem loseProbe_holds {r : StepRecord} (none : r.fallback = none) (q : Sequencer) : q.loseProbe r = { q with probeHold := true } := by
  rw [Sequencer.loseProbe, none]

/-- The sequencer in COUNT, before the probe test. -/
def State.countSeq (r : StepRecord) (s : State) : Sequencer :=
  if r.endKind = some .promptOnly then { (s.setPhase .count).seq with prompt := r.promptOut, promptTimer := some 0 }
  else (s.setPhase .count).seq

/-- The sequencer as COUNT is entered. -/
theorem toCount_seq (r : StepRecord) (s : State) :
    (s.toCount r).seq
      = if r.endKind = some .core ∧ s.climate.coreStatus ≠ .present then (s.countSeq r).loseProbe r else s.countSeq r := by
  have prompted : (((s.setPhase .count).handRequest r.mode.request).countPrompt r).seq = s.countSeq r := by
    rw [countPrompt_seq, handRequest_seq]
    rfl
  rw [State.toCount, countProbe_seq, prompted, countPrompt_climate, handRequest_climate]
  rfl

/-- The steam generator as COUNT is entered. -/
theorem toCount_steam (r : StepRecord) (s : State) :
    (s.toCount r).steam = ((s.setPhase .count).handRequest r.mode.request).steam := by
  rw [State.toCount, countProbe_steam, countPrompt_steam]

/-- The prompt of COUNT has no part in its working copy. -/
theorem countSeq_keeps (r : StepRecord) (s : State) :
    let q := s.countSeq r
    q.run = s.seq.run.map (fun at_ => { at_ with phase := .count })
      ∧ (q.workKind = s.seq.workKind ∧ q.workDuration = s.seq.workDuration ∧ q.elapsed = s.seq.elapsed ∧ q.probeHold = s.seq.probeHold)
      ∧ (q.pauseFlag = s.seq.pauseFlag ∧ q.stopFlag = s.seq.stopFlag ∧ q.forcedCause = s.seq.forcedCause
        ∧ q.interruption = s.seq.interruption) := by
  unfold State.countSeq
  split <;> exact ⟨rfl, ⟨rfl, rfl, rfl, rfl⟩, rfl, rfl, rfl, rfl⟩

/-- The prompt of COUNT. -/
theorem countSeq_prompt (r : StepRecord) (s : State) :
    (r.endKind = some .promptOnly → (s.countSeq r).prompt = r.promptOut ∧ (s.countSeq r).promptTimer = some 0)
      ∧ (r.endKind ≠ some .promptOnly → (s.countSeq r).prompt = s.seq.prompt ∧ (s.countSeq r).promptTimer = s.seq.promptTimer) := by
  unfold State.countSeq
  exact ⟨fun only => by rw [if_pos only]; exact ⟨rfl, rfl⟩, fun other => by rw [if_neg other]; exact ⟨rfl, rfl⟩⟩

/-- What entry to COUNT may change. -/
theorem toCount_only (r : StepRecord) (s : State) : Only [.program, .boiler, .withdrawn, .scaleFlags, .writes] s (s.toCount r) :=
  ((((setPhase_does .count s).seq (handRequest_does _ _)).seq (countPrompt_does r _)).seq (countProbe_does r _)).only.mono (by decide)

/-- Entry to COUNT leaves the account, but under FILL. -/
theorem toCount_scale (r : StepRecord) {s : State} (other : r.mode.request ≠ .fill) : (s.toCount r).scale = s.scale := by
  have handed := (handRequest_only other (s.setPhase .count)).scale
  have prompted := (countPrompt_does r ((s.setPhase .count).handRequest r.mode.request)).only.scale
  exact ((countProbe_does r _).only.scale.trans prompted).trans handed

/-- The humid modes are those that ask for STEAM (R75, R124). -/
theorem humid_request {m : Mode} (humid : m.humid = true) : m.request = .steam := by
  cases m <;> first | rfl | cases humid

/-- The next step dries, or there is none (R131). -/
theorem driesAfter_iff (p : Program) (i : Nat) : p.driesAfter i = true ↔ ∀ q, p.step (i + 1) = some q → q.mode.humid = false := by
  unfold Program.driesAfter
  cases p.step (i + 1) <;> simp

/-- A step passes to VENT where a humid one is followed by a dry one or by none (R131). -/
theorem ventOrComplete_run {s : State} {at_ : Position} {p : Program} (run : s.activeRun = some (at_, p)) :
    (s.stepHumid = true ∧ (∀ q, p.step (at_.step + 1) = some q → q.mode.humid = false) → s.ventOrComplete = s.toVent)
      ∧ (¬(s.stepHumid = true ∧ ∀ q, p.step (at_.step + 1) = some q → q.mode.humid = false) → s.ventOrComplete = s.stepComplete) := by
  rw [← driesAfter_iff, ← Bool.and_eq_true, State.ventOrComplete, run]
  exact ⟨fun dries => if_pos dries, fun goesOn => if_neg goesOn⟩

/-- VENT hands NONE and begins its vent, or goes on with one (R72, R131). -/
theorem toVent_fields {s : State} {at_ : Position} (run : s.seq.run = some at_) :
    s.toVent.seq = { s.seq with run := some { at_ with phase := .vent } } ∧ s.toVent.steam.request = .none
      ∧ s.toVent.climate.venting = true
      ∧ (s.climate.venting = false → s.toVent.climate.ventTimer = some ⟨0, 0⟩
          ∧ (s.load.running = true → ∀ i, s.toVent.load.withdrawn.get i = true)) := by
  let x := (s.setPhase .vent).handRequest .none
  have only := (beginVent_does x).only
  have seq : s.toVent.seq = (s.setPhase .vent).seq := only.seq.trans (handRequest_seq .none _)
  have climate : x.climate = s.climate := handRequest_climate .none _
  have running : x.load.running = s.load.running := by
    have frame := (handRequest_does .none (s.setPhase .vent)).same .frame (by decide)
    exact (Prod.mk.inj frame).1
  refine ⟨?_, ?_, ?_, fun idle => ?_⟩
  · rw [seq, setPhase_eq run]
  · show x.beginVent.steam.request = .none
    rw [only.steam]
    exact handRequest_request .none _
  · show x.beginVent.climate.venting = true
    cases venting : x.climate.venting with
    | true => rw [beginVent_venting venting]; exact venting
    | false => exact (beginVent_fields venting).1
  · obtain ⟨-, timer, -, -, withdrawn, -⟩ := beginVent_fields (s := x) (by rw [climate]; exact idle)
    exact ⟨timer, fun runs => withdrawn (running.trans runs)⟩

/-! ## The entry to a step (R54, R61, R64, R123) -/

/-- The humidity target of a step (R54). -/
theorem target_eq (r : StepRecord) :
    r.target = match r.mode with
      | .reheat => some 50
      | .proof => some (r.humidity.getD 75)
      | .combi => r.humidity
      | _ => none := by
  unfold StepRecord.target
  cases r.mode <;> rfl

/-- Two modes drive the same loads (R61). -/
theorem loadSet_iff (old : Option Mode) (m : Mode) :
    loadSetOf old = m.loadSet ↔ ∀ i, 0 < m.weight i ↔ ∃ o, old = some o ∧ 0 < o.weight i := by
  have drives (i : Load) : (loadSetOf old).get i = true ↔ ∃ o, old = some o ∧ 0 < o.weight i := by
    cases old with
    | none => cases i <;> simp [loadSetOf, PerLoad.all, PerLoad.get]
    | some o => cases i <;> simp [loadSetOf, Mode.loadSet, PerLoad.make, PerLoad.get]
  have sets (i : Load) : m.loadSet.get i = true ↔ 0 < m.weight i := by
    cases i <;> simp [Mode.loadSet, PerLoad.make, PerLoad.get]
  have ext (x y : PerLoad Bool) : x = y ↔ ∀ i, x.get i = y.get i := by
    refine ⟨fun same i => by rw [same], fun same => ?_⟩
    have top := same .top
    have bottom := same .bottom
    have ring := same .ring
    have boiler := same .boiler
    cases x
    cases y
    exact PerLoad.mk.injEq .. |>.mpr ⟨top, bottom, ring, boiler⟩
  rw [ext]
  exact forall_congr' fun i => by rw [Bool.eq_iff_iff, drives, sets]; exact comm

/-- The humidity-regulated modes (R53). -/
theorem regulated_iff (m : Mode) : m.humidityRegulated = true ↔ m = .combi ∨ m = .reheat ∨ m = .proof := by
  cases m <;> decide

/-- The humidity integrator is kept between two of them (R64). -/
theorem keepsHumI_iff (c : Climate) (m : Mode) :
    c.keepsHumI m = true ↔ (m = .combi ∨ m = .reheat ∨ m = .proof)
      ∧ ∃ old, c.mode = some old ∧ (old = .combi ∨ old = .reheat ∨ old = .proof) := by
  have regulates : c.regulatesHumidity = true ↔ ∃ old, c.mode = some old ∧ (old = .combi ∨ old = .reheat ∨ old = .proof) := by
    unfold Climate.regulatesHumidity
    cases c.mode with
    | none => simp
    | some old => simp [regulated_iff]
  rw [Climate.keepsHumI, Bool.and_eq_true, regulates, regulated_iff, and_comm]

/-- The climate record of a step entered, with its integrators (R54, R61, R64). -/
theorem forStep_fields (r : StepRecord) (c : Climate) :
    let t := c.forStep r
    let sameLoads := ∀ i, 0 < r.mode.weight i ↔ ∃ old, c.mode = some old ∧ 0 < old.weight i
    let bothHumid := (r.mode = .combi ∨ r.mode = .reheat ∨ r.mode = .proof)
      ∧ ∃ old, c.mode = some old ∧ (old = .combi ∨ old = .reheat ∨ old = .proof)
    (sameLoads → t.tempI = c.tempI) ∧ (¬sameLoads → t.tempI = 0) ∧ (bothHumid → t.humI = c.humI) ∧ (¬bothHumid → t.humI = 0) := by
  intro t sameLoads bothHumid
  have loads : loadSetOf c.mode = r.mode.loadSet ↔ sameLoads := loadSet_iff c.mode r.mode
  have humid : c.keepsHumI r.mode = true ↔ bothHumid := keepsHumI_iff c r.mode
  exact ⟨fun h => if_pos (loads.mpr h), fun h => if_neg (mt loads.mp h), fun h => if_pos (humid.mpr h),
    fun h => if_neg (mt humid.mp h)⟩

/-- A boiler fault refuses a humid step (R171). -/
theorem humidBlocked_iff (s : State) :
    s.humidBlocked = true
      ↔ s.faults.boilerSensor.active = true ∨ s.faults.boilerDry.active = true ∨ s.faults.drainTimeout.active = true := by
  simp only [State.humidBlocked, State.faultActive, Bool.or_eq_true, or_assoc]
  rfl

/-- A humid step under a boiler fault is not entered (R123, R171). -/
theorem enterStep_refused {ix : SlotIx} {p : Program} {i : Nat} {r : StepRecord} {s : State} (step : p.step i = some r)
    (recipe : p.kind = .recipe) (humid : r.mode.humid = true) (blocked : s.humidBlocked = true) :
    s.enterStep ix p i = s.endAborted .fault := by
  rw [State.enterStep, step]
  exact if_pos (by rw [decide_eq_true recipe, humid, blocked]; rfl)

/-- Any other is (R123). -/
theorem enterStep_enters {ix : SlotIx} {p : Program} {i : Nat} {r : StepRecord} {s : State} (step : p.step i = some r)
    (free : ¬(p.kind = .recipe ∧ r.mode.humid = true ∧ s.humidBlocked = true)) : s.enterStep ix p i = s.admitStep ix p i r := by
  rw [State.enterStep, step]
  refine if_neg fun blocked => free ?_
  simpa [and_assoc] using blocked

/-- A RECIPE step begins in its first phase (R123, R124). -/
theorem admitStep_recipe {p : Program} (recipe : p.kind = .recipe) (ix : SlotIx) (i : Nat) (r : StepRecord) (s : State) :
    s.admitStep ix p i r = (stepAdmitted ix i r s).toPromptIn r := by
  rw [State.admitStep, recipe]
  rfl

/-- A service step has COUNT alone (R153). -/
theorem admitStep_service {p : Program} (service : p.kind = .service) (ix : SlotIx) (i : Nat) (r : StepRecord) (s : State) :
    s.admitStep ix p i r = ((stepAdmitted ix i r s).rinseEntry r).toCount r := by
  rw [State.admitStep, service]
  rfl

/-- What is left of a step record once its duration is the working one (R118). -/
theorem forWork_fields (r : StepRecord) :
    r.forWork.endKind = r.endKind
      ∧ r.forWork.duration = if r.endKind = some .timed ∨ r.endKind = some .banded then r.duration else none := by
  unfold StepRecord.forWork
  split
  · exact ⟨rfl, rfl⟩
  · exact ⟨rfl, rfl⟩

/-- The climate regulator once a step is admitted. -/
theorem stepAdmitted_record (ix : SlotIx) (i : Nat) (r : StepRecord) (s : State) :
    let c := (stepAdmitted ix i r s).climate
    (c.mode = some r.mode ∧ c.setpoint = r.setpoint ∧ c.venting = false) ∧ c.humidityTarget = r.target
      ∧ c.tempI = (s.climate.forStep r).tempI ∧ c.humI = (s.climate.forStep r).humI ∧ c.coreStatus = s.climate.coreStatus := by
  obtain ⟨a, b, climate⟩ := stepAdmitted_climate ix i r s
  rw [climate]
  exact ⟨⟨rfl, rfl, rfl⟩, rfl, rfl, rfl, rfl⟩

/-! ## A step that is complete (R131, R142, R144) -/

/-- When stopping it ends the program. -/
theorem stepComplete_stopping {s : State} {at_ : Position} {p : Program} (run : s.activeRun = some (at_, p))
    (stops : s.seq.stopFlag = true) : s.stepComplete = s.endAborted .stopped := by
  rw [State.stepComplete, run]
  exact if_pos stops

/-- The last step finishes it, and the chain is examined. -/
theorem stepComplete_last {s : State} {at_ : Position} {p : Program} (run : s.activeRun = some (at_, p))
    (goes : s.seq.stopFlag = false) (last : p.stepCount ≤ at_.step + 1) :
    s.stepComplete = (s.endProgram .finished).openDueValve.chain at_.slot := by
  rw [State.stepComplete, run]
  exact (if_neg (by rw [goes]; decide)).trans (if_neg (Nat.not_lt.mpr last))

/-- Any other gives the next. -/
theorem stepComplete_next {s : State} {at_ : Position} {p : Program} (run : s.activeRun = some (at_, p))
    (goes : s.seq.stopFlag = false) (more : ¬p.stepCount ≤ at_.step + 1) :
    s.stepComplete = s.enterStep at_.slot p (at_.step + 1) := by
  rw [State.stepComplete, run]
  exact (if_neg (by rw [goes]; decide)).trans (if_pos (Nat.not_le.mp more))

/-- A READY program with its chain flag starts, unless its start is refused (R144). -/
theorem chain_ready {s : State} {ended : SlotIx} {q : Program} (ready : s.store.slot ended.other = .ready q) (flag : q.chain = true) :
    (s.startRefusal q = none → s.chain ended = s.startProgram ended.other q)
      ∧ ∀ a, s.startRefusal q = some a → s.chain ended = { s with report := { s.report with chainRefusal := some a } } := by
  have examined : s.chain ended = match s.startRefusal q with
      | none => s.startProgram ended.other q
      | some c => s.mapReport (fun u => { u with chainRefusal := some c }) := by
    rw [State.chain, ready]
    exact if_pos flag
  refine ⟨fun free => ?_, fun a refused => ?_⟩
  · rw [examined, free]
  · rw [examined, refused]
    rfl

/-- With none nothing starts (R144). -/
theorem chain_none {s : State} {ended : SlotIx} (none : ¬∃ q, s.store.slot ended.other = .ready q ∧ q.chain = true) :
    s.chain ended = s := by
  unfold State.chain
  cases slot : s.store.slot ended.other with
  | ready q => exact if_neg fun flag => none ⟨q, slot, flag⟩
  | empty => rfl
  | loading _ => rfl
  | active _ => rfl
  | done _ _ => rfl

/-- The end of COUNT waits for the step's prompt (R131). -/
theorem endCount_prompt {s : State} {r : StepRecord} (step : s.activeStep = some r) (prompt : r.promptOut.isSome = true)
    (other : r.endKind ≠ some .promptOnly) :
    s.endCount = ((s.clearProbe.setPhase .promptOut).handRequest .none).waitPrompt r.promptOut := by
  rw [State.endCount, step]
  exact if_pos (by rw [prompt, decide_eq_true other]; rfl)

/-- Without one it goes on to VENT, or the step is complete (R131). -/
theorem endCount_goesOn {s : State} {r : StepRecord} (step : s.activeStep = some r)
    (none : r.promptOut.isSome = false ∨ r.endKind = some .promptOnly) : s.endCount = s.clearProbe.ventOrComplete := by
  rw [State.endCount, step]
  refine if_neg fun waits => ?_
  rw [Bool.and_eq_true, decide_eq_true_eq] at waits
  exact none.elim (fun no => absurd (no.symm.trans waits.1) (by decide)) waits.2

/-- Settles O48. -/
theorem stepsAndPhases : Obligations.StepsAndPhases := by
  intro s at_ p run last boilerFault regulated bothHumid sameLoads
  obtain ⟨position, slot⟩ := activeRun_parts run
  have blocked : s.humidBlocked = true ↔ boilerFault := humidBlocked_iff s
  refine ⟨stepComplete_stopping run, fun goes end_ => ?last, fun goes more r step => ⟨?refused, ?recipe, ?service⟩, fun r => ?phases,
    fun m => ?modes, fun r step => ?count⟩
  case last =>
    intro e f
    have ends : s.stepComplete = f.chain at_.slot := stepComplete_last run goes end_
    rw [ends]
    exact ⟨fun q ready flag => chain_ready ready flag, chain_none⟩
  case refused =>
    intro recipe humid fault
    rw [stepComplete_next run goes more, enterStep_refused step recipe humid (blocked.mpr fault)]
  case recipe =>
    intro recipe free phase t timedKind lost
    let x := stepAdmitted at_.slot (at_.step + 1) r s
    have form : t = x.toPromptIn r := by
      show s.stepComplete = _
      rw [stepComplete_next run goes more, enterStep_enters step (fun h => free ⟨h.2.1, blocked.mp h.2.2⟩), admitStep_recipe recipe]
    obtain ⟨store, climate, -, request, -⟩ := toPromptIn_blocks r x
    obtain ⟨record, target, tempI, humI, core⟩ := stepAdmitted_record at_.slot (at_.step + 1) r s
    have admitted : x.seq = _ := stepAdmitted_seq at_.slot (at_.step + 1) r s
    obtain ⟨kind, duration⟩ := forWork_fields r
    obtain ⟨moved, kept, converted, held, promptIn, promptOnly, noPrompt, -⟩ :=
      toPromptIn_seq r x ⟨at_.slot, at_.step + 1, .count⟩ (by rw [admitted]; rfl) (by rw [admitted]; rfl) (by rw [admitted]; rfl)
    have lost_iff : probeLost r x ↔ lost := by rw [probeLost, core]; exact Iff.rfl
    obtain ⟨sameT, otherT, sameH, otherH⟩ := forStep_fields r s.climate
    rw [lost_iff] at kept converted held
    have fresh : x.seq.elapsed = 0 ∧ x.seq.probeHold = false ∧ x.seq.workKind = r.endKind
        ∧ x.seq.workDuration = if timedKind then r.duration else none := by
      rw [admitted]
      exact ⟨rfl, rfl, kind, duration⟩
    rw [form, store, climate]
    refine ⟨moved, ?_, record, target.trans (target_eq r), fun same => tempI.trans (sameT same), fun other => tempI.trans (otherT other),
      fun both => humI.trans (sameH both), fun other => humI.trans (otherH other), request, ?_, fun present => ?_, fun gone d at_ => ?_,
      fun gone none => ?_, promptIn, promptOnly, noPrompt⟩
    · rw [stepAdmitted_store]
      exact slot
    · by_cases gone : lost
      · cases fallback : r.fallback with
        | none => exact (held gone fallback).2.2.trans fresh.1
        | some d => exact (converted gone d fallback).2.2.2
      · exact (kept gone).2.2.2.trans fresh.1
    · obtain ⟨work, hold, limit, -⟩ := kept present
      exact ⟨work.trans fresh.2.2.1, hold.trans fresh.2.1, limit.trans fresh.2.2.2⟩
    · obtain ⟨work, limit, hold, -⟩ := converted gone d at_
      exact ⟨work, limit, hold.trans fresh.2.1⟩
    · obtain ⟨work, hold, -⟩ := held gone none
      exact ⟨(work.trans fresh.2.2.1).trans gone.2.1, hold⟩
  case service =>
    intro service t
    let x := stepAdmitted at_.slot (at_.step + 1) r s
    have form : t = (x.rinseEntry r).toCount r := by
      show s.stepComplete = _
      rw [stepComplete_next run goes more, enterStep_enters step (fun h => absurd (service.symm.trans h.1) (by decide)),
        admitStep_service service]
    obtain ⟨⟨mode, -⟩, -, tempI, humI, -⟩ := stepAdmitted_record at_.slot (at_.step + 1) r s
    obtain ⟨sameT, otherT, sameH, otherH⟩ := forStep_fields r s.climate
    have climate : t.climate = x.climate := by
      rw [form]
      exact (toCount_only r _).climate.trans (rinseEntry_does r x).only.climate
    have position : t.seq.run = some ⟨at_.slot, at_.step + 1, .count⟩ := by
      rw [form, (toCount_position r _).2, rinseEntry_seq]
      exact congrArg (fun q : Sequencer => q.run.map (fun a => { a with phase := .count }))
        (stepAdmitted_seq at_.slot (at_.step + 1) r s)
    rw [climate]
    refine ⟨position, mode, fun same => tempI.trans (sameT same), fun other => tempI.trans (otherT other),
      fun both => humI.trans (sameH both), fun other => humI.trans (otherH other), ?_, fun rinse => ?_⟩
    · rw [form, toCount_steam]
      exact handRequest_request _ _
    · rw [form, toCount_scale r (by rw [rinse]; decide), State.rinseEntry, if_pos rinse]
      rfl
  case phases =>
    intro entered lost t
    have enter (phase : Phase) : s.setPhase phase = entered phase := setPhase_eq position phase
    obtain ⟨moved, ⟨work, limit, elapsed, hold⟩, pause, stop, cause, interruption⟩ := countSeq_keeps r s
    obtain ⟨prompted, unprompted⟩ := countSeq_prompt r s
    have seq : t.seq = if lost then (s.countSeq r).loseProbe r else s.countSeq r := toCount_seq r s
    have keptIf (present : ¬lost) : t.seq = s.countSeq r := seq.trans (if_neg present)
    have converted (gone : lost) {d : Nat} (at_ : r.fallback = some d) :
        t.seq = { s.countSeq r with workKind := some .timed, workDuration := some d, elapsed := 0 } :=
      (seq.trans (if_pos gone)).trans (loseProbe_fallback at_ _)
    have held (gone : lost) (none : r.fallback = none) : t.seq = { s.countSeq r with probeHold := true } :=
      (seq.trans (if_pos gone)).trans (loseProbe_holds none _)
    have probeKeeps : ∃ k d e h, t.seq = { s.countSeq r with workKind := k, workDuration := d, elapsed := e, probeHold := h } := by
      by_cases gone : lost
      · cases fallback : r.fallback with
        | none => rw [held gone fallback]; exact ⟨_, _, _, _, rfl⟩
        | some d => rw [converted gone fallback]; exact ⟨_, _, _, _, rfl⟩
      · rw [keptIf gone]
        exact ⟨_, _, _, _, rfl⟩
    obtain ⟨k, d, e, h, probe⟩ := probeKeeps
    refine ⟨fun humid => ?_, fun dry => ?_, fun preheats => ?_, fun none => ?_, ⟨?_, ?_⟩, fun only => ?_, fun other => ?_,
      fun present => ?_, fun gone d at_ => ?_, fun gone none => ?_, ?_, toCount_only r s⟩
    · rw [State.toPrepare, if_pos humid, enter]
    · rw [State.toPrepare, if_neg (by rw [dry]; decide)]
    · rw [State.toPreheat, if_pos preheats, enter]
    · rw [State.toPreheat, if_neg (by rw [none]; decide)]
    · rw [probe]
      exact moved.trans (by rw [position]; rfl)
    · rw [← enter]
      exact toCount_steam r s
    · rw [probe]
      exact prompted only
    · rw [probe]
      exact unprompted other
    · rw [keptIf present]
      exact ⟨work, limit, elapsed, hold⟩
    · rw [converted gone at_]
      exact ⟨rfl, rfl, rfl, hold⟩
    · rw [held gone none]
      exact ⟨work, limit, elapsed, rfl⟩
    · rw [probe]
      exact ⟨pause, stop, cause, interruption⟩
  case modes =>
    cases m <;> decide
  case count =>
    intro u dries
    have stepOf : s.activeStep = some r := (activeStep_of_run run).trans step
    obtain ⟨vents, completes⟩ := ventOrComplete_run (s := s.clearProbe) run
    refine ⟨fun prompt other => ?_, fun none => ⟨fun dry => ?_, fun wet => ?_⟩, fun _ => ?_⟩
    · rw [endCount_prompt stepOf prompt other]
      have handed : ((s.clearProbe.setPhase .promptOut).handRequest .none).seq = (s.clearProbe.setPhase .promptOut).seq :=
        handRequest_seq .none _
      have run' : (s.clearProbe.setPhase .promptOut).seq.run = some { at_ with phase := .promptOut } := by
        rw [setPhase_eq (s := s.clearProbe) position]
      refine ⟨?_, rfl, rfl, handRequest_request .none _, ?_⟩
      · rw [waitPrompt_run, handed, run']
      · show ((s.clearProbe.setPhase .promptOut).handRequest .none).seq.probeHold = false
        rw [handed]
        rfl
    · rw [endCount_goesOn stepOf none]
      exact vents dry
    · rw [endCount_goesOn stepOf none]
      exact completes wet
    · obtain ⟨seq, request, venting, -⟩ := toVent_fields position
      exact ⟨by rw [seq], request, venting⟩

end Sys2Proof.Machine
end

section
/-! PROOFS. The retained write (R169, R200), and the path of a request (R175 to R179, R195). -/

namespace Sys2Proof.Machine

/-! ## The retained write (R200) -/

/-- A write that ends with a good read-back is stored, and the pending one starts (R200). -/
theorem complete_good {r : Retained} {c : Contents} (writing : r.writing = some c) :
    r.complete true = { stored := .written c c.check, writing := r.pendingWrite, pendingWrite := none } := by
  rw [Retained.complete, writing]
  rfl

/-- One that ends with another leaves the record torn, and starts again (R200). -/
theorem complete_bad {r : Retained} {c : Contents} (writing : r.writing = some c) :
    r.complete false = { stored := .written c (~~~ c.check), writing := some (r.pendingWrite.getD c), pendingWrite := none } := by
  rw [Retained.complete, writing]
  rfl

/-- The retained record is no part of a report (R183). -/
theorem reported_retained (s : State) (r : Retained) : s.reported { s with retained := r } = { s with retained := r } :=
  reported_of_views rfl rfl rfl

/-- RETAINED_RECORD as a good read-back leaves it (R164, R169). -/
theorem retainedRecord_goes (r : FaultRecord) :
    r.goes .retainedRecord = if r.active = true ∧ r.latched = false then { r with latched := true } else r := by
  by_cases ends : r.active = true ∧ r.latched = false
  · rw [if_pos ends, goes_of_inForce ends.1 ends.2 (by decide)]
    rfl
  · rw [if_neg ends]
    refine goes_of_unmoved ?_
    cases active : r.active
    · exact .inl rfl
    · exact .inr (.inl (Bool.of_not_eq_false fun unlatched => ends ⟨active, unlatched⟩))

/-- Settles O49. -/
theorem retainedWrite : Obligations.RetainedWrite := by
  intro s
  refine ⟨fun good idle => ?idle, fun c writing => ⟨?good, ?bad⟩⟩
  case idle =>
    have same : s.writeEnds good = s := by
      have kept : s.mapRetained (Retained.complete good) = s := by
        rw [State.mapRetained, Retained.complete, idle]
      rw [State.writeEnds, kept, idle, Option.isSome_none, Bool.and_false]
      rfl
    show s.report_ (s.writeEnds good) = _
    rw [same, report_same]
  case good =>
    intro r ends stored
    have written : s.writeEnds true
        = { s with retained := stored, faults := { s.faults with retainedRecord := r.goes .retainedRecord } } := by
      have t : s.mapRetained (Retained.complete true) = { s with retained := stored } := by
        rw [State.mapRetained, complete_good writing]
      rw [State.writeEnds, t, writing, Option.isSome_some, if_pos (by decide), condGone_latching rfl]
      rfl
    show (¬ends → s.report_ (s.writeEnds true) = _) ∧ (ends → s.report_ (s.writeEnds true) = _)
    rw [written, retainedRecord_goes]
    refine ⟨fun stays => ?_, fun goes => ?_⟩
    · rw [if_neg stays]
      exact congrArg _ (reported_retained s stored)
    · rw [if_pos goes]
      rfl
  case bad =>
    have torn : s.writeEnds false = { s with retained := s.retained.complete false } := rfl
    show s.report_ (s.writeEnds false) = _
    rw [torn, complete_bad writing]
    exact congrArg _ (reported_retained s _)

/-! ## The path of a request (R175 to R178) -/

/-- A REQUEST frame of another station, received, goes to the request unit (R192). -/
theorem receive_request {src : Nat} {s : State} (receives : s.receives = true) (other : src ≠ s.station) (code : Byte)
    (body : List Byte) (back : Returning) :
    s.receive (s.requestFrame src code body) back = s.reported (s.frameEnds.arrive src (code :: body) back) := by
  have own : s.frameEnds.station = s.station := rfl
  simp [State.receive, receives, State.receiveGood, State.requestFrame, other, own, State.takeFrame]

/-- DUPLICATE_STATION drops every request but STOP (R175). -/
theorem arrive_dropped {src : Nat} {code : Byte} {body : List Byte} {s : State} (back : Returning)
    (duplicate : s.faults.duplicateStation.active = true) (other : code.toNat ≠ 7) :
    s.frameEnds.arrive src (code :: body) back = s.heard := by
  have active : s.heard.faultActive .duplicateStation = true := (heard_faultActive s _).trans duplicate
  exact if_pos (Bool.and_eq_true_iff.mpr ⟨active, decide_eq_true other⟩)

/-- Any other is judged (R176). -/
theorem arrive_judged {src : Nat} {code : Byte} {body : List Byte} {s : State} (back : Returning)
    (taken : ¬(s.faults.duplicateStation.active = true ∧ code.toNat ≠ 7)) :
    s.frameEnds.arrive src (code :: body) back = (s.heard.judge src code.toNat body back).reply_ src code := by
  have active : s.heard.faultActive .duplicateStation = s.faults.duplicateStation.active := heard_faultActive s _
  refine if_neg fun drops => taken ?_
  rwa [frameEnds_leaveQuiet, active, Bool.and_eq_true, decide_eq_true_eq] at drops

/-- A refused request is answered with the refusal; a STEP_PART_A is dropped (R176, R177). -/
theorem judge_refused {src code : Nat} {body : List Byte} {s : State} {a : AnswerCode} (back : Returning)
    (refused : s.requestRefusal src code body = some a) :
    s.judge src code body back = if code = 2 then ⟨s, .silent⟩ else ⟨s, .code a (s.standingData code body)⟩ := by
  rw [State.judge, refused]
  rfl

/-- The length of a request's payload, by its code (R195). -/
theorem requestLength_iff (n k : Nat) :
    requestLength n = some (k + 1) ↔ [0, 4, 7, 8, 2, 1, 1, 1, 1, 7, 2, 2, 2, 2, 1, 1, 2][n]? = some (k + 1) := by
  by_cases listed : n < 17
  · interval_cases n <;> simp [requestLength]
  · have beyond : requestLength n = none := by
      unfold requestLength
      split <;> first | omega | rfl
    rw [beyond, List.getElem?_eq_none (by simp only [List.length_cons, List.length_nil]; omega)]

/-- A source that is no counted peer is refused (R176). -/
theorem sourceRefusal_unknown {src : Nat} {s : State}
    (none : s.countedPeers.find? (fun p => decide (p.station = src)) = none) : s.sourceRefusal src = some .unknownSource := by
  rw [State.sourceRefusal, none]

/-- So is one that is neither PANEL nor MODULE; they alone are taken (R176). -/
theorem sourceRefusal_found {src : Nat} {s : State} {p : Peer}
    (found : s.countedPeers.find? (fun p => decide (p.station = src)) = some p) :
    s.sourceRefusal src = if p.kind = .panel ∨ p.kind = .module then none else some .notPermitted := by
  rw [State.sourceRefusal, found]

/-- A good source with another length is refused (R177). -/
theorem requestRefusal_length {src code : Nat} {body : List Byte} {s : State} (known : s.sourceRefusal src = none)
    (length : requestLength code ≠ some (body.length + 1)) : s.requestRefusal src code body = some .badField := by
  rw [State.requestRefusal, known]
  exact if_neg length

/-- A refused source refuses its request (R176). -/
theorem requestRefusal_source {src code : Nat} {body : List Byte} {s : State} {a : AnswerCode}
    (refused : s.sourceRefusal src = some a) : s.requestRefusal src code body = some a := by
  rw [State.requestRefusal, refused]

/-- A request that no check refuses has a known source and its length (R176, R177). -/
theorem requestRefusal_none {src code : Nat} {body : List Byte} {s : State} (passes : s.requestRefusal src code body = none) :
    s.sourceRefusal src = none ∧ requestLength code = some (body.length + 1) := by
  cases source : s.sourceRefusal src with
  | some a => exact absurd (passes.symm.trans (requestRefusal_source source)) (by simp)
  | none =>
    refine ⟨rfl, Classical.byContradiction fun length => ?_⟩
    exact absurd (passes.symm.trans (requestRefusal_length source length)) (by simp)

/-- A source that is not refused is a counted PANEL or MODULE (R176). -/
theorem sourceRefusal_none {src : Nat} {s : State} (passes : s.sourceRefusal src = none) :
    ∃ p, s.countedPeers.find? (fun p => decide (p.station = src)) = some p ∧ (p.kind = .panel ∨ p.kind = .module) := by
  cases found : s.countedPeers.find? (fun p => decide (p.station = src)) with
  | none => exact absurd (passes.symm.trans (sourceRefusal_unknown found)) (by simp)
  | some p =>
    rw [sourceRefusal_found found] at passes
    refine ⟨p, rfl, Classical.byContradiction fun other => ?_⟩
    rw [if_neg other] at passes
    cases passes

/-- An answer is one entry of the queue (R178). -/
theorem answer_only (src : Nat) (code : Byte) (a : AnswerCode) (d : List Byte) (s : State) : Only [.queue] s (s.answer src code a d) := by
  exact (answer_does src code a d s).only

/-- A heard frame leaves the line IDLE, the LFSR advanced and QUIET left (R22, R31, R189). -/
theorem heard_fields (s : State) :
    s.heard.bus.link = .idle ∧ s.heard.share.lfsr = lfsrNext s.share.lfsr ∧ s.heard.share.state ≠ .quiet
      ∧ (s.share.state ≠ .quiet → Only [.link, .lfsr] s s.heard) := by
  have left := (leaveQuiet_does s.frameEnds).only
  have link := left .link (by decide)
  have lfsr := left .lfsr (by decide)
  have ends : Only [.link, .lfsr] s s.frameEnds := by
    intro a h
    cases a <;> first | exact absurd (by decide) h | rfl
  have loud : s.frameEnds.share.state = s.share.state := rfl
  refine ⟨(Prod.mk.inj link).1, lfsr, ?_, fun awake => ?_⟩
  · by_cases quiet : s.share.state = .quiet
    · obtain ⟨-, -, free, enough, short⟩ := leaveQuiet_quiet (s := s.frameEnds) quiet
      show s.frameEnds.leaveQuiet.share.state ≠ .quiet
      by_cases limit : s.frameEnds.limit = none
      · rw [free limit]
        decide
      · by_cases hold : s.frameEnds.load.ceiling ≤ s.frameEnds.share.hold
        · rw [enough limit hold]
          decide
        · rw [short limit (Nat.not_le.mp hold)]
          decide
    · show s.frameEnds.leaveQuiet.share.state ≠ .quiet
      rw [leaveQuiet_loud (s := s.frameEnds) quiet]
      exact quiet
  · show Only [.link, .lfsr] s s.frameEnds.leaveQuiet
    rw [leaveQuiet_loud (s := s.frameEnds) awake]
    exact ends

/-- Settles O50. -/
theorem requestPath : Obligations.RequestPath := by
  intro src code body s receives other h frame n lengths duplicate dropped peer known data refused
  have row (back : Returning) : s.receive (s.requestFrame src code body) back
      = s.reported (s.frameEnds.arrive src (code :: body) back) := receive_request receives other code body back
  have counted : s.heard.countedPeers = s.countedPeers := heard_countedPeers s
  have standing : s.heard.standingData code.toNat body = data := by
    rw [State.standingData, heard_faults]
    rfl
  have refuses {a : AnswerCode} (taken : ¬dropped) (no : s.heard.requestRefusal src code.toNat body = some a) : refused a := by
    have ends : s.frameEnds.arrive src (code :: body) .nothing = _ := arrive_judged .nothing taken
    rw [judge_refused .nothing no] at ends
    refine ⟨fun partA => ?_, fun answers => ?_⟩
    · rw [if_pos partA] at ends
      exact congrArg _ ((row .nothing).trans (congrArg _ ends))
    · rw [if_neg answers, standing] at ends
      exact congrArg _ ((row .nothing).trans (congrArg _ ends))
  obtain ⟨link, lfsr, awake, only⟩ := heard_fields s
  refine ⟨⟨link, lfsr, awake, only, heard_only s⟩, fun ⟨double, notStop⟩ => ?dropped, fun taken none => ?unknown,
    fun taken ⟨p, found, notPanel, notModule⟩ => ?other, fun taken ⟨p, found, kind⟩ length => ?length, fun a d => ⟨rfl, answer_only _ _ _ _ _⟩,
    by decide, ⟨rfl, rfl, rfl, rfl, rfl, rfl, rfl, rfl, rfl, rfl, rfl, rfl, rfl, rfl, rfl, rfl⟩, fun back vain => ?returning⟩
  case dropped => exact congrArg _ ((row .nothing).trans (congrArg _ (arrive_dropped .nothing double notStop)))
  case unknown => exact refuses taken (requestRefusal_source (sourceRefusal_unknown (by rw [counted]; exact none)))
  case other =>
    refine refuses taken (requestRefusal_source ?_)
    rw [sourceRefusal_found (p := p) (by rw [counted]; exact found)]
    exact if_neg (not_or.mpr ⟨notPanel, notModule⟩)
  case length =>
    refine refuses taken (requestRefusal_length ?_ (mt (requestLength_iff _ _).mp length))
    rw [sourceRefusal_found (p := p) (by rw [counted]; exact found)]
    exact if_pos kind
  case returning =>
    show Host.Outcome.next (s.receive (s.requestFrame src 15#8 body) back) = .next (s.receive (s.requestFrame src 15#8 body))
    rw [receive_request receives other, receive_request receives other]
    by_cases double : s.faults.duplicateStation.active = true
    · rw [arrive_dropped back double (by decide), arrive_dropped .nothing double (by decide)]
    · have taken : ¬(s.faults.duplicateStation.active = true ∧ (15#8).toNat ≠ 7) := fun drops => double drops.1
      rw [arrive_judged back taken, arrive_judged .nothing taken, judge_returning back (.inl fun passes => ?_)]
      obtain ⟨source, length⟩ := requestRefusal_none passes
      obtain ⟨p, found, kind⟩ := sourceRefusal_none source
      rw [counted] at found
      have empty : body = [] := by
        have one : some 1 = some (body.length + 1) := length
        exact List.eq_nil_of_length_eq_zero (by injection one; omega)
      exact vain.elim double fun vain => vain.elim (fun unknown => unknown ⟨p, found, kind⟩) (fun full => full empty)


end Sys2Proof.Machine
end

section
/-! PROOFS. The requests of the program store (R100, R109 to R114): a request taken and its answer, LOAD_HEADER, STEP_PART_A,
DISCARD and CLEAR. -/

namespace Sys2Proof.Machine

/-! ## A request taken (R177, R178) -/

/-- A request of its length from a source the part takes requests from is taken and answered. -/
theorem takenRow {src : Nat} {code : Byte} {body : List Byte} {s : State} (takes : s.TakesFrom src)
    (length : requestLength code.toNat = some (body.length + 1)) {v : Verdict}
    (verdict : s.heard.takeRequest src code.toNat body = v) :
    exec (.requestUnknownCode src code body) s = .next (s.reported (v.reply_ src code)) := by
  rw [← verdict]
  exact congrArg Host.Outcome.next (arrive_taken takes length)

/-- A verdict with an answer code and data is an answer of one frame (R178). -/
theorem reply_code (src : Nat) (code : Byte) (t : State) (a : AnswerCode) (d : List Byte) :
    Verdict.reply_ src code ⟨t, .code a d⟩ = t.answer src code a d := rfl

/-! ## Slots (R99, R110) -/

/-- A slot written, and the other. -/
theorem setSlot_slots (ix : SlotIx) (v : Slot) (t : Store) :
    (t.setSlot ix v).slot ix = v ∧ (t.setSlot ix v).slot ix.other = t.slot ix.other ∧ (t.setSlot ix v).staging = t.staging
      ∧ (t.setSlot ix v).lastOutcome = t.lastOutcome := by
  cases ix <;> exact ⟨rfl, rfl, rfl, rfl⟩

/-- A slot emptied, and the other. -/
theorem emptySlot_slots (ix : SlotIx) (t : Store) :
    (t.emptySlot ix).slot ix = .empty ∧ (t.emptySlot ix).slot ix.other = t.slot ix.other
      ∧ (t.emptySlot ix).staging = t.staging.filter (fun e => decide (e.slot ≠ ix.number))
      ∧ (t.emptySlot ix).lastOutcome = t.lastOutcome := by
  cases ix <;> exact ⟨rfl, rfl, rfl, rfl⟩

/-- A slot written leaves the rest. -/
theorem setSlot_only (ix : SlotIx) (v : Slot) (s : State) : Only [.slots] s (s.mapStore (Store.setSlot ix v)) := by
  intro a h
  cases a
  case slots => exact absurd (by decide) h
  case staging => cases ix <;> rfl
  all_goals rfl

/-- A slot emptied leaves the rest. -/
theorem emptySlot_only (ix : SlotIx) (s : State) : Only [.slots, .staging] s (s.mapStore (Store.emptySlot ix)) := by
  intro a h
  cases a
  case slots => exact absurd (by decide) h
  case staging => exact absurd (by decide) h
  all_goals rfl

/-- A slot's number names it. -/
theorem ofNumber_number (ix : SlotIx) : SlotIx.ofNumber ix.number = some ix := by
  cases ix <;> rfl

/-- No other number names a slot. -/
theorem ofNumber_beyond {n : Nat} (beyond : 2 ≤ n) : SlotIx.ofNumber n = none := by
  obtain ⟨k, rfl⟩ : ∃ k, n = k + 2 := ⟨n - 2, by omega⟩
  rfl

/-- A slot is EMPTY. -/
theorem isEmpty_iff (v : Slot) : v.isEmpty = true ↔ v = .empty := by
  cases v <;> simp [Slot.isEmpty]

/-- The lowest EMPTY slot is the first one, where that is EMPTY (R100). -/
theorem lowestEmpty_first {t : Store} (empty : t.slot0 = .empty) : t.lowestEmpty = some .s0 :=
  if_pos ((isEmpty_iff _).mpr empty)

/-- Else the second, if that is. -/
theorem lowestEmpty_second {t : Store} (taken : t.slot0 ≠ .empty) (empty : t.slot1 = .empty) : t.lowestEmpty = some .s1 :=
  (if_neg (mt (isEmpty_iff _).mp taken)).trans (if_pos ((isEmpty_iff _).mpr empty))

/-- Else none. -/
theorem lowestEmpty_none {t : Store} (taken : t.slot0 ≠ .empty) (other : t.slot1 ≠ .empty) : t.lowestEmpty = none :=
  (if_neg (mt (isEmpty_iff _).mp taken)).trans (if_neg (mt (isEmpty_iff _).mp other))

/-! ## LOAD_HEADER and STEP_PART_A (R100, R111, R195) -/

/-- The highest bit of a byte. -/
theorem byte_bit7 (b : Byte) : b.toNat.testBit 7 = true ↔ 128 ≤ b.toNat := by
  have small := b.isLt
  rw [Nat.testBit_eq_decide_div_mod_eq, decide_eq_true_eq]
  omega

/-- The program of a header (R100). -/
theorem ofHeader_eq (src count : Nat) (b hi lo : Byte) :
    Program.ofHeader src count (b.toNat.testBit 6) (wordAt [b, hi, lo] 2)
      = { kind := .recipe, stepCount := count, chain := decide (b.toNat / 64 % 2 = 1), tag := hi.toNat * 256 + lo.toNat
          originator := src, steps := List.replicate count none } := by
  rw [Program.ofHeader, Nat.testBit_eq_decide_div_mod_eq]
  rfl

/-- A header with a count of 1 to 12 and its highest bit clear takes the lowest EMPTY slot (R100). -/
theorem loadHeader_takes {src : Nat} {b hi lo : Byte} {s : State} (low : b.toNat < 128) (some_ : 1 ≤ b.toNat % 16)
    (fits : b.toNat % 16 ≤ 12) :
    (s.store.lowestEmpty = none → s.loadHeader src [b, hi, lo] = s.refuse .busy)
      ∧ ∀ ix, s.store.lowestEmpty = some ix →
          s.loadHeader src [b, hi, lo]
            = ⟨s.mapStore (Store.setSlot ix (.loading
                { kind := .recipe, stepCount := b.toNat % 16, chain := decide (b.toNat / 64 % 2 = 1)
                  tag := hi.toNat * 256 + lo.toNat, originator := src, steps := List.replicate (b.toNat % 16) none })),
              .code .ok [byteOf ix.number]⟩ := by
  have clear : ¬(byteAt [b, hi, lo] 1).testBit 7 = true := mt (byte_bit7 b).mp (Nat.not_le.mpr low)
  have good : ¬(byteAt [b, hi, lo] 1 % 16 < 1 ∨ 12 < byteAt [b, hi, lo] 1 % 16) := by
    show ¬(b.toNat % 16 < 1 ∨ 12 < b.toNat % 16)
    omega
  unfold State.loadHeader
  dsimp only
  rw [if_neg clear, if_neg good]
  refine ⟨fun none => by rw [none], fun ix found => ?_⟩
  rw [found]
  dsimp only
  rw [show (byteAt [b, hi, lo] 1).testBit 6 = b.toNat.testBit 6 from rfl, ofHeader_eq]
  rfl

/-- A first half is staged in the table of two (R110, R111). -/
theorem stage_eq (e : Staged) (table : List Staged) :
    stage e table
      = (if (table.filter (fun x => decide (x.src ≠ e.src))).length < 2 then table.filter (fun x => decide (x.src ≠ e.src))
          else (table.filter (fun x => decide (x.src ≠ e.src))).drop 1) ++ [e] := by
  unfold stage
  dsimp only
  by_cases room : (table.filter (fun x => decide (x.src ≠ e.src))).length < 2
  · rw [if_pos room, if_neg (Nat.not_le.mpr room)]
  · rw [if_neg room, if_pos (Nat.not_lt.mp room)]

/-- Settles O51. -/
theorem loadHeaderAndStepPartA : Obligations.LoadHeaderAndStepPartA := by
  intro src s takes h
  refine ⟨fun b hi lo => ?header, fun si m sp hu d1 d0 => ?staged⟩
  case header =>
    intro count run p
    refine ⟨fun high => ?_, fun low bad => ?_, fun low some_ fits => ?_⟩
    · refine takenRow takes rfl (v := ⟨h, .code .notPermitted []⟩) ?_
      exact if_pos ((byte_bit7 b).mpr high)
    · refine takenRow takes rfl (v := ⟨h, .code .badField []⟩) ?_
      refine (if_neg (mt (byte_bit7 b).mp (Nat.not_le.mpr low))).trans (if_pos ?_)
      exact bad.imp (fun zero => by rw [show byteAt [b, hi, lo] 1 % 16 = 0 from zero]; decide) id
    · obtain ⟨busy, loads⟩ := loadHeader_takes (src := src) (hi := hi) (lo := lo) (s := h) low some_ fits
      have store : h.store = s.store := heard_store s
      rw [store] at busy loads
      exact ⟨fun first => takenRow (code := 1#8) (body := [b, hi, lo]) takes rfl (loads .s0 (lowestEmpty_first first)),
        fun taken second => takenRow (code := 1#8) (body := [b, hi, lo]) takes rfl (loads .s1 (lowestEmpty_second taken second)),
        fun taken other => takenRow (code := 1#8) (body := [b, hi, lo]) takes rfl (busy (lowestEmpty_none taken other))⟩
  case staged =>
    intro e others
    have store : h.store = s.store := heard_store s
    have half : HalfA.ofBody [si, m, sp, hu, d1, d0] = e.half := by
      rw [HalfA.ofBody, Nat.testBit_eq_decide_div_mod_eq]
      show HalfA.mk _ _ (decide (m.toNat / 2 ^ 0 % 2 = 1)) _ _ _ = _
      rw [Nat.pow_zero, Nat.div_one]
      rfl
    have table : stage e h.store.staging = (if others.length < 2 then others else others.drop 1) ++ [e] := by
      rw [store]
      exact stage_eq e s.store.staging
    refine (takenRow takes rfl (v := ⟨{ h with store := { h.store with staging := stage e h.store.staging } }, .silent⟩) ?_).trans ?_
    · show h.stepPartA src [si, m, sp, hu, d1, d0] = _
      rw [State.stepPartA, half]
      rfl
    · rw [table]
      rfl

/-! ## DISCARD and CLEAR (R113, R114) -/

/-- DISCARD and CLEAR of a number that names no slot. -/
theorem slotRequests_beyond {n : Nat} (beyond : 2 ≤ n) (src : Nat) (s : State) :
    s.discardSlot src n = (s, .badIndex) ∧ s.clearSlot n = (s, .badIndex) := by
  simp only [State.discardSlot, State.clearSlot, ofNumber_beyond beyond, and_self]

/-- What the slot that a CLEAR names makes of it (R114). -/
theorem clearSlot_eq (ix : SlotIx) (s : State) :
    s.clearSlot ix.number = match s.store.slot ix with
      | .empty => (s, .ok)
      | .done _ _ => (s.mapStore (Store.releaseSlot ix), .ok)
      | _ => (s, .notReady) := by
  rw [State.clearSlot, ofNumber_number]
  dsimp only
  cases s.store.slot ix <;> rfl

/-- What the slot that a DISCARD names makes of it (R113). -/
theorem discardSlot_eq (src : Nat) (ix : SlotIx) (s : State) :
    s.discardSlot src ix.number = match s.store.slot ix with
      | .empty => (s, .ok)
      | .active _ => (s, .busy)
      | .done _ _ => (s, .notPermitted)
      | .loading p => if src = p.originator then (s.mapStore (Store.emptySlot ix), .ok) else (s, .notOriginator)
      | .ready p => if src = p.originator then (s.mapStore (Store.emptySlot ix), .ok) else (s, .notOriginator) := by
  cases ix <;> rfl

/-- Settles O58. -/
theorem discardAndClear : Obligations.DiscardAndClear := by
  intro src n s takes h emptied discard clear dAnswer cAnswer
  have discards {t : State} {a : AnswerCode} (verdict : h.discardSlot src n.toNat = (t, a)) :
      discard = .next (s.reported (t.answer src 12#8 a [n])) :=
    takenRow (code := 12#8) (body := [n]) takes rfl (congrArg (verdictOf 12 [n]) verdict)
  have clears {t : State} {a : AnswerCode} (verdict : h.clearSlot n.toNat = (t, a)) :
      clear = .next (s.reported (t.answer src 11#8 a [n])) :=
    takenRow (code := 11#8) (body := [n]) takes rfl (congrArg (verdictOf 11 [n]) verdict)
  refine ⟨fun beyond => ⟨discards (slotRequests_beyond beyond src h).1, clears (slotRequests_beyond beyond src h).2⟩,
    fun ix number => ?_⟩
  have store : h.store = s.store := heard_store s
  have discarded := discardSlot_eq src ix h
  have cleared := clearSlot_eq ix h
  rw [store] at discarded cleared
  rw [number] at discarded cleared
  refine ⟨fun empty => ?_, fun p active => ?_, fun p o done => ?_, fun p held => ?_⟩
  · rw [empty] at discarded cleared
    exact ⟨discards discarded, clears cleared⟩
  · rw [active] at discarded cleared
    exact ⟨discards discarded, clears cleared⟩
  · rw [done] at discarded cleared
    obtain ⟨gone, other, staging, last⟩ := setSlot_slots ix .empty h.store
    refine ⟨discards discarded, h.mapStore (Store.releaseSlot ix), clears cleared, ⟨gone, other.trans (by rw [store]), ?_⟩, ?_, ?_⟩
    · exact last.trans (by rw [store])
    · exact staging.trans (by rw [store])
    · exact setSlot_only ix .empty h
  · have emptied_ : src = p.originator → h.discardSlot src n.toNat = (h.mapStore (Store.emptySlot ix), .ok) := by
      intro mine
      rw [discarded]
      obtain loading | ready := held
      · rw [loading]
        exact if_pos mine
      · rw [ready]
        exact if_pos mine
    have refused : src ≠ p.originator → h.discardSlot src n.toNat = (h, .notOriginator) := by
      intro other
      rw [discarded]
      obtain loading | ready := held
      · rw [loading]
        exact if_neg other
      · rw [ready]
        exact if_neg other
    have notReady : h.clearSlot n.toNat = (h, .notReady) := by
      rw [cleared]
      obtain loading | ready := held
      · rw [loading]
      · rw [ready]
    obtain ⟨gone, other, staging, last⟩ := emptySlot_slots ix h.store
    refine ⟨clears notReady, fun other => discards (refused other), fun mine => ⟨h.mapStore (Store.emptySlot ix),
      discards (emptied_ mine), ⟨gone, other.trans (by rw [store]), last.trans (by rw [store])⟩, ?_, emptySlot_only ix h⟩⟩
    exact staging.trans (by rw [store])

end Sys2Proof.Machine
end

section
/-! PROOFS. The requests that act on the ACTIVE program (R96, R125, R135 to R139, R158): PAUSE, CONTINUE, STOP, SKIP and CONFIRM. -/

namespace Sys2Proof.Machine

/-! ## PAUSE and CONTINUE (R96, R135, R136) -/

/-- Without a program there is no run state, and only then (R119). -/
theorem runState_none {s : State} (idle : s.hasActive = false) : s.runState = none := by
  rw [State.runState, idle]
  rfl

/-- RUNNING and HELD: a program whose flags are clear (R119). -/
theorem runState_goes {s : State} (goes : s.runState = some .running ∨ s.runState = some .held) :
    s.hasActive = true ∧ s.seq.stopFlag = false ∧ s.seq.pauseFlag = false := by
  rw [State.runState] at goes
  cases active : s.hasActive <;> cases stop : s.seq.stopFlag <;> cases pause : s.seq.pauseFlag <;> simp_all

/-- The run state of a program whose flags are clear, by its hold causes (R119). -/
theorem runState_clear {s : State} (active : s.hasActive = true) (stop : s.seq.stopFlag = false) (pause : s.seq.pauseFlag = false) :
    s.runState = some (if s.doorHold = true ∨ s.tankHold = true ∨ s.probeHold = true then .held else .running) := by
  have holds : s.anyHold = true ↔ s.doorHold = true ∨ s.tankHold = true ∨ s.probeHold = true := by
    simp only [State.anyHold, Bool.or_eq_true, or_assoc]
  rw [State.runState, active, stop, pause]
  by_cases held : s.anyHold = true
  · rw [if_pos (holds.mp held), held]
    rfl
  · rw [if_neg (mt holds.mpr held), Bool.eq_false_iff.mpr held]
    rfl

/-- A withdrawal takes no load back (R49). -/
theorem withdraw_keeps {which : Load → Bool} {s : State} {i : Load} (out : s.load.withdrawn.get i = true) :
    (s.withdraw which).load.withdrawn.get i = true := by
  unfold State.withdraw State.mapLoad LoadFrame.withdraw
  dsimp only
  split
  · cases i <;> simp_all [PerLoad.make, PerLoad.get]
  · exact out

/-- Nor does the end of soak heating. -/
theorem endSoak_withdrawn {s : State} {i : Load} (out : s.load.withdrawn.get i = true) :
    s.endSoak.load.withdrawn.get i = true := by
  unfold State.endSoak
  split
  · exact withdraw_keeps out
  · exact out

/-- A stroke cut short runs no more (R96). -/
theorem cutStroke_stops (w : Steam) (c : Nat) : w.cutStroke.stroke ≠ .running c := by
  unfold Steam.cutStroke
  split
  · split <;> simp [Steam.waitFill]
  · simp_all
  · simp_all

/-- It leaves the boiler, its request and its soak heating. -/
theorem cutStroke_keeps (w : Steam) :
    w.cutStroke.boiler = w.boiler ∧ w.cutStroke.request = w.request ∧ w.cutStroke.soakHeating = w.soakHeating := by
  unfold Steam.cutStroke
  split
  · split <;> exact ⟨rfl, rfl, rfl⟩
  · exact ⟨rfl, rfl, rfl⟩
  · exact ⟨rfl, rfl, rfl⟩

/-- The program PAUSED: the flag set, its loads withdrawn, the boiler suspended (R49, R96, R135). -/
def State.pausedNow (s : State) : State := ((s.mapSeq (fun q => { q with pauseFlag := true })).withdrawAll).suspendBoiler

/-- What PAUSE changes of a program that is not stopping (R49, R96, R135). -/
theorem pausedNow_fields {s : State} (goes : s.runState = some .running ∨ s.runState = some .held) :
    let u := s.pausedNow
    u.seq = { s.seq with pauseFlag := true } ∧ u.runState = some .paused
      ∧ (s.load.running = true → ∀ i, u.load.withdrawn.get i = true)
      ∧ (u.steam.soakHeating = false ∧ (∀ c, u.steam.stroke ≠ .running c) ∧ u.statedDemand = 0
        ∧ u.steam.boiler = s.steam.boiler ∧ u.steam.request = s.steam.request)
      ∧ Only [.program, .withdrawn, .boiler] s u := by
  intro u
  let x := s.mapSeq (fun q => { q with pauseFlag := true })
  obtain ⟨active, stop, -⟩ := runState_goes goes
  have flag : Only [.program] s x := by
    intro a h
    cases a
    case program => exact absurd (by decide) h
    all_goals rfl
  have after : Only [.withdrawn, .boiler] x u :=
    ((withdraw_does (fun _ => true) x).seq (suspendBoiler_does _)).only.mono (by decide)
  have run : u.activeRun = s.activeRun := by
    rw [State.activeRun, State.activeRun, after.seq, after.store]
    rfl
  have suspended : u.suspended = true :=
    (suspended_iff_flags u).mpr ⟨by rw [State.hasActive, run]; exact active, by rw [after.seq]; exact stop, by rw [after.seq]; rfl⟩
  have steam : u.steam = (x.withdrawAll.endSoak.steam).cutStroke := rfl
  obtain ⟨boiler, request, soak⟩ := cutStroke_keeps x.withdrawAll.endSoak.steam
  rw [endSoak_steam] at boiler request soak
  refine ⟨after.seq, (suspended_iff u).mp suspended, fun running i => ?_, ⟨?_, fun c => ?_, ?_, ?_, ?_⟩,
    (flag.mono (by decide)).trans (after.mono (by decide))⟩
  · have out : x.withdrawAll.load.withdrawn.get i = true := withdraw_withdrawn _ x running i rfl
    exact endSoak_withdrawn out
  · rw [steam, endSoak_steam]
    exact soak
  · rw [steam]
    exact cutStroke_stops _ c
  · rw [State.statedDemand, suspended]
    rfl
  · rw [steam, endSoak_steam]
    exact boiler
  · rw [steam, endSoak_steam]
    exact request

/-- The ceiling of a program that is PAUSED: 0 in WAIT, else the variant's base load (R38). -/
theorem ceilingNow_paused {s : State} {r : StepRecord} (paused : s.runState = some .paused) (step : s.activeStep = some r) :
    s.ceilingNow = if r.mode = .wait then 0 else s.baseUnits := by
  rw [ceilingNow_of_step step, (suspended_iff s).mpr paused, if_pos rfl]

/-- The pause flag cleared, the boiler resumed (R96, R136). -/
def State.resumedNow (s : State) : State := (s.mapSeq (fun q => { q with pauseFlag := false })).resumeBoiler

/-- What CONTINUE changes of a program that is PAUSED (R96, R136). -/
theorem resumedNow_fields {s : State} (paused : s.runState = some .paused) :
    let u := s.resumedNow
    u.seq = { s.seq with pauseFlag := false }
      ∧ u.runState = some (if u.doorHold = true ∨ u.tankHold = true ∨ u.probeHold = true then .held else .running)
      ∧ (s.steam.request ≠ .soak → u = { s with seq := { s.seq with pauseFlag := false } })
      ∧ (s.steam.request = .soak → s.steam.boiler = .off → s.steam.low = some .wet → s.mustDrainFirst = false →
          s.barsHeating = false → u.steam.soakHeating = true ∧ u.steam.boiler = .off)
      ∧ Only [.program, .withdrawn, .boiler, .scaleFlags, .writes] s u := by
  intro u
  let x := s.mapSeq (fun q => { q with pauseFlag := false })
  obtain ⟨active, stop, -⟩ := (suspended_iff_flags s).mp ((suspended_iff s).mpr paused)
  have flag : Only [.program] s x := by
    intro a h
    cases a
    case program => exact absurd (by decide) h
    all_goals rfl
  have after : Only waterAspects x u := (resumeBoiler_does x).only
  have run : u.activeRun = s.activeRun := by
    rw [State.activeRun, State.activeRun, after.seq, after.store]
    rfl
  refine ⟨after.seq, runState_clear (by rw [State.hasActive, run]; exact active) (by rw [after.seq]; exact stop) (by rw [after.seq]; rfl),
    fun other => if_neg other, fun soak off wet first free => ?_, (flag.mono (by decide)).trans (after.mono (by decide))⟩
  have served : u = x.serve := if_pos soak
  have ready : ¬x.ServiceWaits := by
    rw [← serviceWaits_iff, show x.mustDrainFirst = false from first, show x.steam.boiler = .off from off]
    decide
  have runs : x.suspended = false := Bool.eq_false_iff.mpr fun yes => by
    obtain ⟨-, -, flag⟩ := (suspended_iff_flags x).mp yes
    cases flag
  obtain ⟨boiler, set⟩ := startSoak_steam x
  rw [served, serve_soaks ready soak wet]
  exact ⟨set.mpr (.inr ⟨free, runs⟩), boiler⟩

/-- Settles O54. -/
theorem pauseAndContinue : Obligations.PauseAndContinue := by
  intro src s takes h
  have run : h.runState = s.runState := heard_runState s
  have active : h.hasActive = s.hasActive := heard_hasActive s
  refine ⟨?pause, ?continue_⟩
  case pause =>
    intro row
    have answers {t : State} {a : AnswerCode} (verdict : h.pause = (t, a)) : row = .next (s.reported (t.answer src 5#8 a [])) :=
      takenRow (code := 5#8) (body := []) takes rfl (congrArg (verdictOf 5 []) verdict)
    refine ⟨fun idle => answers ?_, fun stopping => answers ?_, fun paused => answers ?_, fun goes => ?_⟩
    · rw [State.pause, runState_none (active.trans idle)]
    · rw [State.pause, run.trans stopping]
    · rw [State.pause, run.trans paused]
    · have entered : h.pause = (h.pausedNow.runSettle, .ok) := by
        obtain running | held := goes
        · rw [State.pause, run.trans running]
          rfl
        · rw [State.pause, run.trans held]
          rfl
      rw [← run] at goes
      obtain ⟨seq, paused, withdrawn, boiler, only⟩ := pausedNow_fields goes
      rw [heard_seq] at seq
      rw [heard_load] at withdrawn
      rw [heard_steam] at boiler
      refine ⟨h.pausedNow, answers entered, seq, paused, withdrawn, boiler, fun r step => ?_, only⟩
      have startup : h.pausedNow.startup = s.startup := only.startup.trans (heard_startup s)
      have base : h.pausedNow.baseUnits = s.baseUnits := by
        rw [State.baseUnits, State.baseUnits, startup]
      rw [ceilingNow_paused paused step, base]
      exact congrArg (fun n => if r.mode = .wait then 0 else n) (baseUnits_eq s)
  case continue_ =>
    intro row
    have answers {t : State} {a : AnswerCode} (verdict : h.continue_ = (t, a)) : row = .next (s.reported (t.answer src 6#8 a [])) :=
      takenRow (code := 6#8) (body := []) takes rfl (congrArg (verdictOf 6 []) verdict)
    refine ⟨fun idle => answers ?_, fun goes => answers ?_, fun paused => ?_⟩
    · rw [State.continue_, runState_none (active.trans idle)]
    · obtain running | held | stopping := goes
      · rw [State.continue_, run.trans running]
      · rw [State.continue_, run.trans held]
      · rw [State.continue_, run.trans stopping]
    · have left : h.continue_ = (h.resumedNow.runSettle, .ok) := by
        rw [State.continue_, run.trans paused]
        rfl
      obtain ⟨seq, state, other, soak, only⟩ := resumedNow_fields (run.trans paused)
      have drains : h.mustDrainFirst = s.mustDrainFirst := heard_mustDrainFirst s
      have bars : h.barsHeating = s.barsHeating := heard_barsHeating s
      rw [heard_steam] at soak
      rw [drains, bars] at soak
      exact ⟨h.resumedNow, answers left, seq.trans (by rw [heard_seq]), state,
        fun notSoak => other (by rw [heard_steam]; exact notSoak), soak, only⟩

/-! ## STOP (R138, R158, R159) -/

/-- A STOP is taken and answered even under DUPLICATE_STATION (R175, R179). -/
theorem stopRow {src : Nat} {s : State} (receives : s.receives = true) (other : src ≠ s.station)
    (known : ∃ p, s.countedPeers.find? (fun p => decide (p.station = src)) = some p ∧ (p.kind = .panel ∨ p.kind = .module))
    {t : State} {a : AnswerCode} (verdict : s.heard.stop = (t, a)) :
    exec (.stop src []) s = .next (s.reported (t.answer src 7#8 a [])) := by
  have taken : s.heard.takeRequest src 7 [] = verdictOf 7 [] (t, a) := congrArg (verdictOf 7 []) verdict
  have row := arrive_stop (code := 7#8) (body := []) receives other known rfl rfl
  refine (congrArg Host.Outcome.next row).trans ?_
  rw [show s.heard.takeRequest src (7#8).toNat [] = _ from taken]
  rfl

/-- A humid step that is stopped goes to its VENT, or goes on in it (R138). -/
theorem stopHumid_fields {s : State} {at_ : Position} {p : Program} (run : s.activeRun = some (at_, p)) :
    let u := s.stopHumid
    u.seq =
        { s.seq with
          run := some { at_ with phase := .vent }, stopFlag := true, pauseFlag := false, probeHold := false
          prompt := none, promptTimer := none }
      ∧ (at_.phase = .vent → Only [.program] s u)
      ∧ (at_.phase ≠ .vent → u.steam.request = .none ∧ u.climate.venting = true
        ∧ (s.climate.venting = false → u.climate.ventTimer = some ⟨0, 0⟩
          ∧ (s.load.running = true → ∀ i, u.load.withdrawn.get i = true))) := by
  intro u
  let t := s.mapSeq (fun q => { q.dropPrompt with stopFlag := true, pauseFlag := false, probeHold := false })
  obtain ⟨position, -⟩ := activeRun_parts run
  have flags : Only [.program] s t := by
    intro a h
    cases a
    case program => exact absurd (by decide) h
    all_goals rfl
  have phase : s.phase = some .vent ↔ at_.phase = .vent := by rw [phase_of_run run, Option.some_inj]
  by_cases vent : at_.phase = .vent
  · have goesOn : u = t := if_pos (phase.mpr vent)
    have same : s.seq.run = some { at_ with phase := .vent } := by
      rw [position, ← vent]
    refine ⟨?_, fun _ => by rw [goesOn]; exact flags, fun other => absurd vent other⟩
    rw [goesOn]
    show { s.seq.dropPrompt with stopFlag := true, pauseFlag := false, probeHold := false } = _
    rw [← same]
    rfl
  · have vents : u = t.toVent := if_neg (mt phase.mp vent)
    obtain ⟨seq, request, venting, begins⟩ := toVent_fields (s := t) position
    rw [vents]
    exact ⟨seq.trans rfl, fun yes => absurd yes vent, fun _ => ⟨request, venting, begins⟩⟩

/-- Settles O55. -/
theorem stop : Obligations.Stop := by
  intro src s receives other known h row
  have answers {t : State} {a : AnswerCode} (verdict : h.stop = (t, a)) : row = .next (s.reported (t.answer src 7#8 a [])) :=
    stopRow receives other known verdict
  refine ⟨fun idle => answers ?_, fun at_ p run => ?_⟩
  · rw [State.stop, State.activeProgram, heard_activeRun, idle]
    rfl
  have run' : h.activeRun = some (at_, p) := (heard_activeRun s).trans run
  have recipe (kind : p.kind = .recipe) : h.stop = (h.stopRecipe, .ok) := by
    rw [State.stop, activeProgram_of_run run']
    dsimp only
    rw [kind]
  have service (kind : p.kind = .service) : h.stop = (h.stopService, .ok) := by
    rw [State.stop, activeProgram_of_run run']
    dsimp only
    rw [kind]
  have stopFlag : h.seq.stopFlag = s.seq.stopFlag := by rw [heard_seq]
  have onStop : h.scale.drainOnStop = s.scale.drainOnStop := by rw [heard_scale]
  have humid : h.stepHumid = s.stepHumid := heard_stepHumid s
  refine ⟨fun stops => ?_, fun goes => ⟨fun ends => ?_, fun kind wet => ?_, fun kind drains => ?_⟩⟩
  · obtain kind | kind : p.kind = .recipe ∨ p.kind = .service := by cases p.kind <;> simp
    · exact answers ((recipe kind).trans (by rw [State.stopRecipe, if_pos (stopFlag.trans stops)]))
    · exact answers ((service kind).trans (by rw [State.stopService, if_pos (stopFlag.trans stops)]))
  · have runs : ¬h.seq.stopFlag = true := by rw [stopFlag, goes]; decide
    obtain ⟨kind, dry⟩ | ⟨kind, plain⟩ := ends
    · refine answers ((recipe kind).trans ?_)
      rw [State.stopRecipe, if_neg runs, if_neg (by rw [humid, dry]; decide)]
    · refine answers ((service kind).trans ?_)
      rw [State.stopService, if_neg runs, if_neg (by rw [onStop, plain]; decide)]
  · have runs : ¬h.seq.stopFlag = true := by rw [stopFlag, goes]; decide
    obtain ⟨seq, goesOn, vents⟩ := stopHumid_fields run'
    rw [heard_climate, heard_load] at vents
    refine ⟨h.stopHumid, answers ((recipe kind).trans ?_), seq.trans (by rw [heard_seq]), goesOn, vents, (stopHumid_does h).only⟩
    rw [State.stopRecipe, if_neg runs, if_pos (humid.trans wet)]
  · have runs : ¬h.seq.stopFlag = true := by rw [stopFlag, goes]; decide
    have scale : (h.forcedDrain .stopped).scale = h.scale :=
      (handRequest_only (by decide) _).scale
    refine ⟨h.forcedDrain .stopped, answers ((service kind).trans ?_), ?_, handRequest_request _ _, scale.trans (heard_scale s),
      (forcedDrain_only .stopped h).mono (by decide)⟩
    · rw [State.stopService, if_neg runs, if_pos (onStop.trans drains)]
    · rw [forcedDrain_seq, heard_seq, (activeRun_parts run).1]
      rfl

/-! ## SKIP and CONFIRM (R125, R130, R137, R139) -/

/-- No prompt waits any more, and its timer is idle (R125). -/
abbrev State.promptDropped (s : State) : State := { s with seq := { s.seq with prompt := none, promptTimer := none } }

/-- Nor is PROBE among the hold causes (R129). -/
abbrev State.causeDropped (s : State) : State := { s with seq := { s.seq with prompt := none, promptTimer := none, probeHold := false } }

/-- A waiting prompt ends its phase: PROMPT_IN goes on to PREPARE, PROMPT_OUT and COUNT to VENT or the step's completion (R125,
R130, R137). -/
theorem completePrompt_phase {s : State} {at_ : Position} {p : Program} {r : StepRecord} (run : s.activeRun = some (at_, p))
    (step : p.step at_.step = some r) :
    (at_.phase = .promptIn → s.completePrompt = s.promptDropped.toPrepare r)
      ∧ (at_.phase = .promptOut → s.completePrompt = s.promptDropped.ventOrComplete)
      ∧ (at_.phase = .count → s.completePrompt = s.causeDropped.ventOrComplete) := by
  have stepOf : s.activeStep = some r := (activeStep_of_run run).trans step
  have phase : s.phase = some at_.phase := phase_of_run run
  refine ⟨fun at_in => ?_, fun at_out => ?_, fun at_count => ?_⟩
  · rw [State.completePrompt, stepOf, phase, at_in]
    rfl
  · rw [State.completePrompt, stepOf, phase, at_out]
    rfl
  · rw [State.completePrompt, stepOf, phase, at_count]
    rfl

/-- Beyond PROMPT_IN no prompt waits, but for that of a PROMPT_ONLY step in COUNT (R125, R130). -/
theorem toPrepare_prompt (r : StepRecord) {s : State} (gone : s.seq.prompt = none) :
    (s.toPrepare r).seq.prompt = none ∨ (r.endKind = some .promptOnly ∧ (s.toPrepare r).seq.prompt = r.promptOut) := by
  have handed (phase : Phase) (req : BoilerRequest) : ((s.setPhase phase).handRequest req).seq.prompt = .none := by
    rw [handRequest_seq]
    exact gone
  have counted : (s.toCount r).seq.prompt = (s.countSeq r).prompt := by
    rw [toCount_seq]
    split
    · cases fallback : r.fallback with
      | none => rw [loseProbe_holds fallback]
      | some d => rw [loseProbe_fallback fallback]
    · rfl
  obtain ⟨waits, plain⟩ := countSeq_prompt r s
  unfold State.toPrepare
  split
  · exact .inl (handed _ _)
  · unfold State.toPreheat
    split
    · exact .inl (handed _ _)
    · by_cases only : r.endKind = some .promptOnly
      · exact .inr ⟨only, counted.trans (waits only).1⟩
      · exact .inl ((counted.trans (plain only).1).trans gone)

/-- Settles O56. -/
theorem skipAndConfirm : Obligations.SkipAndConfirm := by
  intro src s takes h noPrompt noCause follows
  have active {at_ : Position} {p : Program} (run : s.activeRun = some (at_, p)) : h.activeRun = some (at_, p) :=
    (heard_activeRun s).trans run
  have seq : h.seq = s.seq := heard_seq s
  refine ⟨?skip, fun n => ?confirm⟩
  case skip =>
    intro row refused
    have answers {t : State} {a : AnswerCode} (verdict : h.skip src = (t, a)) : row = .next (s.reported (t.answer src 8#8 a [])) :=
      takenRow (code := 8#8) (body := []) takes rfl (congrArg (verdictOf 8 []) verdict)
    refine ⟨fun idle => answers ?_, fun at_ p run => ?_⟩
    · rw [State.skip, State.activeProgram, heard_activeRun, idle]
      rfl
    have vent : h.phase = some .vent ↔ at_.phase = .vent := by rw [phase_of_run (active run), Option.some_inj]
    have unfolds : h.skip src =
        if p.kind = .service then (h, .notPermitted)
        else if src ≠ p.originator then (h, .notOriginator)
        else if s.seq.stopFlag ∨ h.phase = some .vent then (h, .notPermitted)
        else (h.skipStep.runSettle, .ok) := by
      rw [State.skip, activeProgram_of_run (active run), ← seq]
    refine ⟨fun service => answers ?_, fun recipe other => answers ?_, fun recipe own late => answers ?_, fun recipe own goes early => ?_⟩
    · rw [unfolds, if_pos service]
    · rw [unfolds, if_neg (by rw [recipe]; decide), if_pos other]
    · rw [unfolds, if_neg (by rw [recipe]; decide), if_neg (not_not.mpr own), if_pos (late.imp id vent.mpr)]
    · refine ⟨h.skipStep, answers ?_, ventOrComplete_run (s := noCause) (active run), (skipStep_does h).only⟩
      rw [unfolds, if_neg (by rw [recipe]; decide), if_neg (not_not.mpr own), if_neg]
      exact fun late => late.elim (fun stops => absurd (goes.symm.trans stops) (by decide)) (fun vents => early (vent.mp vents))
  case confirm =>
    intro row
    have answers {t : State} {a : AnswerCode} (verdict : h.confirm n.toNat = (t, a)) :
        row = .next (s.reported (t.answer src 10#8 a [n])) :=
      takenRow (code := 10#8) (body := [n]) takes rfl (congrArg (verdictOf 10 [n]) verdict)
    have test : (h.hasActive && !h.seq.stopFlag && decide (h.seq.prompt = some n.toNat)) = true
        ↔ s.hasActive = true ∧ s.seq.stopFlag = false ∧ s.seq.prompt = some n.toNat := by
      rw [seq, heard_hasActive]
      simp only [Bool.and_eq_true, Bool.not_eq_true', decide_eq_true_eq, and_assoc]
    refine ⟨fun stale => answers (if_neg fun waits => ?_), fun at_ p r run step goes prompt => ?_⟩
    · obtain ⟨isActive, goes, prompt⟩ := test.mp waits
      obtain idle | stops | other := stale
      · rw [State.hasActive, idle] at isActive
        cases isActive
      · exact absurd (goes.symm.trans stops) (by decide)
      · exact other prompt
    · have isActive : s.hasActive = true := by rw [State.hasActive, run]; rfl
      have taken : h.confirm n.toNat = (h.completePrompt.runSettle, .ok) := if_pos (test.mpr ⟨isActive, goes, prompt⟩)
      obtain ⟨promptIn, promptOut, count⟩ := completePrompt_phase (active run) step
      refine ⟨h.completePrompt, answers taken, promptIn, fun at_out => ?_, fun at_count => ?_, fun at_in => ?_, (completePrompt_does h).only⟩
      · rw [promptOut at_out]
        exact ventOrComplete_run (s := noPrompt) (active run)
      · rw [count at_count]
        exact ventOrComplete_run (s := noCause) (active run)
      · rw [promptIn at_in]
        exact toPrepare_prompt (s := noPrompt) r rfl

end Sys2Proof.Machine
end

section
/-! PROOFS. ADJUST (R140, R141, R195). -/

namespace Sys2Proof.Machine

/-! ## The fields an ADJUST carries (R195) -/

/-- A field is carried when its presence bit is set (R195). -/
theorem adjustment_fields (bits sp hu t1 t0 ct : Byte) :
    let a := Adjustment.ofBody [bits, sp, hu, t1, t0, ct]
    a.setpoint = (if bits.toNat / 8 % 2 = 1 then some sp.toNat else none)
      ∧ a.humidity = (if bits.toNat / 4 % 2 = 1 then some hu.toNat else none)
      ∧ a.remaining = (if bits.toNat / 2 % 2 = 1 then some (t1.toNat * 256 + t0.toNat) else none)
      ∧ a.coreTarget = (if bits.toNat % 2 = 1 then some ct.toNat else none) := by
  have bit (i : Nat) : (byteAt [bits, sp, hu, t1, t0, ct] 1).testBit i = decide (bits.toNat / 2 ^ i % 2 = 1) :=
    Nat.testBit_eq_decide_div_mod_eq
  have first := bit 0
  rw [Nat.pow_zero, Nat.div_one] at first
  simp only [Adjustment.ofBody, bit, decide_eq_true_eq]
  refine ⟨rfl, rfl, rfl, ?_⟩
  rw [Nat.pow_zero, Nat.div_one]
  rfl

/-- A carried field is there. -/
theorem isSome_carried (carried : Prop) [Decidable carried] (v : Nat) : (if carried then some v else none).isSome = decide carried := by
  by_cases h : carried <;> simp [h]

/-- A field that is not carried is not there. -/
theorem isNone_carried (carried : Prop) [Decidable carried] (v : Nat) : (if carried then some v else none).isNone = !decide carried := by
  by_cases h : carried <;> simp [h]

/-- The fields that an active step cannot take (R140). -/
theorem badAdjust_iff {a : Adjustment} {r : StepRecord} {s : State} {hasSp hasHu hasTime hasCore : Prop} [Decidable hasSp]
    [Decidable hasHu] [Decidable hasTime] [Decidable hasCore] {sp hu v ct : Nat}
    (setpoint : a.setpoint = if hasSp then some sp else none) (humidity : a.humidity = if hasHu then some hu else none)
    (remaining : a.remaining = if hasTime then some v else none) (core : a.coreTarget = if hasCore then some ct else none) :
    s.badAdjust r a = true ↔
      (¬hasSp ∧ ¬hasHu ∧ ¬hasTime ∧ ¬hasCore) ∨ (hasSp ∧ r.mode = .wait)
        ∨ (hasHu ∧ r.mode ≠ .combi ∧ r.mode ≠ .proof)
        ∨ (hasTime ∧ ¬((s.seq.workKind = some .timed ∨ s.seq.workKind = some .banded) ∧ 1 ≤ v))
        ∨ (hasCore ∧ s.seq.workKind ≠ some .core) := by
  have zero : a.remaining = some 0 ↔ hasTime ∧ v = 0 := by
    rw [remaining]
    by_cases carried : hasTime <;> simp [carried]
  have time : (hasTime ∧ ¬((s.seq.workKind = some .timed ∨ s.seq.workKind = some .banded) ∧ 1 ≤ v))
      ↔ (hasTime ∧ s.seq.workKind ≠ some .timed ∧ s.seq.workKind ≠ some .banded) ∨ hasTime ∧ v = 0 := by
    rw [not_and_or, and_or_left, not_or, show ¬1 ≤ v ↔ v = 0 by omega]
  rw [time]
  simp only [State.badAdjust, zero]
  simp only [setpoint, humidity, remaining, core, isNone_carried, isSome_carried, Bool.or_eq_true, Bool.and_eq_true,
    Bool.not_eq_true', Bool.or_eq_false_iff, decide_eq_true_eq, decide_eq_false_iff_not, or_assoc, and_assoc, ne_eq]

/-- A humidity brought within the range of a mode that takes one (R53, R105). -/
theorem within_humidity {m : Mode} (takes : m = .combi ∨ m = .proof) (v : Nat) :
    within m.humidityRange v = some (max (if m = .combi then 20 else 60) (min 90 v)) := by
  obtain combi | proof := takes
  · rw [combi]
    rfl
  · rw [proof]
    rfl

/-- The active step's record after an ADJUST it can take (R141). -/
theorem adjusted_eq {a : Adjustment} {q : Sequencer} {r : StepRecord} {hasSp hasHu hasTime hasCore : Prop} [Decidable hasSp]
    [Decidable hasHu] [Decidable hasTime] [Decidable hasCore] {sp hu v ct : Nat}
    (setpoint : a.setpoint = if hasSp then some sp else none) (humidity : a.humidity = if hasHu then some hu else none)
    (remaining : a.remaining = if hasTime then some v else none) (core : a.coreTarget = if hasCore then some ct else none)
    (takes : hasHu → r.mode = .combi ∨ r.mode = .proof) :
    adjusted a q r =
      { r with
        setpoint := if hasSp then r.mode.setpointRange.map (fun g => max g.1 (min g.2 sp)) else r.setpoint
        humidity := if hasHu then some (max (if r.mode = .combi then 20 else 60) (min 90 hu)) else r.humidity
        coreTarget := if hasCore then some (max 30 (min 99 ct)) else r.coreTarget
        duration := if hasTime ∧ q.workKind = r.endKind then some (remainingTime v q.elapsed).1 else r.duration } := by
  rw [adjusted, setpoint, humidity, remaining, core, StepRecord.mk.injEq]
  refine ⟨rfl, ?_, ?_, rfl, ?_, rfl, ?_, rfl, rfl, rfl, rfl, rfl⟩
  · by_cases carried : hasSp
    · rw [if_pos carried, if_pos carried]
      rfl
    · rw [if_neg carried, if_neg carried]
  · by_cases carried : hasHu
    · rw [if_pos carried, if_pos carried]
      exact within_humidity (takes carried) hu
    · rw [if_neg carried, if_neg carried]
  · by_cases carried : hasTime
    · rw [if_pos carried]
      simp [carried]
    · rw [if_neg carried]
      simp [carried]
  · by_cases carried : hasCore
    · rw [if_pos carried, if_pos carried]
      rfl
    · rw [if_neg carried, if_neg carried]

/-- A value was brought into range (R141). -/
theorem adjustChanged_iff {a : Adjustment} {hasSp hasHu hasCore : Prop} [Decidable hasSp] [Decidable hasHu] [Decidable hasCore]
    {sp hu ct : Nat} (setpoint : a.setpoint = if hasSp then some sp else none)
    (humidity : a.humidity = if hasHu then some hu else none) (core : a.coreTarget = if hasCore then some ct else none)
    (after : StepRecord) :
    adjustChanged a after = true ↔
      (hasSp ∧ after.setpoint ≠ some sp) ∨ (hasHu ∧ after.humidity ≠ some hu) ∨ (hasCore ∧ after.coreTarget ≠ some ct) := by
  have clause (carried : Prop) [Decidable carried] (o : Option Nat) (v : Nat) :
      ((if carried then some v else none).isSome && decide (o ≠ if carried then some v else none)) = true
        ↔ carried ∧ o ≠ some v := by
    by_cases h : carried <;> simp [h]
  rw [adjustChanged, setpoint, humidity, core, Bool.or_eq_true, Bool.or_eq_true, clause, clause, clause, or_assoc]

/-- The sequencer's working copy after an ADJUST, by whether it carries a remaining time (R141). -/
theorem seqAdjust_carried {a : Adjustment} {v : Nat} (carried : a.remaining = some v) (q : Sequencer) :
    q.adjust a = { q with workDuration := some (remainingTime v q.elapsed).1, elapsed := (remainingTime v q.elapsed).2 } := by
  rw [Sequencer.adjust, carried]

/-- Without one it stays. -/
theorem seqAdjust_none {a : Adjustment} (absent : a.remaining = none) (q : Sequencer) : q.adjust a = q := by
  rw [Sequencer.adjust, absent]

/-- The working copy is all that is written. -/
theorem seqAdjust_only (a : Adjustment) (s : State) : Only [.program] s (s.mapSeq (Sequencer.adjust a)) := by
  unfold State.mapSeq Sequencer.adjust
  intro b h
  split <;> cases b
  case h_1.program => exact absurd (by decide) h
  all_goals rfl

/-- What an ADJUST applied changes (R54, R141). -/
theorem applyAdjust_fields (at_ : Position) (p : Program) (r : StepRecord) (a : Adjustment) (s : State) :
    let u := (s.applyAdjust at_ p r a).1
    let after := adjusted a s.seq r
    u.store.slot at_.slot = .active { p with steps := p.steps.set at_.step (some after) }
      ∧ u.store.slot at_.slot.other = s.store.slot at_.slot.other
      ∧ u.climate = { s.climate with setpoint := after.setpoint, humidityTarget := after.target }
      ∧ u.seq = s.seq.adjust a ∧ Only [.slots, .program, .record] s u := by
  intro u after
  let written : Slot := .active { p with steps := p.steps.set at_.step (some after) }
  obtain ⟨this, other, -⟩ := setSlot_slots at_.slot written s.store
  let stored := s.mapStore (Store.setSlot at_.slot written)
  have record : Only [.record] (stored.mapSeq (Sequencer.adjust a)) u := by
    intro b h
    cases b
    case record => exact absurd (by decide) h
    all_goals rfl
  exact ⟨this, other, rfl, rfl, (((setSlot_only at_.slot written s).mono (by decide)).trans
    ((seqAdjust_only a stored).mono (by decide))).trans (record.mono (by decide))⟩

/-- The remaining time V as a working duration and elapsed, saturated (R141). -/
theorem remainingTime_eq (v elapsed : Nat) :
    (remainingTime v elapsed).1 = (if elapsed + v ≤ 65535 then elapsed + v else 65535)
      ∧ (remainingTime v elapsed).2 = (if elapsed + v ≤ 65535 then elapsed else 65535 - v) := by
  unfold remainingTime
  split <;> exact ⟨rfl, rfl⟩

/-- Settles O57: the rows in their order, then the fields carried, applied together. -/
theorem adjust : Obligations.Adjust := by
  intro src s bits sp hu t1 t0 ct takes h run refused hasSp hasHu hasTime hasCore v
  let a := Adjustment.ofBody [bits, sp, hu, t1, t0, ct]
  have answers {t : State} {x : AnswerCode} (verdict : h.adjust src a = (t, x)) :
      run = .next (s.reported (t.answer src 9#8 x [])) :=
    takenRow (code := 9#8) (body := [bits, sp, hu, t1, t0, ct]) takes rfl (congrArg (verdictOf 9 [bits, sp, hu, t1, t0, ct]) verdict)
  have seq : h.seq = s.seq := heard_seq s
  refine ⟨fun idle => answers ?_, fun at_ p r active step => ?_⟩
  · rw [State.adjust, show h.activeRun = none from (heard_activeRun s).trans idle]
  have active' : h.activeRun = some (at_, p) := (heard_activeRun s).trans active
  have rows : h.adjust src a =
      if p.kind = .service then (h, .notPermitted)
      else if src ≠ p.originator then (h, .notOriginator)
      else if h.seq.stopFlag then (h, .notPermitted)
      else if h.badAdjust r a then (h, .badField)
      else h.applyAdjust at_ p r a := by
    rw [State.adjust, (activeStep_of_run active').trans step, active']
  have recipe (kind : p.kind = .recipe) : ¬p.kind = .service := by rw [kind]; decide
  refine ⟨fun service => answers ?_, fun kind other => answers ?_, fun kind same stops => answers ?_,
    fun kind same goes => ?_⟩
  · rw [rows, if_pos service]
  · rw [rows, if_neg (recipe kind), if_pos other]
  · rw [rows, if_neg (recipe kind), if_neg (not_not.mpr same), if_pos (by rw [seq]; exact stops)]
  intro timed bad low setpoint humidity core work elapsed after changed
  have judged : h.adjust src a = if h.badAdjust r a then (h, .badField) else h.applyAdjust at_ p r a := by
    rw [rows, if_neg (recipe kind), if_neg (not_not.mpr same), if_neg (by rw [seq, goes]; decide)]
  obtain ⟨hasSetpoint, hasHumidity, hasRemaining, hasTarget⟩ := adjustment_fields bits sp hu t1 t0 ct
  have isBad : h.badAdjust r a = true ↔ bad := by
    have clauses := badAdjust_iff (s := h) (r := r) hasSetpoint hasHumidity hasRemaining hasTarget
    rw [seq] at clauses
    exact clauses
  refine ⟨fun yes => answers (by rw [judged, if_pos (isBad.mpr yes)]), fun no => ?_⟩
  have taken : hasHu → r.mode = .combi ∨ r.mode = .proof := fun carried =>
    Decidable.byContradiction fun neither => no (.inr (.inr (.inl ⟨carried, not_or.mp neither⟩)))
  obtain ⟨works, passes⟩ := remainingTime_eq v s.seq.elapsed
  have record : adjusted a h.seq r = after := by
    rw [seq, adjusted_eq hasSetpoint hasHumidity hasRemaining hasTarget taken, works]
  obtain ⟨slot, other, climate, sequencer, only⟩ := applyAdjust_fields at_ p r a h
  rw [record] at slot climate
  rw [show h.climate = s.climate from heard_climate s] at climate
  rw [seq] at sequencer
  have isChanged : adjustChanged a after = true ↔ changed := adjustChanged_iff hasSetpoint hasHumidity hasTarget after
  refine ⟨(h.applyAdjust at_ p r a).1, okOrClamped (adjustChanged a after), answers ?_, fun yes => ?_, fun same => ?_, slot,
    other.trans (by rw [show h.store = s.store from heard_store s]), ⟨?_, ?_, ?_⟩, fun combi => ?_, fun proof => ?_,
    fun carried => ?_, fun absent => ?_, only⟩
  · rw [judged, if_neg (mt isBad.mp no), ← record]
    rfl
  · rw [isChanged.mpr yes]
    rfl
  · rw [Bool.eq_false_iff.mpr (mt isChanged.mp same)]
    rfl
  · rw [climate]
  · rw [climate]
  · rw [climate]
  · rw [climate]
    show after.target = _
    rw [target_eq, show after.mode = .combi from combi]
  · rw [climate]
    show after.target = _
    rw [target_eq, show after.mode = .proof from proof]
  · rw [sequencer, seqAdjust_carried (hasRemaining.trans (if_pos carried)), works, passes]
  · rw [sequencer, seqAdjust_none (hasRemaining.trans (if_neg absent))]

end Sys2Proof.Machine
end

section
/-! PROOFS. STEP_PART_B (R104 to R112). -/

namespace Sys2Proof.Machine

/-! ## The fields of a second half (R195) -/

/-- A field is absent at its mark, and only there (R195). -/
theorem isNone_absentAt (mark n : Nat) : (absentAt mark n).isNone = decide (n = mark) := by
  by_cases h : n = mark <;> simp [absentAt, h]

/-- A prompt that is no code (R104). -/
theorem badPrompt_iff {n : Nat} (byte : n < 256) : 240 ≤ (absentAt 255 n).getD 0 ↔ 240 ≤ n ∧ n ≤ 254 := by
  unfold absentAt
  split
  · simp only [Option.getD_none]
    omega
  · simp only [Option.getD_some]
    omega

/-- An end kind and its code (R195). -/
theorem endCode_names {c : Nat} {e : EndKind} (known : EndKind.ofCode c = some e) :
    (e = .timed ↔ c = 0) ∧ (e = .banded ↔ c = 1) ∧ (e = .core ↔ c = 2) ∧ (e = .promptOnly ↔ c = 3) ∧ c ≤ 3 := by
  match c, known with
  | 0, known => cases known; decide
  | 1, known => cases known; decide
  | 2, known => cases known; decide
  | 3, known => cases known; decide

/-- No end kind has a code above 3 (R195). -/
theorem endKind_none {c : Nat} : EndKind.ofCode c = none ↔ 3 < c := by
  match c with
  | 0 => decide
  | 1 => decide
  | 2 => decide
  | 3 => decide
  | n + 4 => exact iff_of_true rfl (by omega)

/-- The codes to 9 name the cooking modes (R195). -/
theorem mode_cooking {c : Nat} {m : Mode} (known : Mode.ofCode c = some m) (cooking : c ≤ 9) : m.service = false := by
  interval_cases c <;> cases known <;> rfl

/-- Beyond them stand the service modes, and codes that name none (R195). -/
theorem mode_beyond {c : Nat} {m : Mode} (known : Mode.ofCode c = some m) (beyond : 9 < c) : m.service = true := by
  match c, known with
  | 10, known => cases known; rfl
  | 11, known => cases known; rfl
  | 12, known => cases known; rfl
  | 13, known => cases known; rfl
  | n + 14, known => cases known

/-! ## The checks of a joined step (R104) -/

section
variable {m : Mode} {e : EndKind} {a : HalfA} {b : HalfB} {target band fallback pin pout : Nat}

/-- The fields a step of a known mode and end kind cannot have (R104). -/
theorem badStepField_iff (code : EndKind.ofCode a.endCode = some e) (core : b.coreTarget = absentAt 0 target)
    (before : b.promptIn = absentAt 255 pin) (after : b.promptOut = absentAt 255 pout) (small : pin < 256) (small' : pout < 256) :
    badStepField m e a b = true ↔
      (a.endCode = 1 ∧ m = .wait) ∨ (m = .combi ∧ a.humidity = 255)
        ∨ ((a.endCode = 0 ∨ a.endCode = 1) ∧ a.durationPresent = false) ∨ (a.endCode = 2 ∧ target = 0)
        ∨ (a.endCode = 3 ∧ pout = 255) ∨ (a.durationPresent = true ∧ a.duration = 0)
        ∨ (240 ≤ pin ∧ pin ≤ 254) ∨ (240 ≤ pout ∧ pout ≤ 254) ∨ 3 < b.rank := by
  obtain ⟨timed, banded, cored, prompted, -⟩ := endCode_names code
  simp only [badStepField, core, before, after, isNone_absentAt, badPrompt_iff small, badPrompt_iff small', Bool.or_eq_true,
    Bool.and_eq_true, Bool.not_eq_true', decide_eq_true_eq, timed, banded, cored, prompted, or_assoc]

/-- The record that is kept of a step (R105, R106). -/
theorem keptStep_eq (code : EndKind.ofCode a.endCode = some e) (core : b.coreTarget = absentAt 0 target)
    (bands : b.band = absentAt 0 band) (falls : b.fallback = absentAt 0 fallback) :
    keptStep m e a b =
      { mode := m
        setpoint := m.setpointRange.map (fun g => max g.1 (min g.2 a.setpoint))
        humidity := (absentAt 255 a.humidity).bind (within m.humidityRange)
        endKind := EndKind.ofCode a.endCode
        duration := if a.endCode = 0 ∨ a.endCode = 1 then some a.duration else none
        band := if m = .wait ∨ band = 0 then none else some (max 1 (min 20 band))
        coreTarget := if a.endCode = 2 ∧ target ≠ 0 then some (max 30 (min 99 target)) else none
        fallback := if a.endCode = 2 ∧ fallback ≠ 0 then some fallback else none
        preheat := b.preheat && decide (m ≠ .wait)
        promptIn := b.promptIn, promptOut := b.promptOut, rank := b.rank } := by
  obtain ⟨timed, banded, cored, -⟩ := endCode_names code
  rw [keptStep, StepRecord.mk.injEq]
  refine ⟨rfl, rfl, rfl, code.symm, ?_, ?_, ?_, ?_, rfl, rfl, rfl, rfl⟩
  · simp only [timed, banded]
  · rw [bands]
    by_cases wait : m = .wait
    · rw [if_pos wait, if_pos (.inl wait)]
    · by_cases zero : band = 0
      · rw [if_neg wait, if_pos (.inr zero), absentAt, if_pos zero]
        rfl
      · rw [if_neg wait, if_neg (not_or.mpr ⟨wait, zero⟩), absentAt, if_neg zero]
        rfl
  · rw [core]
    by_cases zero : target = 0
    · simp [absentAt, zero]
    · by_cases two : a.endCode = 2
      · rw [if_pos (cored.mpr two), if_pos ⟨two, zero⟩, absentAt, if_neg zero]
        rfl
      · rw [if_neg (mt cored.mp two), if_neg (fun both => two both.1)]
  · rw [falls]
    by_cases zero : fallback = 0
    · simp [absentAt, zero]
    · by_cases two : a.endCode = 2
      · rw [if_pos (cored.mpr two), if_pos ⟨two, zero⟩, absentAt, if_neg zero]
      · rw [if_neg (mt cored.mp two), if_neg (fun both => two both.1)]

/-- A value kept differs from one carried when one was carried and it was changed or dropped. -/
theorem kept_differs {v : Nat} {o : Option Nat} (absent : v = 0 → o = none) : o ≠ absentAt 0 v ↔ v ≠ 0 ∧ o ≠ some v := by
  by_cases zero : v = 0
  · rw [absentAt, if_pos zero]
    simp [zero, absent zero]
  · rw [absentAt, if_neg zero]
    simp [zero]

/-- What makes the answer CLAMPED (R105, R106). -/
theorem stepChanged_iff {r : StepRecord} (kept : keptStep m e a b = r) (code : EndKind.ofCode a.endCode = some e)
    (core : b.coreTarget = absentAt 0 target) (bands : b.band = absentAt 0 band) (falls : b.fallback = absentAt 0 fallback) :
    stepChanged m e a b = true ↔
      (m ≠ .wait ∧ r.setpoint ≠ some a.setpoint)
        ∨ (r.humidity ≠ absentAt 255 a.humidity ∧ ¬(m = .reheat ∧ absentAt 255 a.humidity = some 50))
        ∨ (a.durationPresent = true ∧ ¬(a.endCode = 0 ∨ a.endCode = 1)) ∨ (band ≠ 0 ∧ r.band ≠ some band)
        ∨ (target ≠ 0 ∧ r.coreTarget ≠ some target) ∨ (fallback ≠ 0 ∧ a.endCode ≠ 2)
        ∨ (b.preheat = true ∧ m = .wait) := by
  have whole := (keptStep_eq (m := m) code core bands falls).symm.trans kept
  have duration : r.duration.isNone = true ↔ ¬(a.endCode = 0 ∨ a.endCode = 1) := by
    rw [← whole]
    dsimp only
    split <;> simp_all
  have noBand : band = 0 → r.band = none := fun zero => by
    rw [← whole]
    exact if_pos (.inr zero)
  have noTarget : target = 0 → r.coreTarget = none := fun zero => by
    rw [← whole]
    exact if_neg (fun both => both.2 zero)
  have noFallback : fallback = 0 → r.fallback = none := fun zero => by
    rw [← whole]
    exact if_neg (fun both => both.2 zero)
  have drops : fallback ≠ 0 ∧ r.fallback ≠ some fallback ↔ fallback ≠ 0 ∧ a.endCode ≠ 2 := by
    refine and_congr_right fun carried => ?_
    rw [← whole]
    dsimp only
    by_cases two : a.endCode = 2 <;> simp [two, carried]
  have heats : r.preheat ≠ b.preheat ↔ b.preheat = true ∧ m = .wait := by
    rw [← whole]
    dsimp only
    cases b.preheat <;> simp
  simp only [stepChanged, kept, core, bands, falls, humidityExcused, Bool.or_eq_true, Bool.and_eq_true, Bool.not_eq_true',
    decide_eq_true_eq, Bool.and_eq_false_iff, decide_eq_false_iff_not, kept_differs noBand, kept_differs noTarget,
    kept_differs noFallback, drops, heats, duration, or_assoc, not_and_or]

end

/-- A step of no cooking mode is refused (R104). -/
theorem stepCheck_badMode {a : HalfA} (b : HalfB) (beyond : 9 < a.modeCode) : stepCheck a b = .error .badMode := by
  unfold stepCheck
  cases known : Mode.ofCode a.modeCode with
  | none => rfl
  | some m =>
    dsimp only
    rw [if_pos (mode_beyond known beyond)]

/-- A step of a cooking mode is judged by its fields (R104). -/
theorem stepCheck_cooking {a : HalfA} (b : HalfB) {m : Mode} (known : Mode.ofCode a.modeCode = some m) (cooking : a.modeCode ≤ 9) :
    (3 < a.endCode → stepCheck a b = .error .badField)
      ∧ ∀ e, EndKind.ofCode a.endCode = some e →
        stepCheck a b = if badStepField m e a b then .error .badField else .ok (m, e) := by
  have plain : ¬m.service = true := by rw [mode_cooking known cooking]; decide
  refine ⟨fun beyond => ?_, fun e code => ?_⟩
  · rw [stepCheck, known]
    dsimp only
    rw [if_neg plain, endKind_none.mpr beyond]
  · rw [stepCheck, known]
    dsimp only
    rw [if_neg plain, code]

/-! ## A step stored (R108, R110) -/

/-- A step stored at its index: the slot is READY when that was the last one to load (R108, R110). -/
theorem storeStep_fields (ix : SlotIx) (p : Program) (i : Nat) (r : StepRecord) (t : Store) :
    let q : Program := { p with steps := p.steps.set i (some r) }
    let u := t.storeStep ix p i r
    (q.complete = true → u.slot ix = .ready q ∧ u.staging = t.staging.filter (fun z => decide (z.slot ≠ ix.number)))
      ∧ (q.complete = false → u.slot ix = .loading q ∧ u.staging = t.staging)
      ∧ u.slot ix.other = t.slot ix.other ∧ u.lastOutcome = t.lastOutcome := by
  intro q u
  have stored : u = if q.complete then (t.setSlot ix (.ready q)).freeStaging ix else t.setSlot ix (.loading q) := rfl
  by_cases full : q.complete = true
  · rw [stored, if_pos full]
    obtain ⟨this, other, staging, outcome⟩ := setSlot_slots ix (.ready q) t
    refine ⟨fun _ => ⟨?_, ?_⟩, fun part => absurd (full.symm.trans part) (by decide), ?_, outcome⟩
    · cases ix <;> rfl
    · cases ix <;> rfl
    · cases ix <;> rfl
  · rw [stored, if_neg full]
    obtain ⟨this, other, staging, outcome⟩ := setSlot_slots ix (.loading q) t
    exact ⟨fun yes => absurd yes full, fun _ => ⟨this, staging⟩, other, outcome⟩

/-! ## STEP_PART_B (R109, R112) -/

/-- The fields of a STEP_PART_B payload (R195). -/
theorem secondHalf_fields (si b2 b3 f1 f0 pin pout : Byte) :
    let b := HalfB.ofBody [si, b2, b3, f1, f0, pin, pout]
    b.preheat = decide (128 ≤ b2.toNat) ∧ b.coreTarget = absentAt 0 (b2.toNat % 128) ∧ b.rank = b3.toNat / 32
      ∧ b.band = absentAt 0 (b3.toNat % 32) ∧ b.fallback = absentAt 0 (f1.toNat * 256 + f0.toNat)
      ∧ b.promptIn = absentAt 255 pin.toNat ∧ b.promptOut = absentAt 255 pout.toNat :=
  ⟨Bool.eq_iff_iff.mpr ((byte_bit7 b2).trans decide_eq_true_iff.symm), rfl, rfl, rfl, rfl, rfl, rfl⟩

/-- A half whose place was not staged is out of order (R112). -/
theorem stepPartB_strays {src : Nat} {body : List Byte} {s : State}
    (strays : ∀ e, s.store.staging.find? (fun e => decide (e.src = src)) = some e →
      ¬(e.slot = slotOf (byteAt body 1) ∧ e.index = indexOf (byteAt body 1))) :
    s.stepPartB src body = ⟨s, .code .outOfOrder (body.take 1)⟩ := by
  unfold State.stepPartB
  cases staged : s.store.staging.find? (fun e => decide (e.src = src)) with
  | none => rfl
  | some e =>
    dsimp only
    rw [if_neg (strays e staged)]

/-- The staging table without the entry of a source (R112). -/
abbrev State.entryFreed (src : Nat) (s : State) : State :=
  { s with store := { s.store with staging := s.store.staging.filter (fun x => decide (x.src ≠ src)) } }

/-- A half of the staged place is joined with it (R112). -/
theorem stepPartB_joins {src : Nat} {body : List Byte} {s : State} {e : Staged}
    (staged : s.store.staging.find? (fun e => decide (e.src = src)) = some e)
    (place : e.slot = slotOf (byteAt body 1) ∧ e.index = indexOf (byteAt body 1)) :
    s.stepPartB src body =
      ⟨((s.entryFreed src).joinedStep src e (.ofBody body)).1,
        .code ((s.entryFreed src).joinedStep src e (.ofBody body)).2 (body.take 1)⟩ := by
  unfold State.stepPartB
  rw [staged]
  dsimp only
  rw [if_pos place]
  rfl

/-- A joined step of a slot that is not LOADING (R109). -/
theorem joinedStep_notLoading {src : Nat} {e : Staged} {b : HalfB} {s : State} {ix : SlotIx} (slot : ix.number = e.slot)
    (other : ¬∃ p, s.store.slot ix = .loading p) : s.joinedStep src e b = (s, .notLoading) := by
  rw [State.joinedStep, ← slot, ofNumber_number]
  dsimp only
  cases holds : s.store.slot ix with
  | loading p => exact absurd ⟨p, holds⟩ other
  | empty => rfl
  | ready p => rfl
  | active p => rfl
  | done p o => rfl

/-- A joined step of a slot that is LOADING (R109). -/
theorem joinedStep_loading {src : Nat} {e : Staged} {b : HalfB} {s : State} {ix : SlotIx} {p : Program} (slot : ix.number = e.slot)
    (loading : s.store.slot ix = .loading p) :
    (src ≠ p.originator → s.joinedStep src e b = (s, .notOriginator))
      ∧ (src = p.originator → p.stepCount ≤ e.index → s.joinedStep src e b = (s, .badIndex))
      ∧ (src = p.originator → e.index < p.stepCount →
        (∀ a, stepCheck e.half b = .error a → s.joinedStep src e b = (s, a))
        ∧ ∀ m k, stepCheck e.half b = .ok (m, k) →
          s.joinedStep src e b = (s.mapStore (Store.storeStep ix p e.index (keptStep m k e.half b)),
            okOrClamped (stepChanged m k e.half b))) := by
  rw [State.joinedStep, ← slot, ofNumber_number]
  dsimp only
  rw [loading]
  dsimp only
  refine ⟨fun other => if_pos other, fun same beyond => ?_, fun same inside => ⟨fun a refused => ?_, fun m k passes => ?_⟩⟩
  · rw [if_neg (not_not.mpr same), if_pos beyond]
  · rw [if_neg (not_not.mpr same), if_neg (Nat.not_le.mpr inside), refused]
  · rw [if_neg (not_not.mpr same), if_neg (Nat.not_le.mpr inside), passes]

/-- Settles O52: the half joined, the slot's rows, then the fields' rows; a step that passes is kept in range. -/
theorem stepPartB : Obligations.StepPartB := by
  intro src s si b2 b3 f1 f0 pin pout takes h run entry n i
  let body := [si, b2, b3, f1, f0, pin, pout]
  let b := HalfB.ofBody body
  have row {t : State} {x : AnswerCode} (verdict : h.stepPartB src body = ⟨t, .code x [si]⟩) :
      run = .next (s.reported (t.answer src 3#8 x [si])) :=
    takenRow (code := 3#8) (body := body) takes rfl verdict
  have store : h.store = s.store := heard_store s
  have found : h.store.staging.find? (fun e => decide (e.src = src)) = entry := by rw [store]
  refine ⟨fun absent => row (stepPartB_strays fun e staged => ?_), fun e staged => ⟨fun strays =>
    row (stepPartB_strays fun e' staged' => ?_), fun slot index => ?_⟩⟩
  · rw [found, absent] at staged
    cases staged
  · rw [found, staged] at staged'
    cases staged'
    exact strays
  intro freed refused
  have joined {t : State} {x : AnswerCode} (step : freed.joinedStep src e b = (t, x)) :
      run = .next (s.reported (t.answer src 3#8 x [si])) := by
    refine row ((stepPartB_joins (body := body) (found.trans staged) ⟨slot, index⟩).trans ?_)
    rw [show (h.entryFreed src).joinedStep src e (.ofBody body) = (t, x) from step]
    rfl
  have slots (ix : SlotIx) : freed.store.slot ix = s.store.slot ix := by
    rw [← store]
    cases ix <;> rfl
  refine ⟨fun beyond => joined ?_, fun ix named => ⟨fun other => joined (joinedStep_notLoading (named.trans slot.symm) ?_),
    fun p loading => ?_⟩⟩
  · rw [State.joinedStep, slot, ofNumber_beyond beyond]
  · rw [slots]
    exact other
  obtain ⟨stranger, outside, inside⟩ :=
    joinedStep_loading (src := src) (e := e) (b := b) (named.trans slot.symm) ((slots ix).trans loading)
  refine ⟨fun other => joined (stranger other), fun same beyond => joined (outside same (index ▸ beyond)), fun same counted => ?_⟩
  intro a target rank band fallback
  obtain ⟨fails, passes⟩ := inside same (index ▸ counted)
  refine ⟨fun beyond => joined (fails _ (stepCheck_badMode b beyond)), fun m known cooking => ?_⟩
  intro timed bad humidity r changed q
  obtain ⟨preheat, core, ranks, bands, falls, before, after⟩ := secondHalf_fields si b2 b3 f1 f0 pin pout
  obtain ⟨noKind, judged⟩ := stepCheck_cooking b known cooking
  by_cases beyond : 3 < a.endCode
  · exact ⟨fun _ => joined (fails _ (noKind beyond)), fun good => absurd (.inl beyond) good⟩
  obtain ⟨k, code⟩ : ∃ k, EndKind.ofCode a.endCode = some k := Option.ne_none_iff_exists'.mp (mt endKind_none.mp beyond)
  have isBad : badStepField m k a b = true ↔ bad := by
    rw [badStepField_iff code core before after pin.isLt pout.isLt, ranks]
    exact (or_iff_right beyond).symm
  have kept : keptStep m k a b = r := by
    rw [keptStep_eq code core bands falls, StepRecord.mk.injEq]
    refine ⟨rfl, rfl, ?_, rfl, rfl, rfl, rfl, rfl, ?_, before, after, ranks⟩
    · show humidity.bind (within m.humidityRange) = _
      cases m <;> cases humidity <;> rfl
    · rw [preheat, Bool.decide_and]
  have isChanged : stepChanged m k a b = true ↔ changed := by
    rw [stepChanged_iff kept code core bands falls, preheat, decide_eq_true_eq]
    exact Iff.rfl
  refine ⟨fun yes => joined (fails _ ?_), fun good => ?_⟩
  · rw [judged k code, if_pos (isBad.mpr yes)]
  have stored := passes m k (by rw [judged k code, if_neg (mt isBad.mp good)])
  obtain ⟨full, part, other, outcome⟩ := storeStep_fields ix p e.index r freed.store
  rw [index] at full part other outcome
  rw [kept, index] at stored
  refine ⟨freed.mapStore (Store.storeStep ix p i r), okOrClamped (stepChanged m k a b), joined stored, fun yes => ?_,
    fun no => ?_, fun complete => ?_, fun incomplete => part incomplete, other.trans (slots _), outcome.trans ?_, ?_⟩
  · rw [isChanged.mpr yes]
    rfl
  · rw [Bool.eq_false_iff.mpr (mt isChanged.mp no)]
    rfl
  · rw [← named]
    exact full complete
  · exact (congrArg Store.lastOutcome store :)
  · have only := (joinedStep_does src e b freed).only
    rw [stored] at only
    exact only

end Sys2Proof.Machine
end

section
/-! PROOFS. START (R121 to R123). -/

namespace Sys2Proof.Machine

/-! ## A program that starts (R122) -/

/-- A program placed in its slot, before its first step is entered (R77, R122, R180). -/
def State.programPlaced (ix : SlotIx) (p : Program) (s : State) : State :=
  { s with
    store := s.store.setSlot ix (.active p)
    seq := { s.seq.idle with run := some ⟨ix, 0, .count⟩ }
    climate := { s.climate with tempI := 0, humI := 0, coolingFan := s.climate.coolingFan || !s.mainsOut }
    steam := { s.steam with millilitres := 0 }
    report := { s.report with chainRefusal := none } }

/-- A start enters step 0 of the program placed; QUIET has been left already (R122). -/
theorem startProgram_placed {s : State} (loud : s.share.state ≠ .quiet) (ix : SlotIx) (p : Program) :
    s.startProgram ix p = (s.programPlaced ix p).enterStep ix p 0 := by
  show (s.programPlaced ix p).leaveQuiet.enterStep ix p 0 = _
  rw [leaveQuiet_loud (s := s.programPlaced ix p) loud]

/-- The slots of a program placed. -/
theorem programPlaced_slots (ix : SlotIx) (p : Program) (s : State) :
    (s.programPlaced ix p).store.slot ix = .active p ∧ (s.programPlaced ix p).store.slot ix.other = s.store.slot ix.other := by
  obtain ⟨this, other, -⟩ := setSlot_slots ix (.active p) s.store
  exact ⟨this, other⟩

/-- A step admitted leaves all but its record, its working copy and the ceiling. -/
theorem stepAdmitted_only (ix : SlotIx) (i : Nat) (r : StepRecord) (s : State) :
    Only [.program, .record, .integrators, .ventTimer, .flap, .ceiling, .sharing, .queue] s (stepAdmitted ix i r s) :=
  (((forStep_does ix i r.forWork s).seq (recordStep_does r _)).seq (updateCeiling_does _)).only.mono (by decide)

/-- Integrators at 0 stay there at the entry to a step (R61, R64). -/
theorem forStep_zero {c : Climate} (temp : c.tempI = 0) (hum : c.humI = 0) (r : StepRecord) :
    (c.forStep r).tempI = 0 ∧ (c.forStep r).humI = 0 := by
  unfold Climate.forStep
  exact ⟨by rw [temp, ite_self], by rw [hum, ite_self]⟩

/-- The first step of a program admitted: its record at the climate regulator, integrators at 0, and the rest as placed
(R77, R122, R123). -/
theorem firstStep_admitted (ix : SlotIx) (p : Program) (r : StepRecord) (s : State) :
    let x := stepAdmitted ix 0 r (s.programPlaced ix p)
    ((x.seq.pauseFlag = false ∧ x.seq.stopFlag = false ∧ x.seq.interruption = none) ∧ (x.seq.prompt = none ∧ x.seq.promptTimer = none)
        ∧ x.seq.elapsed = 0 ∧ x.seq.run = some ⟨ix, 0, .count⟩)
      ∧ x.store = (s.programPlaced ix p).store
      ∧ (x.climate.mode = some r.mode ∧ x.climate.setpoint = r.setpoint ∧ x.climate.tempI = 0 ∧ x.climate.humI = 0)
      ∧ x.climate.coolingFan = (s.climate.coolingFan || !s.mainsOut)
      ∧ x.steam.millilitres = 0 ∧ x.report.chainRefusal = none ∧ x.scale = s.scale := by
  intro x
  obtain ⟨⟨mode, setpoint, -⟩, -, tempI, humI, -⟩ := stepAdmitted_record ix 0 r (s.programPlaced ix p)
  obtain ⟨zeroT, zeroH⟩ := forStep_zero (c := (s.programPlaced ix p).climate) rfl rfl r
  have only := stepAdmitted_only ix 0 r (s.programPlaced ix p)
  have fan : x.climate.coolingFan = (s.programPlaced ix p).climate.coolingFan := only .coolingFan (by decide)
  have millilitres : x.steam.millilitres = (s.programPlaced ix p).steam.millilitres := only .millilitres (by decide)
  have refusal : x.report.chainRefusal = (s.programPlaced ix p).report.chainRefusal := only .chainRefusal (by decide)
  have seq : x.seq = _ := stepAdmitted_seq ix 0 r (s.programPlaced ix p)
  rw [seq]
  exact ⟨⟨⟨rfl, rfl, rfl⟩, ⟨rfl, rfl⟩, rfl, rfl⟩, stepAdmitted_store ix 0 r _, ⟨mode, setpoint, tempI.trans zeroT, humI.trans zeroH⟩, fan,
    millilitres, refusal, only.scale⟩

/-! ## The start checks (R121) -/

/-- A program with a heating step. -/
theorem heatingStep_iff (p : Program) : p.heatingStep = true ↔ ∃ r ∈ p.records, r.mode.service = false ∧ r.mode ≠ .wait := by
  simp [Program.heatingStep, Mode.heats]

/-- A program with a humid step. -/
theorem humidSteps_iff (p : Program) : p.humidSteps = true ↔ ∃ r ∈ p.records, r.mode.humid = true := by
  simp [Program.humidSteps]

/-- The faults that refuse a heating step. -/
theorem heatBlocked_iff (s : State) :
    s.heatBlocked = true ↔ (s.faults.get .cavitySensor).active = true ∨ (s.faults.get .cavityOverheat).active = true
      ∨ (s.faults.get .mains).active = true := by
  simp only [State.heatBlocked, State.faultActive, Bool.or_eq_true, or_assoc]

/-- Rows 4 to 7 of the start checks, each where those before it do not apply (R121). -/
theorem startRefusal_rows (p : Program) (s : State) :
    let r4 := p.heatingStep = true ∧ s.heatBlocked = true
    let r5 := p.humidSteps = true ∧ s.scale.rinseOwed = true
    let r6 := p.humidSteps = true ∧ 900000 ≤ s.scale.load
    let r7 := p.humidSteps = true ∧ s.humidBlocked = true
    (r4 → s.startRefusal p = some .faultBlock) ∧ (¬r4 → r5 → s.startRefusal p = some .rinseOwed)
      ∧ (¬r4 → ¬r5 → r6 → s.startRefusal p = some .scaleLock) ∧ (¬r4 → ¬r5 → ¬r6 → r7 → s.startRefusal p = some .faultBlock)
      ∧ (¬r4 → ¬r5 → ¬r6 → ¬r7 → s.startRefusal p = none) := by
  intro r4 r5 r6 r7
  have form : s.startRefusal p =
      if r4 then some .faultBlock else if r5 then some .rinseOwed else if r6 then some .scaleLock
        else if r7 then some .faultBlock else none := by
    simp only [State.startRefusal, Bool.and_eq_true, State.scaleLock, decide_eq_true_eq]
    rfl
  rw [form]
  refine ⟨fun a => if_pos a, fun a b => ?_, fun a b c => ?_, fun a b c d => ?_, fun a b c d => ?_⟩
  · rw [if_neg a, if_pos b]
  · rw [if_neg a, if_neg b, if_pos c]
  · rw [if_neg a, if_neg b, if_neg c, if_pos d]
  · rw [if_neg a, if_neg b, if_neg c, if_neg d]

/-! ## START (R121, R122) -/

/-- A START of a slot that is not READY (R121). -/
theorem startSlot_notReady {s : State} {ix : SlotIx} (other : ¬∃ p, s.store.slot ix = .ready p) :
    s.startSlot ix.number = (s, .notReady) := by
  rw [State.startSlot, ofNumber_number]
  dsimp only
  cases holds : s.store.slot ix with
  | ready p => exact absurd ⟨p, holds⟩ other
  | empty => rfl
  | loading p => rfl
  | active p => rfl
  | done p o => rfl

/-- A START of a slot that is READY (R121). -/
theorem startSlot_ready {s : State} {ix : SlotIx} {p : Program} (ready : s.store.slot ix = .ready p) :
    (s.hasActive = true → s.startSlot ix.number = (s, .busy))
      ∧ (s.hasActive = false → (∀ a, s.startRefusal p = some a → s.startSlot ix.number = (s, a))
        ∧ (s.startRefusal p = none → s.startSlot ix.number = ((s.startProgram ix p).runSettle, .ok))) := by
  rw [State.startSlot, ofNumber_number]
  dsimp only
  rw [ready]
  dsimp only
  refine ⟨fun active => if_pos active, fun idle => ⟨fun a refused => ?_, fun free => ?_⟩⟩
  · rw [if_neg (by rw [idle]; decide), refused]
  · rw [if_neg (by rw [idle]; decide), free]

/-- A step of a program is one of its records. -/
theorem step_mem_records {p : Program} {i : Nat} {r : StepRecord} (step : p.step i = some r) : r ∈ p.records := by
  unfold Program.step at step
  split at step
  next found =>
    rw [step] at found
    exact List.mem_filterMap.mpr ⟨some r, List.mem_of_getElem? found, rfl⟩
  next => cases step

/-- Settles O53: the start checks row by row, then the program placed and its first step entered. -/
theorem start : Obligations.Start := by
  intro src n s takes h run refused on
  have row {t : State} {a : AnswerCode} (verdict : h.startSlot n.toNat = (t, a)) : run = .next (s.reported (t.answer src 4#8 a [n])) :=
    takenRow (code := 4#8) (body := [n]) takes rfl (congrArg (verdictOf 4 [n]) verdict)
  have store : h.store = s.store := heard_store s
  refine ⟨fun beyond => row ?_, fun ix named => ⟨fun other => row ?_, fun p ready => ?_⟩⟩
  · rw [State.startSlot, ofNumber_beyond beyond]
  · rw [← named]
    exact startSlot_notReady (by rw [store]; exact other)
  intro heating humid r4 r5 r6 r7
  obtain ⟨busy, judged⟩ := startSlot_ready (s := h) (ix := ix) (p := p) (by rw [store]; exact ready)
  rw [named, show h.hasActive = s.hasActive from heard_hasActive s] at busy judged
  rw [show h.startRefusal p = s.startRefusal p from heard_startRefusal s p] at judged
  refine ⟨fun active => row (busy active), fun idle => ?_⟩
  obtain ⟨refuses, starts⟩ := judged idle
  have rows := startRefusal_rows p s
  rw [heatingStep_iff, humidSteps_iff, heatBlocked_iff, humidBlocked_iff] at rows
  obtain ⟨row4, row5, row6, row7, free⟩ := rows
  refine ⟨fun a => row (refuses _ (row4 a)), fun a b => row (refuses _ (row5 a b)), fun a b c => row (refuses _ (row6 a b c)),
    fun a b c d => row (refuses _ (row7 a b c d)), fun a b c d recipe r step => ?_⟩
  intro phase
  obtain ⟨-, -, loud, -⟩ := heard_fields s
  let x := stepAdmitted ix 0 r (h.programPlaced ix p)
  have entered : h.startProgram ix p = x.toPromptIn r := by
    rw [startProgram_placed loud, enterStep_enters step, admitStep_recipe recipe]
    rintro ⟨-, wet, blocked⟩
    have fault : s.humidBlocked = true := (heard_humidBlocked s).symm.trans blocked
    exact d ⟨⟨r, step_mem_records step, wet⟩, (humidBlocked_iff s).mp fault⟩
  obtain ⟨⟨⟨pause, stop, interruption⟩, ⟨prompt, timer⟩, elapsed, position⟩, stored, climate, fan, millilitres, refusal, -⟩ :=
    firstStep_admitted ix p r h
  obtain ⟨keptStore, keptClimate, keptReport, request, keptWater⟩ := toPromptIn_blocks r x
  obtain ⟨moved, kept, converted, held, -, -, -, keptPause, keptStop, keptInterruption⟩ :=
    toPromptIn_seq r x ⟨ix, 0, .count⟩ position prompt timer
  obtain ⟨slot, other⟩ := programPlaced_slots ix p h
  refine ⟨h.startProgram ix p, row (starts (free a b c d)), ?_⟩
  have only : Only runAspects h (h.startProgram ix p) := (startProgram_does ix p h).1.only
  rw [entered] at only ⊢
  rw [keptStore, keptClimate, keptReport, keptWater]
  refine ⟨⟨?_, ?_⟩, moved, ⟨keptPause.trans pause, keptStop.trans stop, keptInterruption.trans interruption, ?_⟩, climate,
    millilitres, request, refusal, ?_, only⟩
  · rw [stored]
    exact slot
  · rw [stored, other, store]
  · by_cases gone : probeLost r x
    · cases fallback : r.fallback with
      | none => exact (held gone fallback).2.2.trans elapsed
      | some d => exact (converted gone d fallback).2.2.2
    · exact (kept gone).2.2.2.trans elapsed
  · rw [fan, show h.climate = s.climate from heard_climate s, State.mainsOut, show h.faultActive .mains = s.faultActive .mains from heard_faultActive s _]
    simp only [Bool.or_eq_true, Bool.not_eq_true', ← Bool.not_eq_true]
    exact Iff.rfl

end Sys2Proof.Machine
end

section
/-! PROOFS. SET_HARDNESS and START_DESCALE (R146, R150 to R152). -/

namespace Sys2Proof.Machine

/-! ## SET_HARDNESS (R146, R149) -/

/-- The hardness set, with a retained write where it changes (R146, R149). -/
theorem setHardness_rows (v : Nat) (s : State) :
    let t : State := { s with scale := { s.scale with hardness := min 30 v } }
    let x : AnswerCode := if 30 < v then .clamped else .ok
    (s.serviceActive = true → s.setHardness v = (s, .busy))
      ∧ (s.serviceActive = false → min 30 v = s.scale.hardness → s.setHardness v = (s, x))
      ∧ (s.serviceActive = false → min 30 v ≠ s.scale.hardness →
          s.setHardness v = ({ t with retained := s.retained.request ⟨min 30 v, s.scale.load, s.scale.rinseOwed, s.scale.soakCount⟩ }, x)) := by
  intro t x
  have code : okOrClamped (decide (30 < v)) = x := by
    by_cases beyond : 30 < v
    · rw [okOrClamped, decide_eq_true beyond]
      exact (if_pos beyond).symm
    · rw [okOrClamped, decide_eq_false beyond]
      exact (if_neg beyond).symm
  have set : s.serviceActive = false → s.setHardness v = (if min 30 v = s.scale.hardness then t else t.requestWrite, x) := fun free => by
    rw [State.setHardness, if_neg (by rw [free]; decide), code]
    rfl
  refine ⟨fun service => if_pos service, fun free same => ?_, fun free other => ?_⟩
  · rw [set free, if_pos same]
    show ({ s with scale := { s.scale with hardness := min 30 v } }, x) = _
    rw [same]
  · rw [set free, if_neg other]
    rfl

/-! ## START_DESCALE (R150 to R152) -/

/-- The faults that refuse START_DESCALE (R150, R172). -/
theorem descaleBlocked_iff (s : State) :
    s.descaleBlocked = true ↔ (s.faults.get .mains).active = true ∨ (s.faults.get .cavityOverheat).active = true
      ∨ (s.faults.get .boilerSensor).active = true ∨ (s.faults.get .boilerDry).active = true
      ∨ (s.faults.get .drainTimeout).active = true := by
  rw [State.descaleBlocked, Bool.or_eq_true, Bool.or_eq_true, humidBlocked_iff, or_assoc]
  rfl

/-- The soak seconds of a scale load, in steps of ten minutes from ten to forty (R151). -/
theorem soakSeconds_eq (load : Nat) :
    60 * soakMinutes load = if load = 0 then 600 else if load ≤ 300000 then 1200 else if load ≤ 600000 then 1800 else 2400 := by
  unfold soakMinutes
  by_cases clean : load = 0
  · rw [if_pos clean, clean]
    rfl
  by_cases low : load ≤ 300000
  · rw [if_neg clean, if_pos low, show (load + 299999) / 300000 = 1 by omega]
    rfl
  by_cases middle : load ≤ 600000
  · rw [if_neg clean, if_neg low, if_pos middle, show (load + 299999) / 300000 = 2 by omega]
    rfl
  · rw [if_neg clean, if_neg low, if_neg middle]
    omega

/-- START_DESCALE judged: the rows, then the generated program started in the lowest EMPTY slot (R150). -/
theorem startDescale_rows (s : State) :
    (s.hasActive = true → s.startDescale = ⟨s, .code .busy []⟩)
      ∧ (s.hasActive = false → s.store.lowestEmpty = none → s.startDescale = ⟨s, .code .busy []⟩)
      ∧ ∀ ix, s.hasActive = false → s.store.lowestEmpty = some ix →
        (s.descaleBlocked = true → s.startDescale = ⟨s, .code .faultBlock []⟩)
        ∧ (s.descaleBlocked = false →
          s.startDescale =
            ⟨((s.mapScale (fun a => { a with drainOnStop := false })).startProgram ix (generated s.station s.scale)).runSettle,
              .code .ok [byteOf ix.number]⟩) := by
  have judged (idle : s.hasActive = false) : s.startDescale = match s.store.lowestEmpty with
      | none => s.refuse .busy
      | some ix =>
        if s.descaleBlocked then s.refuse .faultBlock
        else
          ⟨((s.mapScale (fun a => { a with drainOnStop := false })).startProgram ix (generated s.station s.scale)).runSettle,
            .code .ok [byteOf ix.number]⟩ := if_neg (by rw [idle]; decide)
  refine ⟨fun active => if_pos active, fun idle full => ?_, fun ix idle lowest => ⟨fun blocked => ?_, fun free => ?_⟩⟩
  · rw [judged idle, full]
    rfl
  · rw [judged idle, lowest]
    exact if_pos blocked
  · rw [judged idle, lowest]
    exact if_neg (by rw [free]; decide)

/-- The lowest EMPTY slot, named by its condition (R100). -/
theorem lowestEmpty_of {t : Store} {ix : SlotIx} (empty : t.slot ix = .empty) (lowest : ix = .s1 → t.slot0 ≠ .empty) :
    t.lowestEmpty = some ix := by
  cases ix with
  | s0 => exact lowestEmpty_first empty
  | s1 => exact lowestEmpty_second (lowest rfl) empty

/-- The step both generated programs begin with (R151, R152). -/
theorem generated_first (station : Nat) (a : Scale) : (generated station a).step 0 = some (serviceStep .drain none none) := by
  unfold generated
  cases a.rinseOwed <;> rfl

/-- A program generated, once started, is in the COUNT of its drain step (R122, R153). -/
theorem generatedStart_fields {s : State} (loud : s.share.state ≠ .quiet) (ix : SlotIx) (a : Scale) (station : Nat) :
    let p := generated station a
    let u := s.startProgram ix p
    (u.store.slot ix = .active p ∧ u.store.slot ix.other = s.store.slot ix.other)
      ∧ u.seq.run = some ⟨ix, 0, .count⟩
      ∧ (u.seq.pauseFlag = false ∧ u.seq.stopFlag = false ∧ u.seq.prompt = none ∧ u.seq.elapsed = 0)
      ∧ (u.climate.mode = some .drain ∧ u.climate.setpoint = none ∧ u.climate.tempI = 0 ∧ u.climate.humI = 0)
      ∧ (u.steam.request = .drain ∧ u.steam.millilitres = 0) ∧ u.scale = s.scale ∧ u.report.chainRefusal = none
      ∧ Only runAspects s u := by
  intro p u
  let r := serviceStep .drain none none
  let x := stepAdmitted ix 0 r (s.programPlaced ix p)
  have entered : u = x.toCount r := by
    show s.startProgram ix p = _
    rw [startProgram_placed loud, enterStep_enters (generated_first station a) (fun h => nomatch h.1),
      admitStep_service rfl]
    rfl
  obtain ⟨⟨⟨pause, stop, -⟩, ⟨prompt, -⟩, elapsed, position⟩, stored, climate, -, millilitres, refusal, scale⟩ :=
    firstStep_admitted ix p r s
  obtain ⟨slot, other⟩ := programPlaced_slots ix p s
  have counts := toCount_only r x
  have seq : (x.toCount r).seq = x.countSeq r := (toCount_seq r x).trans (if_neg fun h => absurd h.1 (by decide))
  obtain ⟨moved, ⟨-, -, kept, -⟩, keptPause, keptStop, -⟩ := countSeq_keeps r x
  have keptPrompt := ((countSeq_prompt r x).2 (by decide)).1
  have water : (x.toCount r).steam.millilitres = x.steam.millilitres := counts .millilitres (by decide)
  have only : Only runAspects s u := (startProgram_does ix p s).1.only
  rw [entered] at only ⊢
  rw [seq, counts.store, stored, counts.climate, counts.report, toCount_scale r (by decide)]
  refine ⟨⟨slot, other⟩, ?_, ⟨keptPause.trans pause, keptStop.trans stop, keptPrompt.trans prompt, kept.trans elapsed⟩, climate,
    ⟨?_, water.trans millilitres⟩, scale, refusal, only⟩
  · rw [moved, show x.seq.run = _ from position]
    rfl
  · rw [toCount_steam]
    exact handRequest_request _ _

/-- Settles O59. -/
theorem hardnessAndDescale : Obligations.HardnessAndDescale := by
  intro src s takes h
  refine ⟨fun n => ?hardness, ?descale⟩
  case hardness =>
    intro run v t x
    have row {u : State} {a : AnswerCode} (verdict : h.setHardness n.toNat = (u, a)) :
        run = .next (s.reported (u.answer src 13#8 a [])) :=
      takenRow (code := 13#8) (body := [n]) takes rfl (congrArg (verdictOf 13 [n]) verdict)
    have service : h.serviceActive = s.serviceActive := heard_serviceActive s
    have scale : h.scale = s.scale := heard_scale s
    have retained : h.retained = s.retained := heard_retained s
    obtain ⟨busy, same, changes⟩ := setHardness_rows n.toNat h
    rw [service, scale] at same
    rw [service, scale, retained] at changes
    refine ⟨fun active => row (busy (service.trans active)), fun free kept => row (same free kept), fun free other => ?_⟩
    have stored := row (changes free other)
    rw [← scale] at stored
    rw [← scale]
    exact stored
  case descale =>
    intro run refused on blocked step soakSeconds rinse steps p
    have row {u : State} {a : AnswerCode} {d : List Byte} (verdict : h.startDescale = ⟨u, .code a d⟩) :
        run = .next (s.reported (u.answer src 14#8 a d)) := takenRow (code := 14#8) (body := []) takes rfl verdict
    have active : h.hasActive = s.hasActive := heard_hasActive s
    have store : h.store = s.store := heard_store s
    have isBlocked : h.descaleBlocked = true ↔ blocked := by
      rw [descaleBlocked_iff, show h.faults = s.faults from heard_faults s]
    have program : generated h.station h.scale = p := by
      rw [show h.station = s.station from heard_station s, show h.scale = s.scale from heard_scale s]
      have long : descaleSteps s.scale.load =
          [step .drain none none none, step .wait (some .promptOnly) (some 240) none, step .fill none none none,
            step .soak none none (some soakSeconds)] ++ rinse := by
        rw [descaleSteps, soakSeconds_eq]
        rfl
      have count : (if s.scale.rinseOwed then rinseSteps else descaleSteps s.scale.load).length = if s.scale.rinseOwed then 4 else 8 := by
        rw [apply_ite List.length]
        rfl
      rw [generated, count, long]
      rfl
    obtain ⟨busy, full, judged⟩ := startDescale_rows h
    rw [active] at busy full judged
    rw [store] at full judged
    refine ⟨fun runs => row (busy runs), fun idle first second => row (full idle (lowestEmpty_none first second)),
      fun ix idle empty lowest => ?_⟩
    obtain ⟨refuses, starts⟩ := judged ix idle (lowestEmpty_of empty lowest)
    refine ⟨fun fault => row (refuses (isBlocked.mpr fault)), fun free => ?_⟩
    let t := h.mapScale (fun a => { a with drainOnStop := false })
    obtain ⟨-, -, loud, -⟩ := heard_fields s
    have scale : h.scale = s.scale := heard_scale s
    obtain ⟨⟨slot, other⟩, position, flags, climate, water, account, refusal, only⟩ :=
      generatedStart_fields (s := t) loud ix h.scale h.station
    have cleared : Only [.scaleFlags] h t := (clearDrainOnStop_does h).only.mono (by decide)
    rw [program] at slot other position flags climate water account refusal only
    refine ⟨t.startProgram ix p, ?_, ⟨slot, other.trans ?_⟩, position, flags, climate, water, ⟨?_, ?_, ?_⟩, refusal,
      (cleared.mono (by decide)).trans only⟩
    · have started := row (starts (Bool.eq_false_iff.mpr (mt isBlocked.mp free)))
      rw [program] at started
      exact started
    · exact congrArg (fun z : Store => z.slot ix.other) store
    · rw [account]
      rfl
    · rw [account]
      exact (congrArg Scale.load scale :)
    · rw [account]
      exact (congrArg Scale.rinseOwed scale :)

end Sys2Proof.Machine
end

section
/-! PROOFS. CLEAR_FAULTS and QUERY (R94, R96, R164, R173, R184, R196). -/

namespace Sys2Proof.Machine

/-! ## One record cleared (R164, R173) -/

/-- One record of a CLEAR_FAULTS. -/
def State.clearOne (k : FaultKind) (s : State) : State := s.release k FaultRecord.cleared

/-- What each record keeps, all of them keep. -/
theorem clearFaults_induct {Q : State → Prop} (step : ∀ k t, Q t → Q (t.clearOne k)) {s : State} (start : Q s) : Q s.clearFaults := by
  have all (ks : List FaultKind) : ∀ t, Q t → Q (ks.foldl (fun t k => t.clearOne k) t) := by
    induction ks with
    | nil => exact fun t here => here
    | cons k ks ih => exact fun t here => ih _ (step k t here)
  exact all FaultKind.all s start

/-- A CLEAR_FAULTS clears the record of this kind: it is active and latched (R173). -/
abbrev State.Clears (k : FaultKind) (s : State) : Prop := (s.faults.get k).active = true ∧ (s.faults.get k).latched = true

/-- A record written back is the record that was there. -/
theorem set_get (k : FaultKind) (f : FaultSet) : f.set k (f.get k) = f := by
  cases k <;> rfl

/-- Any other record stays. -/
theorem clearOne_same {k : FaultKind} {s : State} (stays : ¬s.Clears k) : s.clearOne k = s := by
  have record : (s.faults.get k).cleared = s.faults.get k := by
    refine cleared_of_unlatched ?_
    rw [← Bool.not_eq_true, ← Bool.not_eq_true]
    exact not_and_or.mp stays
  have set : s.setFault k FaultRecord.cleared = s := by
    show { s with faults := s.faults.set k (s.faults.get k).cleared } = s
    rw [record, set_get]
  rw [State.clearOne, State.release, set]
  exact if_neg (by simp)

/-- A record that is cleared ends its effects (R96, R164). -/
theorem clearOne_ends {k : FaultKind} {s : State} (clears : s.Clears k) :
    s.clearOne k = (s.setFault k FaultRecord.cleared).faultEnds k := by
  have active : s.faultActive k = true := clears.1
  have gone : (s.setFault k FaultRecord.cleared).faultActive k = false := by
    show ((s.faults.set k (s.faults.get k).cleared).get k).active = false
    rw [get_set_same, cleared_of_latched clears.1 clears.2]
  rw [State.clearOne, State.release]
  exact if_pos (by rw [active, gone]; rfl)

/-! ## What the steam generator sees of it (R94, R96) -/

/-- The steam generator, the pause, and the faults that it reads, are the same. -/
structure State.SameBoiler (s t : State) : Prop where
  steam : t.steam = s.steam
  suspended : t.suspended = s.suspended
  heating : t.barsHeating = s.barsHeating
  filling : t.barsFilling = s.barsFilling
  inUse : t.boilerInUse = s.boilerInUse

/-- The kinds that bar heating (R96). -/
abbrev FaultKind.Boiler (k : FaultKind) : Prop := k = .cavityOverheat ∨ k = .boilerSensor ∨ k = .boilerDry

/-- A record of any other kind is not read there. -/
theorem sameBoiler_of {s t : State} (steam : t.steam = s.steam) (seq : t.seq = s.seq) (store : t.store = s.store)
    (records : ∀ k : FaultKind, k.Boiler → t.faults.get k = s.faults.get k) : s.SameBoiler t := by
  have active {k : FaultKind} (reads : k.Boiler) : t.faultActive k = s.faultActive k := by
    rw [State.faultActive, State.faultActive, records k reads]
  have overheat := active (k := .cavityOverheat) (.inl rfl)
  have sensor := active (k := .boilerSensor) (.inr (.inl rfl))
  have dry := active (k := .boilerDry) (.inr (.inr rfl))
  refine ⟨steam, suspended_congr seq store, ?_, ?_, ?_⟩
  · rw [State.barsHeating, State.barsHeating, overheat, sensor, dry]
  · rw [State.barsFilling, State.barsFilling, sensor, dry]
  · rw [State.boilerInUse, State.boilerInUse, sensor, steam]

/-- The same faults and temperature give a boiler that is to heat the same state. -/
theorem State.SameBoiler.heatState {s t : State} (same : s.SameBoiler t) : t.heatState = s.heatState := by
  rw [heatState_eq, heatState_eq, same.heating, same.inUse]

/-- A kind with no effect at the steam generator ends without one. -/
theorem faultEnds_only {k : FaultKind} (other : ¬k.Boiler) (noDrain : k ≠ .drainTimeout) (s : State) :
    Only [.sharing, .queue, .flap] s (s.faultEnds k) := by
  have nothing : Only [.sharing, .queue, .flap] s s := (Does.refl (as := []) (bs := []) s).only.mono (by decide)
  cases k
  case cavityOverheat => exact absurd (.inl rfl) other
  case boilerSensor => exact absurd (.inr (.inl rfl)) other
  case boilerDry => exact absurd (.inr (.inr rfl)) other
  case drainTimeout => exact absurd rfl noDrain
  case link => exact (leaveIsolated_does s).only.mono (by decide)
  case mains => exact (driveFlap_does s).only.mono (by decide)
  all_goals exact nothing

/-- Three kinds serve the request in force again (R96). -/
theorem faultEnds_boiler {k : FaultKind} (boiler : k.Boiler) (s : State) : s.faultEnds k = s.serve := by
  obtain rfl | rfl | rfl := boiler <;> rfl

/-- A record that bars heating does so (R96). -/
theorem barsHeating_of {k : FaultKind} (boiler : k.Boiler) {s : State} (active : (s.faults.get k).active = true) :
    s.barsHeating = true := by
  rw [barsHeating_iff]
  obtain rfl | rfl | rfl := boiler
  · exact .inl active
  · exact .inr (.inl active)
  · exact .inr (.inr active)

/-- While no drain is owed, a record cleared serves the request again, or is not seen by the steam generator (R94, R96). -/
theorem clearOne_boiler {Q : State → Prop} {k : FaultKind} {s : State} (owed : s.steam.owed = none) (start : Q s)
    (serves : ∀ t : State, s.barsHeating = true → t.steam = s.steam → t.suspended = s.suspended → Q t.serve)
    (rests : ∀ t, s.SameBoiler t → Q t) : Q (s.clearOne k) := by
  by_cases clears : s.Clears k
  · by_cases boiler : k.Boiler
    · rw [clearOne_ends clears, faultEnds_boiler boiler]
      exact serves _ (barsHeating_of boiler clears.1) rfl (suspended_congr rfl rfl)
    · have records (j : FaultKind) (reads : j.Boiler) : (s.clearOne k).faults.get j = s.faults.get j :=
        release_get_ne _ _ (fun same => boiler (same ▸ reads))
      have ends := clearOne_ends clears
      by_cases drain : k = .drainTimeout
      · subst drain
        have idle : s.clearOne .drainTimeout = s.setFault .drainTimeout FaultRecord.cleared := by
          rw [ends]
          refine if_neg fun starts => ?_
          have none : (some .timedOut : Option OwedDrain) = .none := starts.1.symm.trans owed
          cases none
        refine rests _ (sameBoiler_of ?_ ?_ ?_ records)
        · rw [idle]; rfl
        · rw [idle]; rfl
        · rw [idle]; rfl
      · have only := faultEnds_only boiler drain (s.setFault k FaultRecord.cleared)
        rw [← ends] at only
        exact rests _ (sameBoiler_of only.steam only.seq only.store records)
  · rw [clearOne_same clears]
    exact start

/-- A request served leaves the pause and the records. -/
theorem serve_reads (s : State) : s.serve.suspended = s.suspended ∧ s.serve.faults = s.faults := by
  have only := (serve_does s).only
  exact ⟨suspended_congr only.seq only.store, only.faults⟩

/-! ## The request in force, once no fault bars heating (R96) -/

/-- A boiler whose service waits for nothing but a fault. -/
abbrev Steam.Free (w : Steam) : Prop := w.owed = none ∧ w.drainStarted = false

/-- A free boiler that is OFF serves. -/
theorem not_serviceWaits {s : State} (free : s.steam.Free) (off : s.steam.boiler = .off) : ¬s.ServiceWaits := by
  obtain ⟨owed, drain⟩ := free
  rw [State.ServiceWaits, owed, drain, off]
  decide

/-- STEAM over water: OFF under a bar, else as it is to heat. -/
def State.SteamServed (s : State) : Prop :=
  (s.steam.request = .steam ∧ s.steam.low = some .wet ∧ s.steam.Free)
    ∧ ((s.steam.boiler = .off ∧ s.barsHeating = true) ∨ (s.steam.boiler = s.heatState ∧ s.barsHeating = false))

/-- SOAK over water: OFF, with its heating but under a bar. -/
def State.SoakServed (s : State) : Prop :=
  (s.steam.request = .soak ∧ s.steam.low = some .wet ∧ s.steam.Free) ∧ s.steam.boiler = .off ∧ s.suspended = false
    ∧ (s.barsHeating = true ∨ s.steam.soakHeating = true)

/-- STEAM or SOAK without water: OFF under a bar, else a fill with a fresh stroke budget. -/
def State.FillServed (s : State) : Prop :=
  ((s.steam.request = .steam ∨ s.steam.request = .soak) ∧ s.steam.low ≠ some .wet ∧ s.steam.high ≠ some .wet ∧ s.steam.Free)
    ∧ ((s.steam.boiler = .off ∧ s.barsHeating = true) ∨ (s.steam.boiler = .filling ∧ s.steam.strokes = 0))

/-- A record cleared leaves a STEAM request served so far as the bars allow (R85, R96). -/
theorem clearOne_steamServed (k : FaultKind) (s : State) (served : s.SteamServed) : (s.clearOne k).SteamServed := by
  have start := served
  obtain ⟨⟨request, low, free⟩, boiler⟩ := served
  refine clearOne_boiler free.1 start (fun t bars steam _ => ?_) (fun t same => ?_)
  · have off : s.steam.boiler = .off := boiler.elim And.left fun goes => absurd (bars.symm.trans goes.2) (by decide)
    rw [← steam] at request low free off
    have heats := serve_heats (not_serviceWaits free off) request off low
    have bar : t.serve.barsHeating = t.barsHeating := (bars_congr (serve_reads t).2).1
    have heat : t.serve.heatState = t.heatState := heatState_congr (serve_reads t).2 (by rw [heats])
    rw [State.SteamServed, heat, bar, heats]
    refine ⟨⟨request, low, free⟩, ?_⟩
    obtain ⟨barred, -⟩ := heatState_cases t
    cases barring : t.barsHeating with
    | true => exact .inl ⟨barred barring, rfl⟩
    | false => exact .inr ⟨rfl, rfl⟩
  · rw [State.SteamServed, same.steam, same.heating, same.heatState]
    exact start

/-- Soak heating that is started changes two fields of the steam generator. -/
theorem startSoak_form (s : State) : ∃ b, s.startSoak.steam = { s.steam with boiler := .off, soakHeating := b } := by
  unfold State.startSoak
  dsimp only
  split
  · exact ⟨_, (setBoiler_steam .off s).trans rfl⟩
  · rw [State.mapSteam_steam, setBoiler_steam]
    exact ⟨_, rfl⟩

/-- Likewise a SOAK request over water (R95, R96). -/
theorem clearOne_soakServed (k : FaultKind) (s : State) (served : s.SoakServed) : (s.clearOne k).SoakServed := by
  have start := served
  obtain ⟨⟨request, low, free⟩, off, runs, -⟩ := served
  refine clearOne_boiler free.1 start (fun t _ steam pause => ?_) (fun t same => ?_)
  · rw [← steam] at request low free off
    have soaks := serve_soaks (not_serviceWaits free off) request low
    obtain ⟨suspended, faults⟩ := serve_reads t
    obtain ⟨-, set⟩ := startSoak_steam t
    obtain ⟨b, form⟩ := startSoak_form t
    have still : t.suspended = false := pause.trans runs
    have heating : t.barsHeating = true ∨ t.startSoak.steam.soakHeating = true := by
      cases bars : t.barsHeating with
      | true => exact .inl rfl
      | false => exact .inr (set.mpr (.inr ⟨bars, still⟩))
    rw [State.SoakServed, suspended, (bars_congr faults).1, soaks]
    refine ⟨?_, ?_, still, heating⟩
    · rw [form]
      exact ⟨request, low, free⟩
    · rw [form]
  · rw [State.SoakServed, same.steam, same.heating, same.suspended]
    exact start

/-- Likewise a request that finds no water (R85, R88, R96). -/
theorem clearOne_fillServed (k : FaultKind) (s : State) (served : s.FillServed) : (s.clearOne k).FillServed := by
  have start := served
  obtain ⟨⟨request, low, high, free⟩, boiler⟩ := served
  refine clearOne_boiler free.1 start (fun t _ steam _ => ?_) (fun t same => ?_)
  · rw [← steam] at request low high free boiler
    obtain ⟨off, -⟩ | ⟨fills, strokes⟩ := boiler
    · have serves : t.serve = t.startFill := by
        refine serve_fills (not_serviceWaits free off) ?_
        obtain steamed | soaked := request
        · exact .inr (.inr (.inr ⟨steamed, by rw [off]; decide, fun water => low water.2⟩))
        · exact .inr (.inr (.inl ⟨soaked, low⟩))
      rw [State.FillServed, (bars_congr (serve_reads t).2).1, serves]
      cases bars : t.barsFilling with
      | true =>
        rw [startFill_barred bars]
        exact ⟨⟨request, low, high, free⟩, .inl ⟨off, barsHeating_of_filling bars⟩⟩
      | false =>
        rw [(startFill_fills bars high).1]
        exact ⟨⟨request, low, high, free⟩, .inr ⟨rfl, rfl⟩⟩
    · rw [serve_waits (.inr (.inr (.inr (.inr fills))))]
      exact ⟨⟨request, low, high, free⟩, .inr ⟨fills, strokes⟩⟩
  · rw [State.FillServed, same.steam, same.heating]
    exact start

/-- Without a request a free boiler stays as it is. -/
theorem clearOne_noRequest (k : FaultKind) {s : State} (none : s.steam.request = .none) (owed : s.steam.owed = .none) :
    (s.clearOne k).steam = s.steam :=
  clearOne_boiler (Q := fun t => t.steam = s.steam) owed rfl
    (fun t _ steam _ => by rw [serve_noRequest t (by rw [steam]; exact none)]; exact steam) (fun _ same => same.steam)

/-! ## The owed drain that had timed out (R94) -/

/-- The drain owed waits for its fault to be cleared, or has started with its cool-wait timer at 0. -/
def State.TimedOutServed (s : State) : Prop :=
  s.steam.owed = some .timedOut
    ∧ ((s.steam.drainStarted = false ∧ s.Clears .drainTimeout) ∨ (s.steam.drainStarted = true ∧ s.steam.coolWait = some ⟨0, 0⟩))

/-- A record cleared leaves it so (R94). -/
theorem clearOne_timedOutServed (k : FaultKind) (s : State) (served : s.TimedOutServed) : (s.clearOne k).TimedOutServed := by
  have start := served
  obtain ⟨owed, drain⟩ := served
  by_cases clears : s.Clears k
  case neg => rw [clearOne_same clears]; exact start
  have ends := clearOne_ends clears
  let t := s.setFault k FaultRecord.cleared
  by_cases timeout : k = .drainTimeout
  · subst timeout
    have gone : t.faultActive .drainTimeout = false := by
      show ((s.faults.set .drainTimeout (s.faults.get .drainTimeout).cleared).get .drainTimeout).active = false
      rw [get_set_same, cleared_of_latched clears.1 clears.2]
    have steam : (s.clearOne .drainTimeout).steam.owed = some .timedOut ∧ (s.clearOne .drainTimeout).steam.drainStarted = true
        ∧ (s.clearOne .drainTimeout).steam.coolWait = some ⟨0, 0⟩ := by
      rw [ends]
      obtain ⟨waits, -⟩ | ⟨started, timer⟩ := drain
      · have begins : t.faultEnds .drainTimeout = t.beginDrain false := if_pos ⟨owed, waits, gone⟩
        rw [begins, beginDrain_steam]
        exact ⟨owed, rfl, rfl⟩
      · have rests : t.faultEnds .drainTimeout = t := if_neg fun starts => absurd (started.symm.trans starts.2.1) (by decide)
        rw [rests]
        exact ⟨owed, started, timer⟩
    exact ⟨steam.1, .inr steam.2⟩
  · have steam : (s.clearOne k).steam = s.steam := by
      rw [ends]
      by_cases boiler : k.Boiler
      · rw [faultEnds_boiler boiler, serve_waits (s := t) (.inr (.inl fun none => absurd (owed.symm.trans none) (by decide)))]
        rfl
      · exact (faultEnds_only boiler timeout t).steam
    have record : (s.clearOne k).faults.get .drainTimeout = s.faults.get .drainTimeout := release_get_ne _ _ (Ne.symm timeout)
    rw [State.TimedOutServed, State.Clears, steam, record]
    exact start

end Sys2Proof.Machine
end

section
/-! PROOFS. The answers to CLEAR_FAULTS and QUERY (R173, R184, R196). -/

namespace Sys2Proof.Machine

/-! ## The active kinds of an answer (R196) -/

/-- The kinds of a list as bits, the first the highest, above what was there. -/
theorem kindBits_split (f : FaultSet) (ks : List FaultKind) (n : Nat) :
    ∃ r < 2 ^ ks.length, ks.foldl (fun n k => n * 2 + bitIf (f.get k).active 1) n = 2 ^ ks.length * n + r := by
  induction ks generalizing n with
  | nil => exact ⟨0, by simp, by simp⟩
  | cons k ks ih =>
    obtain ⟨r, small, split⟩ := ih (n * 2 + bitIf (f.get k).active 1)
    have bit : bitIf (f.get k).active 1 ≤ 1 := by
      unfold bitIf
      split <;> decide
    refine ⟨2 ^ ks.length * bitIf (f.get k).active 1 + r, ?_, ?_⟩
    · rw [List.length_cons, Nat.pow_succ]
      have scaled := Nat.mul_le_mul_left (2 ^ ks.length) bit
      omega
    · rw [List.foldl_cons, split, List.length_cons, Nat.pow_succ]
      ring

/-- Each kind's bit. -/
theorem kindBits_testBit (f : FaultSet) {ks : List FaultKind} {i : Nat} {k : FaultKind} (place : ks[i]? = some k) (n : Nat) :
    (ks.foldl (fun n k => n * 2 + bitIf (f.get k).active 1) n).testBit (ks.length - 1 - i) = (f.get k).active := by
  induction ks generalizing n i with
  | nil => cases place
  | cons j ks ih =>
    cases i with
    | zero =>
      cases place
      obtain ⟨r, small, split⟩ := kindBits_split f ks (n * 2 + bitIf (f.get k).active 1)
      rw [List.foldl_cons, split, List.length_cons, Nat.add_sub_cancel, Nat.sub_zero, Nat.testBit_two_pow_mul_add _ small,
        if_neg (Nat.lt_irrefl _), Nat.sub_self, Nat.testBit_zero]
      cases (f.get k).active <;> simp [bitIf]
    | succ i =>
      have later := ih (i := i) (by simpa using place) (n * 2 + bitIf (f.get j).active 1)
      rw [List.foldl_cons, List.length_cons, show ks.length + 1 - 1 - (i + 1) = ks.length - 1 - i by omega]
      exact later

/-- The two bytes of the answer, with the first kind of the table in the highest bit (R196). -/
theorem activeFaultBytes_bits (f : FaultSet) :
    ∃ hi lo : Byte, activeFaultBytes f = [hi, lo] ∧ ∀ i k, FaultKind.all[i]? = some k →
      ((hi.toNat * 256 + lo.toNat).testBit (15 - i) = true ↔ (f.get k).active = true) := by
  obtain ⟨r, small, split⟩ := kindBits_split f FaultKind.all 0
  let bits := FaultKind.all.foldl (fun n k => n * 2 + bitIf (f.get k).active 1) 0
  have bound : bits < 2048 := by
    show FaultKind.all.foldl (fun n k => n * 2 + bitIf (f.get k).active 1) 0 < 2048
    rw [split, Nat.mul_zero, Nat.zero_add]
    exact small
  refine ⟨byteOf (bits * 32 / 256), byteOf (bits * 32), rfl, fun i k place => ?_⟩
  have whole : (byteOf (bits * 32 / 256)).toNat * 256 + (byteOf (bits * 32)).toNat = bits * 2 ^ 5 := by
    simp only [byteOf, BitVec.toNat_ofNat]
    omega
  have inside : i < 11 := (List.getElem?_eq_some_iff.mp place).1
  rw [whole, Nat.testBit_mul_two_pow, decide_eq_true (show 15 - i ≥ 5 by omega), Bool.true_and,
    show 15 - i - 5 = FaultKind.all.length - 1 - i by
      show 15 - i - 5 = 11 - 1 - i
      omega]
  exact Bool.eq_iff_iff.mp (kindBits_testBit f place 0)

/-! ## CLEAR_FAULTS (R173) -/

/-- The cleared record of a kind. -/
theorem cleared_eq (r : FaultRecord) :
    r.cleared = if r.active = true ∧ r.latched = true then ⟨false, false, r.count⟩ else r := by
  simp only [FaultRecord.cleared, Bool.and_eq_true]

/-- A condition returns where its record was cleared (R164, R173). -/
theorem returnsTo_eq (k : FaultKind) (back : Bool) (s before : State) :
    ((back = true ∧ before.Clears k) → s.returnsTo k back before = (s.raise k).runSettle)
      ∧ (¬(back = true ∧ before.Clears k) → s.returnsTo k back before = s) := by
  have test : (back && (before.faults.get k).active && (before.faults.get k).latched) = true ↔ back = true ∧ before.Clears k := by
    rw [Bool.and_eq_true, Bool.and_eq_true, and_assoc]
  exact ⟨fun yes => if_pos (test.mpr yes), fun no => if_neg (mt test.mp no)⟩

/-- The request in force is served once no fault bars heating (R96). -/
theorem clearFaults_serves {s : State} (clears : s.Clears .boilerDry ∨ s.Clears .cavityOverheat) (free : s.mustDrainFirst = false)
    (runs : s.suspended = false) (off : s.steam.boiler = .off) :
    let u := s.clearFaults
    u.barsHeating = false →
      (s.steam.low = some .wet → s.steam.request = .steam →
          u.steam.boiler = if ∃ c, u.boilerInUse = some c ∧ 980 ≤ c then .ready else .heating)
      ∧ (s.steam.low = some .wet → s.steam.request = .soak → u.steam.boiler = .off ∧ u.steam.soakHeating = true)
      ∧ (s.steam.low ≠ some .wet → s.steam.high ≠ some .wet → s.steam.request = .steam ∨ s.steam.request = .soak →
          u.steam.boiler = .filling ∧ u.steam.strokes = 0)
      ∧ (s.steam.request = .none → u.steam.boiler = .off) := by
  intro u open_
  have barred : s.barsHeating = true := by
    obtain dry | hot := clears
    · exact barsHeating_of (k := .boilerDry) (.inr (.inr rfl)) dry.1
    · exact barsHeating_of (k := .cavityOverheat) (.inl rfl) hot.1
  have ready : ¬s.ServiceWaits := by
    rw [← serviceWaits_iff, free, off]
    decide
  have rest : s.steam.Free :=
    ⟨Classical.byContradiction fun owed => ready (.inr (.inl owed)), Bool.eq_false_iff.mpr fun started => ready (.inl started)⟩
  refine ⟨fun low request => ?_, fun low request => ?_, fun low high request => ?_, fun none => ?_⟩
  · obtain ⟨-, ⟨-, bars⟩ | ⟨state, -⟩⟩ : u.SteamServed :=
      clearFaults_induct clearOne_steamServed ⟨⟨request, low, rest⟩, .inl ⟨off, barred⟩⟩
    · exact absurd (bars.symm.trans open_) (by decide)
    · rw [state, heatState_eq, open_]
      rfl
  · obtain ⟨-, still, -, bars | heats⟩ : u.SoakServed :=
      clearFaults_induct clearOne_soakServed ⟨⟨request, low, rest⟩, off, runs, .inl barred⟩
    · exact absurd (bars.symm.trans open_) (by decide)
    · exact ⟨still, heats⟩
  · obtain ⟨-, ⟨-, bars⟩ | fills⟩ : u.FillServed :=
      clearFaults_induct clearOne_fillServed ⟨⟨request, low, high, rest⟩, .inl ⟨off, barred⟩⟩
    · exact absurd (bars.symm.trans open_) (by decide)
    · exact fills
  · have same : u.steam = s.steam :=
      clearFaults_induct (Q := fun t => t.steam = s.steam)
        (fun k t kept => (clearOne_noRequest k (by rw [kept]; exact none) (by rw [kept]; exact rest.1)).trans kept) rfl
    rw [same]
    exact off

/-- An owed drain that had timed out starts (R94). -/
theorem clearFaults_drains {s : State} (clears : s.Clears .drainTimeout) (owed : s.steam.owed = some .timedOut)
    (waits : s.steam.drainStarted = false) :
    s.clearFaults.steam.drainStarted = true ∧ s.clearFaults.steam.coolWait = some ⟨0, 0⟩ := by
  obtain ⟨-, ⟨-, active, -⟩ | served⟩ : s.clearFaults.TimedOutServed :=
    clearFaults_induct clearOne_timedOutServed ⟨owed, .inl ⟨waits, clears⟩⟩
  · rw [clearFaults_get, cleared_of_latched clears.1 clears.2] at active
    cases active
  · exact served

/-! ## QUERY (R184) -/

/-- The report kinds by their codes (R195). -/
theorem reportKind_named {n : Nat} {k : ReportKind} (named : [ReportKind.climate, .program, .water, .share, .fault][n]? = some k) :
    ReportKind.ofCode n = some k := by
  match n, named with
  | 0, named => exact named
  | 1, named => exact named
  | 2, named => exact named
  | 3, named => exact named
  | 4, named => exact named
  | n + 5, named => cases named

/-- No report kind has another code (R195). -/
theorem reportKind_unknown {n : Nat} (beyond : 5 ≤ n) : ReportKind.ofCode n = none := by
  obtain ⟨m, rfl⟩ : ∃ m, n = m + 5 := ⟨n - 5, by omega⟩
  rfl

/-- A QUERY is judged by its report kind (R184). -/
theorem query_judged (src : Nat) (n : Byte) (s : State) :
    (∀ k, ReportKind.ofCode n.toNat = some k → s.takeRequest src 16 [n] = ⟨s, .contents k⟩)
      ∧ (ReportKind.ofCode n.toNat = none → s.takeRequest src 16 [n] = ⟨s, .code .badField []⟩) := by
  have byte : byteAt [n] 1 = n.toNat := rfl
  refine ⟨fun k code => ?_, fun code => ?_⟩
  · simp only [State.takeRequest, byte, code]
  · simp only [State.takeRequest, byte, code]
    rfl

/-- Settles O60: the records and the boiler after the clear, the conditions that return, and the answers. -/
theorem clearFaultsAndQuery : Obligations.ClearFaultsAndQuery := by
  intro src s takes h cleared
  have faults : h.faults = s.faults := heard_faults s
  have steam : h.steam = s.steam := heard_steam s
  have clears (k : FaultKind) : h.Clears k ↔ cleared k := by rw [State.Clears, faults]
  refine ⟨⟨h.clearFaults, fun k => ?records, fun timeout owed waits => ?drains, fun unbarred open_ free runs off => ?serves,
    fun none => ?nothing, ?only, fun back => ?returns⟩, fun n => ⟨fun beyond => ?unknown, fun k named => ?contents⟩⟩
  case records =>
    rw [clearFaults_get, cleared_eq, faults]
  case drains =>
    rw [← steam] at owed waits
    exact clearFaults_drains ((clears _).mpr timeout) owed waits
  case serves =>
    have serves := clearFaults_serves (s := h) (unbarred.imp (clears _).mpr (clears _).mpr)
      ((heard_mustDrainFirst s).trans free) ((heard_suspended s).trans runs) (by rw [steam]; exact off) open_
    rwa [steam] at serves
  case nothing =>
    exact clearFaults_induct (Q := fun t => t = h)
      (fun k t same => by rw [same]; exact clearOne_same (mt (clears k).mp (none k))) rfl
  case only => exact (clearFaults_does h).only.mono (by decide)
  case returns =>
    intro dry hot w v
    have hotIff : hot ↔ back.cavityOverheat = true ∧ h.Clears .cavityOverheat := and_congr_right fun _ => (clears _).symm
    have dryIff : dry ↔ back.boilerDry = true ∧ h.Clears .boilerDry := and_congr_right fun _ => (clears _).symm
    have first : h.clearFaults.runSettle.returnsTo .cavityOverheat back.cavityOverheat h = w := by
      obtain ⟨comes, stays⟩ := returnsTo_eq .cavityOverheat back.cavityOverheat h.clearFaults.runSettle h
      by_cases yes : hot
      · exact (comes (hotIff.mp yes)).trans (if_pos yes).symm
      · exact (stays (mt hotIff.mpr yes)).trans (if_neg yes).symm
    have both : h.takeClear back = v := by
      rw [State.takeClear, first]
      obtain ⟨comes, stays⟩ := returnsTo_eq .boilerDry back.boilerDry w h
      by_cases yes : dry
      · exact (comes (dryIff.mp yes)).trans (if_pos yes).symm
      · exact (stays (mt dryIff.mpr yes)).trans (if_neg yes).symm
    refine ⟨fun k => ?_, ?_⟩
    · have returning : ((k = .cavityOverheat ∧ back.cavityOverheat = true) ∨ (k = .boilerDry ∧ back.boilerDry = true)) ∧ h.Clears k
          ↔ (k = .cavityOverheat ∧ hot) ∨ (k = .boilerDry ∧ dry) := by
        rw [hotIff, dryIff]
        constructor
        · rintro ⟨⟨rfl, comes⟩ | ⟨rfl, comes⟩, gone⟩
          · exact .inl ⟨rfl, comes, gone⟩
          · exact .inr ⟨rfl, comes, gone⟩
        · rintro (⟨rfl, comes, gone⟩ | ⟨rfl, comes, gone⟩)
          · exact ⟨.inl ⟨rfl, comes⟩, gone⟩
          · exact ⟨.inr ⟨rfl, comes⟩, gone⟩
      rw [← both, takeClear_get, clearFaults_get]
      by_cases comes : (k = .cavityOverheat ∧ hot) ∨ (k = .boilerDry ∧ dry)
      · obtain ⟨which, active, latched⟩ := returning.mpr comes
        rw [if_pos ⟨which, active, latched⟩, if_pos comes, cleared_of_latched active latched, faults]
        rfl
      · rw [if_neg (mt returning.mp comes), if_neg comes]
    · obtain ⟨hi, lo, data, bits⟩ := activeFaultBytes_bits v.faults
      refine ⟨hi, lo, ?_, bits⟩
      have row : exec (.clearFaults src ⟨[], back⟩) s = _ := congrArg Host.Outcome.next (arrive_taken (code := 15#8) (back := back) takes rfl)
      have verdict : h.takeRequest src 15 [] back = ⟨v, .code .ok [hi, lo]⟩ := by
        rw [← data, ← both]
        rfl
      rw [row, show s.heard.takeRequest src (15#8).toNat [] back = _ from verdict]
      rfl
  case unknown =>
    exact takenRow (code := 16#8) (body := [n]) takes rfl ((query_judged src n h).2 (reportKind_unknown beyond))
  case contents =>
    have row := takenRow (code := 16#8) (body := [n]) takes rfl ((query_judged src n h).1 k (reportKind_named named))
    exact ⟨h.answerQuery src k, row, rfl, (answerQuery_does src k h).only⟩

end Sys2Proof.Machine
end
